-- ==== Sys2Proof/Word.lean ====
section
/-! DEFINITION. The word types and their plainest arithmetic: fields of words, formats and exact
numbers as plain data. -/

namespace Sys2Proof

/-- One byte. -/
abbrev Byte := BitVec 8

/-- A 64-bit word: an instruction word, a descriptor word, a register. -/
abbrev W64 := BitVec 64

/-- Field [hi:lo] of a word, as an unsigned number (R3: bit 0 is the least significant). -/
def fld (w : W64) (hi lo : Nat) : Nat := (w.toNat >>> lo) % 2 ^ (hi + 1 - lo)

/-- Bit n of a word. -/
def bit (w : W64) (n : Nat) : Bool := w.toNat.testBit n

/-- A field of `width` bits read as two's complement. -/
def signedField (width v : Nat) : Int :=
  if v < 2 ^ (width - 1) then (v : Int) else (v : Int) - 2 ^ width

/-- The formats of Table 2.1 (R30); codes 0xD to 0xF are reserved and name no format. -/
inductive Fmt where
  | posit8 | posit16 | posit32 | e4m3 | e5m2 | fp16 | bf16 | fp32 | fp64 | int8 | code4 | int32 | quire
deriving DecidableEq, Repr

/-- The format a 4-bit code names (Table 2.1). -/
def Fmt.ofCode : Nat → Option Fmt
  | 0 => some .posit8 | 1 => some .posit16 | 2 => some .posit32 | 3 => some .e4m3
  | 4 => some .e5m2 | 5 => some .fp16 | 6 => some .bf16 | 7 => some .fp32 | 8 => some .fp64
  | 9 => some .int8 | 10 => some .code4 | 11 => some .int32 | 12 => some .quire | _ => none

/-- A real or exceptional value, exact: the value of a pattern before or after a rounding.
`fin neg m e` is (-1)^neg * m * 2^e with m > 0; `nar` is NaN or NaR. -/
inductive Num where
  | nar
  | inf (neg : Bool)
  | zero (neg : Bool)
  | fin (neg : Bool) (m : Nat) (e : Int)
deriving DecidableEq, Repr

/-- Rounding directions (R47, R55): ties to even, toward +inf, toward -inf, toward zero, ties away. -/
inductive Rnd where
  | rne | up | down | zero | away
deriving DecidableEq, Repr

/-- The flags of TFLAGS (Table 6.5), bit positions of the register. -/
abbrev Flags := BitVec 9

/-- Sparse data by number: the entries of a table that differ from the table's default, in strictly
rising order of their numbers. -/
abbrev Table (α : Type) := List (Nat × α)

/-- Sparse bytes by address: a memory whose unlisted bytes read one fixed value. -/
abbrev Mem := List Host.Cell

end Sys2Proof
end

