-- ==== Sys2Proof/Syntax.lean ====
section
/-! DEFINITION. The commands of the block: one constructor for each row of spec/opcode_table.json, with
the data the outside world supplies with it. -/

namespace Sys2Proof

/-- A Yenel packet as it stands in host memory: 64 header bytes (Table 15.6) and the parameter units;
bytes beyond the end of the list are zero. -/
abbrev Packet := List Byte

/-- What a snapshot port shows when Oxbow brings it up (R363, R364, Table 14.3): whether its link
trained, whether every command to it completed without an error status within 8 s, whether Identify shows a namespace that
fits R363, how many I/O queue pairs the controller grants, and the volume header as read. -/
structure VolPort where
  port     : Nat
  link     : Bool
  cmdOk    : Bool
  nsOk     : Bool
  granted  : Nat
  isFmt3   : Bool
  setId    : BitVec 128
  volIndex : Nat
  slotLbas : Nat
  eui      : W64
deriving DecidableEq, Repr

/-- One slot of one volume as read back at a restore or a verify (Tables 14.3 to 14.5): commit block,
verify block, record, the volume's 1 MiB units of the data stream and its digest table; and whether every read of it
completed without an error status within 8 s (R364). -/
structure SlotImage where
  port   : Nat
  readOk : Bool
  slot   : Nat
  commit : List Byte
  verify : List Byte
  record : List Byte
  units  : List (List Byte)
  table  : List Byte
deriving DecidableEq, Repr

/-- What the tests of a long operation found: tiles that failed (die, physical row, physical column),
channels that failed, rows that failed (channel, bank, row) (R396, R286). -/
structure LongResult where
  tiles : List (Nat × Nat × Nat)
  chans : List Nat
  rows  : List (Nat × Nat × Nat)
deriving DecidableEq, Repr

/-- A read of host memory that the device issued (R405). -/
inductive HostRead where
  | fetch (ring : Nat) (addr : W64)
  | move (handle task : Nat) (addr : W64)
deriving DecidableEq, Repr

/-- How a training or a retrain of a port ended (Table 12.5): its steps were gone through with these receive lanes below margin and this
lane map from the partner for the lanes it sends on (R297); step 1 or step 2 failed; another step failed. -/
inductive TrainResult where
  | passed (low : List Nat) (txSpare : Option Nat)
  | noLaser
  | noLight
  | failed
deriving DecidableEq, Repr

/-- What a DARK port sees: whether its laser input is in range, and light on at least 8 receive lanes (R293, Table 12.4). -/
structure PortLight where
  port : Nat
  laser : Bool
  rx : Bool
deriving DecidableEq, Repr

/-- How a channel's training ended (Table 11.9): its steps were gone through with these lanes found bad, or step 1, 2, 5 or 6 failed. -/
inductive ChanTrain where
  | passed (bad : List Nat)
  | failed
deriving DecidableEq, Repr

/-- What the stages of bring-up found (R21, R18): hubs and Reach dies that failed self-test, tiles that
failed (die, physical row, physical column), in the order found. -/
structure SelfTestResult where
  hubFail : BitVec 4
  dieFail : BitVec 16
  tiles   : List (Nat × Nat × Nat)
deriving DecidableEq, Repr

/-- The platform manager's measurements of one tick (R420, Table 16.8): bus voltage mV, input current mA,
power over 1 ms and over 1 s in mW, input energy since power-good in mJ. -/
structure PowerMeas where
  vbus   : Nat
  iin    : Nat
  p1ms   : Nat
  p1s    : Nat
  energy : Nat
deriving DecidableEq, Repr

/-- The highest reading of each die in 1/16 °C (R423): 16 Reach, 32 DRAM, 4 hub, 12 Outfall. -/
structure SensorReadings where
  reach   : List Int
  dram    : List Int
  hub     : List Int
  outfall : List Int
deriving DecidableEq, Repr

/-- A step of the power-up stagger (Table 16.2, steps 4 and 6). -/
inductive StaggerStep where
  | reach (die : Nat) (railsOk : Bool)
  | engine (e : Nat)
deriving DecidableEq, Repr

/-- A dynamic address assignment (R454). -/
inductive I3cAssign where
  | setdasa (static dyn : Nat)
  | entdaa (dyn : Nat)
deriving DecidableEq, Repr

/-- What FUSEPROG names (R462). -/
inductive FuseTarget where
  | tile (die prow pcol : Nat)
  | rowRemap (chan bank row : Nat)
  | pageRetire (chan bank row : Nat)
deriving DecidableEq, Repr

/-- What MEMREP names: the DRAM repair resources of Table 11.13 (R462). -/
inductive MemRepOp where
  | rowRemap (chan bank row : Nat)
  | rowRetire (chan bank row : Nat)
  | laneSpare (chan lane : Nat)
  | laneMapout (chan lane : Nat)
deriving DecidableEq, Repr

/-- The commands. A packet command is the device's taking of the packet at the head of a ring. A tile
instruction is the issue of the next instruction of a tile, when it is that instruction. What the world outside or an analogue
unit decides is an operand. (DESIGN CHOICE: LOG 100.) -/
inductive Instr where
  -- admin and work commands (R392)
  | hello (ring : Nat) (pkt : Packet)
  | identify (ring : Nat) (pkt : Packet)
  | graphLoad (ring : Nat) (pkt : Packet)
  | graphRun (ring : Nat) (pkt : Packet)
  | graphAbort (ring : Nat) (pkt : Packet)
  | graphUnload (ring : Nat) (pkt : Packet)
  | regionMap (ring : Nat) (pkt : Packet)
  | regionUnmap (ring : Nat) (pkt : Packet)
  | linkEnumerate (ring : Nat) (pkt : Packet)
  | linkAttach (ring : Nat) (pkt : Packet)
  | linkDetach (ring : Nat) (pkt : Packet)
  | oxbowPolicySet (ring : Nat) (pkt : Packet) (vols : List VolPort)
  | oxbowPolicyReport (ring : Nat) (pkt : Packet)
  | oxbowSnapshot (ring : Nat) (pkt : Packet) (smartWarn : BitVec 4)
  | oxbowRestore (ring : Nat) (pkt : Packet) (images : List SlotImage)
  | oxbowVerify (ring : Nat) (pkt : Packet) (images : List SlotImage)
  | lockstepPair (ring : Nat) (pkt : Packet)
  | lockstepDissolve (ring : Nat) (pkt : Packet)
  | fwStage (ring : Nat) (pkt : Packet) (image : List Byte)
  | fwCommitWrite (ring : Nat) (pkt : Packet)
  | fwCommitActivate (ring : Nat) (pkt : Packet)
  | memRepairQuery (ring : Nat) (pkt : Packet)
  | memRepairRowRemap (ring : Nat) (pkt : Packet)
  | memRepairRowRetire (ring : Nat) (pkt : Packet)
  | memRetrain (ring : Nat) (pkt : Packet)
  | memBist (ring : Nat) (pkt : Packet)
  | memRepairLaneSpare (ring : Nat) (pkt : Packet)
  | memRepairLaneMapout (ring : Nat) (pkt : Packet)
  | quadrantDrain (ring : Nat) (pkt : Packet)
  | quadrantResume (ring : Nat) (pkt : Packet)
  | telemetryRead (ring : Nat) (pkt : Packet)
  | secureErase (ring : Nat) (pkt : Packet)
  | selfTest (ring : Nat) (pkt : Packet)
  | quadrantDrained (q : Nat)
  | sfuActivation
  | longOperationDone (res : LongResult)
  -- host accesses (R381, R385, R402) and resets (R397)
  | tailDoorbell (ring value : Nat) (refused : List Packet)
  | headDoorbell (ring value : Nat)
  | ringEnable (ring : Nat) (ctl : W64)
  | ringDisable (ring : Nat) (ctl : W64)
  | registerWrite (offset size : Nat) (data : W64)
  | rngTableWrite (offset size : Nat) (data : W64)
  | oxbCursorWrite (offset size : Nat) (data : W64)
  | hostEpochWrite (offset size : Nat) (data : W64)
  | elapsedRead (size : Nat)
  | vectorUnmask (vector : Option Nat)
  | holdoffExpiry (vector : Nat)
  | apertureRead (offset len : Nat)
  | apertureWrite (offset : Nat) (data : List Byte)
  | atomicopRequest
  | powerStateChange (d3 : Bool)
  | hostReadFailed (read : HostRead)
  | functionLevelReset
  | perstAssert
  | perstDeassert
  -- SPDM over DOE (R445)
  | spdmGetVersion
  | spdmGetCapabilities (req : List Byte)
  | spdmNegotiateAlgorithms (req : List Byte)
  | spdmGetDigests
  | spdmGetCertificate (slot offset len : Nat)
  | spdmChallenge (slot : Nat) (req : List Byte)
  | getMeasurements (signed : Bool) (index : Nat) (req : List Byte)
  | spdmUnsupportedRequest (code : Byte)
  -- the Sluice (09): handle h, task t
  | runStart (h : Nat)
  | rowRelease (h row : Nat)
  | tileTaskDispatch (h t : Nat)
  | barrier (h t : Nat)
  | barrierIngress (h t : Nat)
  | ingressComplete (h t : Nat)
  | declExpiry (h t : Nat)
  | taskTimeout (h t : Nat)
  | runEnd (h : Nat)
  | tileTaskComplete (h t : Nat)
  -- tile instructions and their inner steps (03 to 08)
  | feed (tile : Nat)
  | feeds (tile : Nat)
  | mma (tile : Nat)
  | mmaB (tile : Nat)
  | groupAdd (tile arr i j group : Nat)
  | nullPass (tile arr : Nat)
  | drain (tile : Nat)
  | drainRetry (tile : Nat)
  | qadd (tile : Nat)
  | qshr (tile : Nat)
  | qld (tile : Nat)
  | qst (tile : Nat)
  | qrnd (tile : Nat)
  | vecAdd (tile : Nat)
  | vecSub (tile : Nat)
  | vecMul (tile : Nat)
  | vecFma (tile : Nat)
  | vecDiv (tile : Nat)
  | vecSqrt (tile : Nat)
  | vecMin (tile : Nat)
  | vecMax (tile : Nat)
  | vecAbs (tile : Nat)
  | vecNeg (tile : Nat)
  | vecCmpeq (tile : Nat)
  | vecCmplt (tile : Nat)
  | vecCmple (tile : Nat)
  | vecSel (tile : Nat)
  | vecCvt (tile : Nat)
  | vecMaxr (tile : Nat)
  | vecMinr (tile : Nat)
  | vecSumr (tile : Nat)
  | vecAmaxr (tile : Nat)
  | vecShl (tile : Nat)
  | vecShr (tile : Nat)
  | vecAnd (tile : Nat)
  | vecOr (tile : Nat)
  | vecXor (tile : Nat)
  | vecFill (tile : Nat)
  | rdreg (tile : Nat)
  | clrvf (tile : Nat)
  | sfu (tile : Nat)
  | rowInit (tile : Nat)
  | rowSmax (tile : Nat)
  | rowSexp (tile : Nat)
  | rowRescale (tile : Nat)
  | rowDiv (tile : Nat)
  | rowMom (tile : Nat)
  | rowVar (tile : Nat)
  | rowNorm (tile : Nat)
  | lut (tile : Nat)
  | lutWriteComplete (tile arr : Nat)
  | laneSwap (tile arr lane : Nat)
  | dmaLoad (tile : Nat)
  | dmaStore (tile : Nat)
  | dmaRed (tile : Nat)
  | dmaPush (tile : Nat)
  | dmaComplete (tile : Nat)
  | loop (tile : Nat)
  | arset (tile : Nat)
  | aradd (tile : Nat)
  | syncWait (tile : Nat)
  | syncSignal (tile : Nat)
  | syncFence (tile : Nat)
  | syncDelay (tile : Nat)
  | endTile (tile : Nat)
  | tileComplete (tile : Nat)
  -- die engines (10)
  | transpose (h t : Nat)
  | gather (h t : Nat)
  | scatterAdd (h t : Nat)
  | rng (h t : Nat)
  | hreduce (h t : Nat)
  | hist (h t : Nat)
  | scalemax (h t : Nat)
  | scalehist (h t : Nat)
  | quant (h t : Nat)
  | qcode (h t : Nat)
  | copy (h t : Nat)
  | fill (h t : Nat)
  | scrub (h t : Nat)
  | engineComplete (h t : Nat)
  -- MOVE, COLL and MARK tasks
  | moveCopy (h t : Nat) (hostData : List Byte)
  | moveReduceWrite (h t : Nat) (hostData : List Byte)
  | moveComplete (h t : Nat)
  | collExact (h t : Nat)
  | collOrdered (h t : Nat)
  | collFast (h t : Nat)
  | collComplete (h t : Nat)
  | markSnapshot (h t : Nat) (smartWarn : BitVec 4)
  | markCursor (h t : Nat)
  | markLockstep (h t : Nat)
  | markMaint (h t : Nat)
  -- channels (11)
  | channelRequestStart (g : Nat)
  | agePromotion (g : Nat)
  | refreshDue (g : Nat)
  | autoRetrain (g lane : Nat)
  | hardLaneFailure (g lane : Nat)
  | channelRetrainDone (g : Nat) (res : ChanTrain)
  | rowRemapDone (g bank : Nat)
  -- ports (12)
  | portTrainingDone (p : Nat) (res : TrainResult)
  | trainingTimeout (p : Nat)
  | lightDetect (seen : PortLight)
  | failedRetryTimer (p : Nat) (light : Bool)
  | laserInputLow (p : Nat)
  | lightLoss (p : Nat)
  | laneLockLoss (p lane : Nat)
  | portRetrainDone (p : Nat) (res : TrainResult)
  | retrainTimeout (p : Nat)
  | flitReceive (p : Nat) (flit : List Byte) (before : Nat) (errs : List Nat)
  | ackTimer (p : Nat)
  | replayTimeout (p : Nat)
  -- transactions at the head of a port's received class (12, 13, 14)
  | tlRead (p : Nat)
  | tlWrite (p : Nat)
  | redwrite (p : Nat)
  | tlPersist (p : Nat)
  | readrsp (p : Nat)
  | tlAck (p : Nat)
  | responseTimeout (p tag : Nat)
  | message (p : Nat)
  | collseg (p : Nat)
  | mgmtHello (p : Nat)
  | mgmtChallenge (p : Nat)
  | cert (p : Nat)
  | signed (p : Nat)
  | attestTimeout (p : Nat)
  | detach (p : Nat)
  | collCancel (p : Nat)
  | lsPair (p : Nat)
  | lsStart (p : Nat)
  | lsDigest (p : Nat)
  | lsTiles (p : Nat)
  | lsFreeze (p : Nat)
  | lsEnd (p : Nat)
  | lockstepTimeout (h : Nat)
  | buddyData (p : Nat)
  | buddyCommit (p : Nat)
  | buddyFetch (p : Nat)
  -- NVMe answers (14)
  | nvmeCompletion (port : Nat) (ok : Bool)
  | nvmeTimeout (port : Nat)
  -- supply, clocks, heat, bring-up (16, 18)
  | powerUp
  | powerGood (testMode refclkOk : Bool)
  | bringupStage (stage : Nat) (res : SelfTestResult)
  | vinSample (mv : Nat) (warn : Bool)
  | rideThroughExpiry
  | pwrWarnAssert
  | clockDividerUpdate (meas : PowerMeas)
  | sensorSample (r : SensorReadings)
  | rootLockLoss
  -- management and test (18)
  | i3cPrivateWrite (data : List Byte)
  | i3cPrivateRead (n : Nat)
  | i3cAddressAssign (a : I3cAssign)
  | extest (cells : List Bool)
  | samplePreload (cells : List Bool)
  | idcode
  | clamp
  | highz
  | memrep (op : MemRepOp)
  | tbist (tiles : List (Nat × Nat × Nat)) (failing : List (Nat × Nat × Nat))
  | scandump (bits : Nat)
  | fuseprog (target : FuseTarget)
  | bypass (code : Byte)
  | powerUpStagger (step : StaggerStep)
  | hostLinkTrained
  | lsPairTimeout
  | lsStartTimeout (h : Nat)
deriving DecidableEq, Repr

end Sys2Proof
end

