-- ==== Sys2Proof/Decode.lean ====
section
/-! DEFINITION. The block has no instruction decoder: no row of the opcode table gives bits, so no word
spells a command. -/

namespace Sys2Proof

/-- The command a word spells by the table's bits: no row of spec/opcode_table.json has any, so none. -/
def decodeTableWord (_nbits _w : Nat) : Option Instr := none

end Sys2Proof
end

