-- ==== Sys2Proof/Machine/Numeric.lean ====
section
/-! DEFINITION. Number formats: decoding, exact arithmetic, and the roundings of R33 to R51. -/

namespace Sys2Proof.Machine

/-! ### Flag bits (Table 6.5) -/

/-- INVALID, TFLAGS [0] (R52). -/
def fInvalid : Flags := 0x001#9
/-- OVERFLOW, TFLAGS [1] (R52). -/
def fOverflow : Flags := 0x002#9
/-- UNDERFLOW, TFLAGS [2] (R52). -/
def fUnderflow : Flags := 0x004#9
/-- FLUSHED, TFLAGS [3] (R50). -/
def fFlushed : Flags := 0x008#9
/-- INEXACT, TFLAGS [4] (R52). -/
def fInexact : Flags := 0x010#9
/-- SCALE_MISS, TFLAGS [5] (R143). -/
def fScaleMiss : Flags := 0x020#9
/-- LONGSUM, TFLAGS [6] (R120). -/
def fLongsum : Flags := 0x040#9
/-- QUIRE_OVF, TFLAGS [7] (R38). -/
def fQuireOvf : Flags := 0x080#9
/-- SKEW, TFLAGS [8] (R85). -/
def fSkew : Flags := 0x100#9
/-- No flag. -/
def fNone : Flags := 0#9

/-- Flags raised under a condition. -/
def flagIf (c : Bool) (f : Flags) : Flags := if c then f else fNone

/-! ### Formats -/

/-- Width in bits (Table 2.1); a 4-bit code has half a byte and a quire image 64 bytes in the near tier. -/
def fmtBits : Fmt → Nat
  | .posit8 | .e4m3 | .e5m2 | .int8 => 8
  | .posit16 | .fp16 | .bf16 => 16
  | .posit32 | .fp32 | .int32 => 32
  | .fp64 => 64
  | .code4 => 4
  | .quire => 512

/-- Size of one stored element in bytes (R32). -/
def fmtBytes (f : Fmt) : Nat := fmtBits f / 8

/-- The posit formats. -/
def isPosit : Fmt → Bool
  | .posit8 | .posit16 | .posit32 => true
  | _ => false

/-- The IEEE and OCP floating formats (Table 2.6). -/
def isFloat : Fmt → Bool
  | .e4m3 | .e5m2 | .fp16 | .bf16 | .fp32 | .fp64 => true
  | _ => false

/-- The integer formats with codes (R43, R44). -/
def isInt : Fmt → Bool
  | .int8 | .int32 => true
  | _ => false

/-- Precision (hidden bit included), exponent bias and largest exponent field that encodes finite
values, of a floating format (Table 2.6). -/
def floatParams : Fmt → Nat × Nat × Nat
  | .e4m3 => (4, 7, 15)
  | .e5m2 => (3, 15, 30)
  | .fp16 => (11, 15, 30)
  | .bf16 => (8, 127, 254)
  | .fp32 => (24, 127, 254)
  | .fp64 => (53, 1023, 2046)
  | _ => (24, 127, 254)

/-- The canonical NaN or NaR pattern of a format (Table 2.3, Table 2.6). -/
def nanBits : Fmt → Nat
  | .posit8 => 0x80 | .posit16 => 0x8000 | .posit32 => 0x80000000
  | .e4m3 => 0x7F | .e5m2 => 0x7E | .fp16 => 0x7E00 | .bf16 => 0x7FC0 | .fp32 => 0x7FC00000
  | .fp64 => 0x7FF8000000000000
  | .quire => 2 ^ 511
  | _ => 0

/-- floor(log2 (m * 2^e)) for m > 0. -/
def lead (m : Nat) (e : Int) : Int := (Nat.log2 m : Int) + e

/-- The largest finite magnitude of a target, as m * 2^e (Table 2.7). -/
def maxFinite : Fmt → Bool → Nat × Int
  | .posit8, _ => (1, 24) | .posit16, _ => (1, 56) | .posit32, _ => (1, 120)
  | .e4m3, _ => (7, 6) | .e5m2, _ => (7, 13) | .fp16, _ => (2047, 5) | .bf16, _ => (255, 120)
  | .fp32, _ => (2 ^ 24 - 1, 104) | .fp64, _ => (2 ^ 53 - 1, 971)
  | .int8, true => (127, 0) | .int8, false => (255, 0)
  | _, _ => (2 ^ 31 - 1, 0)

/-! ### Exact values -/

/-- A signed dyadic as a Num; zero gets the given sign. -/
def numOfInt (zeroNeg : Bool) (m : Int) (e : Int) : Num :=
  if m = 0 then .zero zeroNeg else .fin (decide (m < 0)) m.natAbs e

/-- The signed significand and exponent of a finite value; (0, 0) for zero and for exceptional values. -/
def numDyadic : Num → Int × Int
  | .fin neg m e => (if neg then -(m : Int) else (m : Int), e)
  | _ => (0, 0)

/-- The sign of a value. -/
def numNeg : Num → Bool
  | .fin n _ _ => n | .zero n => n | .inf n => n | .nar => false

/-- Is the value finite (zero included)? -/
def numFinite : Num → Bool
  | .fin _ _ _ => true | .zero _ => true | _ => false

/-- Is the value NaN or NaR? -/
def numNar : Num → Bool
  | .nar => true | _ => false

/-- Negation. -/
def numMinus : Num → Num
  | .nar => .nar | .inf n => .inf (!n) | .zero n => .zero (!n) | .fin n m e => .fin (!n) m e

/-- Magnitude. -/
def numAbs : Num → Num
  | .nar => .nar | .inf _ => .inf false | .zero _ => .zero false | .fin _ m e => .fin false m e

/-- The value times 2^s, exactly; zero, infinity and NaN pass unchanged (R70). -/
def numScale (s : Int) : Num → Num
  | .fin n m e => .fin n m (e + s)
  | x => x

/-- Align two signed dyadics to one exponent. -/
def alignDy (a b : Int × Int) : Int × Int × Int :=
  let e := min a.2 b.2
  (a.1 * 2 ^ (a.2 - e).toNat, b.1 * 2 ^ (b.2 - e).toNat, e)

/-- Exact sum of two signed dyadics. -/
def addDy (a b : Int × Int) : Int × Int :=
  if a.1 = 0 then b else if b.1 = 0 then a else
  let t := alignDy a b
  (t.1 + t.2.1, t.2.2)

/-- Exact sum of a list of signed dyadics. -/
def sumDy (l : List (Int × Int)) : Int × Int := l.foldl addDy (0, 0)

/-- Exact addition with IEEE specials; `down` is the rounding direction toward -inf, which decides the
sign of an exact zero sum. The flag is INVALID for inf - inf (R52). -/
def numAdd (down : Bool) (a b : Num) : Num × Flags :=
  match a, b with
  | .nar, _ => (.nar, fNone)
  | _, .nar => (.nar, fNone)
  | .inf s, .inf t => if s = t then (.inf s, fNone) else (.nar, fInvalid)
  | .inf s, _ => (.inf s, fNone)
  | _, .inf t => (.inf t, fNone)
  | .zero s, .zero t => (.zero (if s = t then s else down), fNone)
  | .zero _, y => (y, fNone)
  | x, .zero _ => (x, fNone)
  | x, y => let r := addDy (numDyadic x) (numDyadic y); (numOfInt down r.1 r.2, fNone)

/-- Exact product with IEEE specials; INVALID for 0 times infinity (R52). A zero product has the XOR of its factors' signs, in every
format (R116). (DESIGN CHOICE: LOG 111.) -/
def numMul (a b : Num) : Num × Flags :=
  let sg := numNeg a != numNeg b
  match a, b with
  | .nar, _ => (.nar, fNone)
  | _, .nar => (.nar, fNone)
  | .inf _, .zero _ => (.nar, fInvalid)
  | .zero _, .inf _ => (.nar, fInvalid)
  | .inf _, _ => (.inf sg, fNone)
  | _, .inf _ => (.inf sg, fNone)
  | .zero _, _ => (.zero sg, fNone)
  | _, .zero _ => (.zero sg, fNone)
  | .fin _ m e, .fin _ n f => (.fin sg (m * n) (e + f), fNone)

/-- Bits kept of an inexact quotient or root beyond those of its operands, so that the one rounding
that follows is decided exactly by the kept bits and a sticky bit. -/
def guardBits : Nat := 256

/-- |x|/|y| as m * 2^e with a sticky lowest bit when the quotient is not exact (m is 0 only if x is). -/
def quotDy (m : Nat) (e : Int) (n : Nat) (f : Int) : Nat × Int :=
  let sh := Nat.log2 n + guardBits
  let q := (m <<< sh) / n
  let r := (m <<< sh) % n
  (2 * q + (if r = 0 then 0 else 1), e - f - sh - 1)

/-- Exact division with specials: 0/0 and inf/inf are INVALID; finite non-zero by zero is an infinity.
The second component says whether the operation divided a finite non-zero number by zero. -/
def numDiv (a b : Num) : Num × Flags × Bool :=
  let sg := numNeg a != numNeg b
  match a, b with
  | .nar, _ => (.nar, fNone, false)
  | _, .nar => (.nar, fNone, false)
  | .inf _, .inf _ => (.nar, fInvalid, false)
  | .zero _, .zero _ => (.nar, fInvalid, false)
  | .inf _, _ => (.inf sg, fNone, false)
  | _, .inf _ => (.zero sg, fNone, false)
  | .zero _, _ => (.zero sg, fNone, false)
  | _, .zero _ => (.inf sg, fNone, true)
  | .fin _ m e, .fin _ n f => let q := quotDy m e n f; (.fin sg q.1 q.2, fNone, false)

/-- Integer square root by Newton's method on fuel. -/
def isqrtGo : Nat → Nat → Nat → Nat
  | 0, _, x => x
  | k + 1, n, x =>
    let y := (x + n / x) / 2
    if y < x then isqrtGo k n y else x

/-- floor(sqrt n). -/
def isqrt (n : Nat) : Nat :=
  if n = 0 then 0 else isqrtGo (Nat.log2 n + 2) n (2 ^ (Nat.log2 n / 2 + 1))

/-- sqrt(m * 2^e) as a dyadic with a sticky lowest bit when not exact. -/
def sqrtDy (m : Nat) (e : Int) : Nat × Int :=
  let sh := 2 * guardBits + (e.emod 2).toNat
  let n := m <<< sh
  let r := isqrt n
  (2 * r + (if r * r = n then 0 else 1), (e - sh) / 2 - 1)

/-- Exact square root with specials: INVALID for negative operands. -/
def numSqrt : Num → Num × Flags
  | .nar => (.nar, fNone)
  | .inf true => (.nar, fInvalid)
  | .inf false => (.inf false, fNone)
  | .zero s => (.zero s, fNone)
  | .fin true _ _ => (.nar, fInvalid)
  | .fin false m e => let r := sqrtDy m e; (.fin false r.1 r.2, fNone)

/-- Comparison of two values that are not NaN: the sign of a - b. -/
def numCmp (a b : Num) : Ordering :=
  match a, b with
  | .inf s, .inf t => if s = t then .eq else if s then .lt else .gt
  | .inf s, _ => if s then .lt else .gt
  | _, .inf t => if t then .gt else .lt
  | x, y =>
    let t := alignDy (numDyadic x) (numDyadic y)
    compare t.1 t.2.1

/-- max of R53: NaN if either is NaN; +0 over -0. -/
def numMax (a b : Num) : Num :=
  match a, b with
  | .nar, _ => .nar
  | _, .nar => .nar
  | .zero s, .zero t => .zero (s && t)
  | x, y => if numCmp x y = .lt then y else x

/-- min of R53: NaN if either is NaN; -0 under +0. -/
def numMin (a b : Num) : Num :=
  match a, b with
  | .nar, _ => .nar
  | _, .nar => .nar
  | .zero s, .zero t => .zero (s || t)
  | x, y => if numCmp x y = .gt then y else x

/-! ### Decoding patterns -/

/-- Length of the run of bits equal to `r` going down from position n - 1. -/
def runLength (p : Nat) (r : Bool) : Nat → Nat
  | 0 => 0
  | n + 1 => if p.testBit n = r then runLength p r n + 1 else 0

/-- The value of an n-bit posit (R33). -/
def decodePosit (n p0 : Nat) : Num :=
  let p := p0 % 2 ^ n
  if p = 0 then .zero false
  else if p = 2 ^ (n - 1) then .nar
  else
    let s := p.testBit (n - 1)
    let q := if s then 2 ^ n - p else p
    let r := q.testBit (n - 2)
    let m := runLength q r (n - 1)
    let k : Int := if r then (m : Int) - 1 else -(m : Int)
    let rest := n - 1 - m - 1
    let tail := q % 2 ^ rest
    let e := if rest ≥ 2 then tail >>> (rest - 2) else tail <<< (2 - rest)
    let fb := rest - 2
    let f := tail % 2 ^ fb
    .fin s (2 ^ fb + f) (4 * k + (e : Int) - (fb : Int))

/-- The value of a floating pattern (Table 2.6). -/
def decodeFloat (f : Fmt) (b0 : Nat) : Num :=
  let t := floatParams f
  let p := t.1
  let bias := t.2.1
  let w := fmtBits f
  let b := b0 % 2 ^ w
  let s := b.testBit (w - 1)
  let fr := b % 2 ^ (p - 1)
  let ex := (b >>> (p - 1)) % 2 ^ (w - p)
  if ex = 0 then
    if fr = 0 then .zero s else .fin s fr (2 - (bias : Int) - p)
  else if f = .e4m3 ∧ ex = 15 ∧ fr = 7 then .nar
  else if f ≠ .e4m3 ∧ ex = 2 ^ (w - p) - 1 then (if fr = 0 then .inf s else .nar)
  else .fin s (2 ^ (p - 1) + fr) ((ex : Int) - bias - p + 1)

/-- The value of an integer pattern (R43, R44). -/
def decodeInt (w : Nat) (signed : Bool) (b0 : Nat) : Int :=
  let b := b0 % 2 ^ w
  if signed then signedField w b else (b : Int)

/-- The value a pattern of format f encodes; `sg` is the signedness of an int8 element (R43). A quire
pattern is read as a quire32 image (R37). -/
def decode (f : Fmt) (sg : Bool) (b : Nat) : Num :=
  match f with
  | .posit8 => decodePosit 8 b
  | .posit16 => decodePosit 16 b
  | .posit32 => decodePosit 32 b
  | .int8 => numOfInt false (decodeInt 8 sg b) 0
  | .int32 => numOfInt false (decodeInt 32 true b) 0
  | .code4 => numOfInt false ((b % 16 : Nat) : Int) 0
  | .quire => if b % 2 ^ 512 = 2 ^ 511 then .nar else numOfInt false (decodeInt 512 true b) (-240)
  | f => decodeFloat f b

/-- Is the pattern a subnormal of a flushable format (R50)? -/
def isSubnormal (f : Fmt) (b : Nat) : Bool :=
  match f with
  | .e4m3 | .e5m2 | .fp16 | .bf16 | .fp32 =>
    let t := floatParams f
    ((b >>> (t.1 - 1)) % 2 ^ (fmtBits f - t.1) == 0) && (b % 2 ^ (t.1 - 1) != 0)
  | _ => false

/-- An element as a tile path reads it: a subnormal is zero of its sign under SUBFLUSH, with FLUSHED
(R50 item 1). -/
def decodeIn (subflush : Bool) (f : Fmt) (sg : Bool) (b : Nat) : Num × Flags :=
  if subflush && isSubnormal f b then (.zero (numNeg (decode f sg b)), fFlushed)
  else (decode f sg b, fNone)

/-! ### Rounding -/

/-- m * 2^e cut at weight 2^q: the integer part in units of 2^q, and the class of the rest
(0 exact, 1 below half, 2 half, 3 above half). -/
def cutAt (m : Nat) (e q : Int) : Nat × Nat :=
  if q ≤ e then (m <<< (e - q).toNat, 0)
  else
    let d := (q - e).toNat
    let r := m % 2 ^ d
    (m >>> d, if r = 0 then 0 else if r < 2 ^ (d - 1) then 1 else if r = 2 ^ (d - 1) then 2 else 3)

/-- Does rounding in direction rnd step the magnitude up? -/
def stepUp (rnd : Rnd) (neg odd : Bool) (cls : Nat) : Bool :=
  match rnd with
  | .rne => cls == 3 || (cls == 2 && odd)
  | .away => cls ≥ 2
  | .up => cls != 0 && !neg
  | .down => cls != 0 && neg
  | .zero => false

/-- A rounded pattern with the flags its rounding raised. -/
abbrev Rounded := Nat × Flags

/-- A finite non-zero value into an n-bit posit (R34, R35). -/
def roundPosit (n : Nat) (neg : Bool) (m : Nat) (e : Int) : Rounded :=
  let l := lead m e
  let top : Int := 4 * ((n : Int) - 2)
  let fin (k : Nat) (fl : Flags) : Rounded := ((if neg then 2 ^ n - k else k), fl)
  if l > top ∨ (l = top ∧ m ≠ 2 ^ Nat.log2 m) then fin (2 ^ (n - 1) - 1) (fOverflow ||| fInexact)
  else if l < -top then fin 1 (fUnderflow ||| fInexact)
  else
    let k := l / 4
    let ex := (l % 4).toNat
    let fb := Nat.log2 m
    let frac := m - 2 ^ fb
    -- regime bits as a number and their count
    let reg : Nat × Nat := if k ≥ 0 then ((2 ^ (k.toNat + 1) - 1) * 2, k.toNat + 2) else (1, (-k).toNat + 1)
    let len := reg.2 + 2 + fb
    let pat := (reg.1 * 4 + ex) * 2 ^ fb + frac
    if len ≤ n - 1 then fin (pat <<< (n - 1 - len)) fNone
    else
      let c := cutAt pat 0 ((len - (n - 1) : Nat) : Int)
      let r := if stepUp .rne neg (c.1 % 2 == 1) c.2 then c.1 + 1 else c.1
      let r1 := if r = 0 then 1 else if r ≥ 2 ^ (n - 1) then 2 ^ (n - 1) - 1 else r
      fin r1 (flagIf (c.2 != 0) fInexact)

/-- Options of a rounding into a floating format: direction, E4M3_OVF (R48), SUBFLUSH (R50). -/
structure RndOpts where
  rnd : Rnd := .rne
  e4m3Sat : Bool := false
  subflush : Bool := false
deriving DecidableEq, Repr

/-- The pattern an overflow gives (R48); a direction that rounds toward zero gives the largest finite
value, as IEEE 754 has it (R55). -/
def overflowBits (f : Fmt) (o : RndOpts) (neg : Bool) : Nat :=
  let w := fmtBits f
  let t := floatParams f
  let sgn := if neg then 2 ^ (w - 1) else 0
  let largest := t.2.2 * 2 ^ (t.1 - 1) + (if f = .e4m3 then 6 else 2 ^ (t.1 - 1) - 1)
  let toward0 := match o.rnd with
    | .zero => true | .up => neg | .down => !neg | _ => false
  if f = .e4m3 then (if o.e4m3Sat || toward0 then sgn + largest else nanBits .e4m3)
  else if toward0 then sgn + largest
  else sgn + (t.2.2 + 1) * 2 ^ (t.1 - 1)

/-- A finite non-zero value into a floating format (R47, R48, R49, R50). -/
def roundFloat (f : Fmt) (o : RndOpts) (neg : Bool) (m : Nat) (e : Int) : Rounded :=
  let t := floatParams f
  let p := t.1
  let w := fmtBits f
  let emin : Int := 1 - (t.2.1 : Int)
  let sgn := if neg then 2 ^ (w - 1) else 0
  let l := lead m e
  let q := max l emin - (p - 1 : Nat)
  let c := cutAt m e q
  let r := if stepUp o.rnd neg (c.1 % 2 == 1) c.2 then c.1 + 1 else c.1
  -- tininess after rounding with an unbounded exponent range (R49)
  let u := cutAt m e (l - (p - 1 : Nat))
  let ur := if stepUp o.rnd neg (u.1 % 2 == 1) u.2 then u.1 + 1 else u.1
  let tiny := decide (lead ur (l - (p - 1 : Nat)) < emin)
  let mx := maxFinite f true
  if tiny && o.subflush && (f != .fp64) then (sgn, fFlushed ||| fUnderflow ||| fInexact)
  else if numCmp (.fin false (max r 1) q) (.fin false mx.1 mx.2) = .gt then
    (overflowBits f o neg, fOverflow ||| fInexact)
  else
    let qmin := emin - (p - 1 : Nat)
    let bits := (q - qmin).toNat * 2 ^ (p - 1) + r
    (sgn + bits, flagIf (c.2 != 0) fInexact ||| flagIf (tiny && c.2 != 0) fUnderflow)

/-- The range of an integer target: least and greatest value. -/
def intRange (f : Fmt) (sg : Bool) : Int × Int :=
  match f, sg with
  | .int8, true => (-128, 127)
  | .int8, false => (0, 255)
  | _, _ => (-(2 ^ 31), 2 ^ 31 - 1)

/-- The pattern of an integer of w bits. -/
def intBits (w : Nat) (v : Int) : Nat := (v % 2 ^ w).toNat

/-- Clip an integer to a target's range, OVERFLOW (and INEXACT, since the result then differs from the
source, Table 2.8) if it changes. -/
def clipInt (f : Fmt) (sg : Bool) (v : Int) : Rounded :=
  let g := intRange f sg
  let c := max g.1 (min g.2 v)
  (intBits (fmtBits f) c, flagIf (c != v) (fOverflow ||| fInexact))

/-- A finite non-zero value into an integer format: round, then clip (R47, R48). -/
def roundInt (f : Fmt) (sg : Bool) (rnd : Rnd) (neg : Bool) (m : Nat) (e : Int) : Rounded :=
  let c := cutAt m e 0
  let r := if stepUp rnd neg (c.1 % 2 == 1) c.2 then c.1 + 1 else c.1
  let v : Int := if neg then -(r : Int) else r
  let t := clipInt f sg v
  (t.1, t.2 ||| flagIf (c.2 != 0) fInexact)

/-- The conversion of a value into format f (Table 2.8, R51): the pattern and its flags. Integers round
ties away (R47) unless the direction is given by `o.rnd` with `intDir`. An infinity or NaN that the target does not hold changes into
another value, so INEXACT comes with its flag (R51). (DEDUCED: LOG 112.) -/
def roundTo (f : Fmt) (sg : Bool) (o : RndOpts) (intDir : Bool) (x : Num) : Rounded :=
  match f with
  | .posit8 | .posit16 | .posit32 =>
    let n := fmtBits f
    match x with
    | .nar => (nanBits f, fNone)
    | .inf _ => (nanBits f, fInvalid ||| fInexact)
    | .zero _ => (0, fNone)
    | .fin s m e => roundPosit n s m e
  | .int8 | .int32 =>
    match x with
    | .nar => (0, fInvalid ||| fInexact)
    | .inf s => let g := intRange f sg; (intBits (fmtBits f) (if s then g.1 else g.2), fInvalid ||| fInexact)
    | .zero _ => (0, fNone)
    | .fin s m e => roundInt f sg (if intDir then o.rnd else .away) s m e
  | .e4m3 =>
    match x with
    | .nar => (nanBits f, fNone)
    | .inf _ => (nanBits f, fInvalid ||| fInexact)
    | .zero s => ((if s then 0x80 else 0), fNone)
    | .fin s m e => roundFloat f o s m e
  | .code4 | .quire => (0, fNone)
  | f =>
    let w := fmtBits f
    let t := floatParams f
    match x with
    | .nar => (nanBits f, fNone)
    | .inf s => ((if s then 2 ^ (w - 1) else 0) + (t.2.2 + 1) * 2 ^ (t.1 - 1), fNone)
    | .zero s => ((if s then 2 ^ (w - 1) else 0), fNone)
    | .fin s m e => roundFloat f o s m e

end Sys2Proof.Machine
end

