-- ==== Sys2Proof/Config.lean ====
section
/-! DEFINITION. What the spec fixes outside its own text or leaves open: uninterpreted functions with
no body (free values), so that no proof can see what they are. -/

namespace Sys2Proof

/-- A fresh free value of w bits: the n-th value the part chose where the spec states none (LOG 5). -/
opaque Config.freeValue (w : Nat) : Nat → BitVec w

/-- Which of the values within the bound of Table 7.6 the active SFU table gives (R169): an index into
the list of admissible results, as a function of table revision, function code, source format, target
format and the input's bits (LOG 10). -/
opaque Config.sfuChoice : Nat → Nat → Fmt → Fmt → Nat → Nat

/-- The lengths of the writes in which an engine of a SUB and a MODE puts out a run of adjacent output bytes, given its address and
length: the spec gives each write the form of R345 and does not say where one ends and the next begins (LOG 13). -/
opaque Config.engineCuts : Nat → Nat → Nat → Nat → List Nat

/-- The code QCODE gives an infinite element of a block, from the table's patterns, the block's SCALE and the element's sign: the spec states
no nearest entry for it, and equal inputs give equal codes (R247, R330) (LOG 30). -/
opaque Config.qcodeInf : List Nat → Int → Bool → BitVec 4

/-- Byte i of what an EXACT collective leaves in its WORK range, as a function of its descriptor and of the bytes at SRC: the spec
states none, and equal runs leave equal bytes (R330) (LOG 57). -/
opaque Config.collWork : List W64 → List Byte → Nat → Byte

/-- SHA-256 (R432 to R446), the digest's bytes little-endian in the word; the standard is outside the spec's text
(LOG 11). (DEDUCED: LOG 76.) -/
opaque Config.sha256 : List Byte → BitVec 256

/-- Whether an RSASSA-PSS signature over a message verifies under an RSA-3072 modulus (Table 17.2) (LOG 11). -/
opaque Config.pssVerify : List Byte → List Byte → List Byte → Bool

/-- The signature the security root makes with the identity key over a message (R444); the key never
leaves the part (R430) (LOG 11). -/
opaque Config.sign : List Byte → List Byte

/-- Whether a certificate chain leads to the root key with the given hash, and the SHA-256 of its
leaf key (R312, R444); X.509 is outside the spec's text (LOG 11). -/
opaque Config.chainLeaf : List Byte → BitVec 256 → Option (BitVec 256)

/-- Whether an RSA-3072 signature over a message verifies under the leaf key of a chain (R312) (LOG 11). -/
opaque Config.verifyLeaf : List Byte → List Byte → List Byte → Bool

/-- The part's own certificate chain, held read-only in the store (R444) (LOG 11). -/
opaque Config.ownChain : List Byte

/-- The part's own identifier: SHA-256 of its identity public key (R308, R444) (LOG 11). -/
opaque Config.ownId : BitVec 256

/-- The answers of the SPDM responder that SPDM 1.2 lays out and the spec does not: the capability
and algorithm response bodies (R445) (LOG 11). -/
opaque Config.spdmBody : Nat → List Byte

/-- The internal state a SCANDUMP shifts out (R462); the spec gives no layout (LOG 12). -/
opaque Config.scanBits : Nat → Bool

end Sys2Proof
end

