-- ==== Sys2Proof/Machine/Table.lean ====
section
/-! DEFINITION. Tables and memories in canonical form: reading, writing, ranges of bytes, and
little-endian numbers (R3). -/

namespace Sys2Proof.Machine

/-- The value at number n; d where nothing is listed. -/
def tget {α : Type} (d : α) : Table α → Nat → α
  | [], _ => d
  | (k, v) :: t, n => if k = n then v else tget d t n

/-- The table without number n. -/
def tdel {α : Type} : Table α → Nat → Table α
  | [], _ => []
  | (k, v) :: t, n => if k = n then tdel t n else (k, v) :: tdel t n

/-- The table with v at n, in its place. -/
def tins {α : Type} : Table α → Nat → α → Table α
  | [], n, v => [(n, v)]
  | (k, w) :: t, n, v =>
    if n < k then (n, v) :: (k, w) :: t else if k = n then (n, v) :: t else (k, w) :: tins t n v

/-- Write v at n; the default d is not listed. -/
def tset {α : Type} [DecidableEq α] (d : α) (t : Table α) (n : Nat) (v : α) : Table α :=
  if v = d then tdel t n else tins t n v

/-- Change the value at n. -/
def tmod {α : Type} [DecidableEq α] (d : α) (t : Table α) (n : Nat) (f : α → α) : Table α :=
  tset d t n (f (tget d t n))

/-- Strictly rising numbers. -/
def tsorted {α : Type} : Table α → Bool
  | [] => true
  | [_] => true
  | (k, _) :: (l, w) :: t => decide (k < l) && tsorted ((l, w) :: t)

/-- The canonical form: strictly rising numbers, no default listed. -/
def twf {α : Type} [DecidableEq α] (d : α) (t : Table α) : Bool :=
  tsorted t && t.all (fun c => decide (c.2 ≠ d))

/-! ### Memories: unlisted bytes read zero -/

/-- The canonical form of a memory whose unlisted bytes read zero. -/
def Memory.wf (m : Mem) : Bool := twf (0#8) m

/-- The byte at an address. (DEDUCED: LOG 8.) -/
def readByte (m : Mem) (a : Nat) : Byte := tget 0#8 m a

/-- Write one byte. -/
def writeByte (m : Mem) (a : Nat) (b : Byte) : Mem := tset 0#8 m a b

/-- n bytes from an address. -/
def readBytes (m : Mem) (a : Nat) : Nat → List Byte
  | 0 => []
  | n + 1 => readByte m a :: readBytes m (a + 1) n

/-- Write bytes at rising addresses. -/
def writeBytes (m : Mem) (a : Nat) : List Byte → Mem
  | [] => m
  | b :: bs => writeBytes (writeByte m a b) (a + 1) bs

/-- The number little-endian bytes encode (R3). -/
def leNat : List Byte → Nat
  | [] => 0
  | b :: bs => b.toNat + 256 * leNat bs

/-- n little-endian bytes of a number (R3). -/
def natLe : Nat → Nat → List Byte
  | 0, _ => []
  | n + 1, v => BitVec.ofNat 8 v :: natLe n (v / 256)

/-- A little-endian number of n bytes in memory. -/
def readLe (m : Mem) (a n : Nat) : Nat := leNat (readBytes m a n)

/-- Store a little-endian number of n bytes. -/
def writeLe (m : Mem) (a n v : Nat) : Mem := writeBytes m a (natLe n v)

/-! ### CRC-64/ECMA-182 (R298): polynomial 0x42F0_E1EB_A9EA_3693, initial value 0, no reflection, no
final XOR -/

/-- One bit step. -/
def crcBit (c : Nat) : Nat :=
  let d := (c * 2) % 2 ^ 64
  if c.testBit 63 then d ^^^ 0x42F0E1EBA9EA3693 else d

/-- One byte step. -/
def crcByte (c : Nat) (b : Byte) : Nat :=
  let x := c ^^^ (b.toNat * 2 ^ 56)
  crcBit (crcBit (crcBit (crcBit (crcBit (crcBit (crcBit (crcBit x)))))))

/-- CRC-64 of bytes, continuing from a value. -/
def crcFrom (c : Nat) : List Byte → Nat
  | [] => c
  | b :: bs => crcFrom (crcByte c b) bs

/-- CRC-64/ECMA-182 of bytes. -/
def crc64 (l : List Byte) : Nat := crcFrom 0 l

/-! ### Small helpers -/

/-- Ceiling division. -/
def cdiv (a b : Nat) : Nat := (a + b - 1) / b

/-- All zero. -/
def allZero (l : List Byte) : Bool := l.all (fun b => b == 0#8)

/-- Saturating increment of a counter of w bits. -/
def satAdd (w : Nat) (v : BitVec w) (n : Nat) : BitVec w :=
  if v.toNat + n < 2 ^ w then BitVec.ofNat w (v.toNat + n) else BitVec.ofNat w (2 ^ w - 1)

/-- The numbers n, n+1, ..., n+k-1. -/
def upFrom (n k : Nat) : List Nat := (List.range k).map (fun i => n + i)

/-- How many of the first n bits of v are set. -/
def popcount (n v : Nat) : Nat := ((List.range n).filter (fun i => v.testBit i)).length

/-- The positions of the set bits among the first n of v, ascending. -/
def bitsOf (n v : Nat) : List Nat := (List.range n).filter (fun i => v.testBit i)

end Sys2Proof.Machine
end

