-- ==== Sys2Proof/Machine/State.lean ====
section
/-! DEFINITION. The state of the block as plain data: every register, buffer, counter, mode and pin the
spec gives the part, the queue of waiting commands, and the machine right after reset. -/

namespace Sys2Proof.Machine

/-! ### Platform: clocks, supply, heat, bring-up, management (16, 18) -/

/-- Clocks and time (R419 to R422, Tables 16.4, 16.7a). ELAPSED is `root / 66`. -/
structure Clk where
  /-- ROOT periods since power-good (R419). -/
  root : Nat := 0
  /-- CYCLE: ACLK edges since power-good. -/
  cycle : W64 := 0
  hostEpoch : W64 := 0
  hostEpochAt : W64 := 0
  cycleAt : W64 := 0
  /-- D as the platform manager has set it (CLK_STAT.DIV). -/
  div : Nat := 6
  /-- D of the frame in progress: D changes only at a frame boundary (R419). -/
  frameDiv : Nat := 6
  /-- The frame's second ACLK cycle is next. -/
  half : Bool := false
  /-- CLK_STAT.CAUSE, bits [14:8] of the register. -/
  cause : BitVec 7 := 0
  stretchTicks : W64 := 0
  /-- ELAPSED at the last raise for current or power, at the last raise for heat, at the last lowering, and
  when a cause was last active (R420). -/
  lastElec : Nat := 0
  lastTherm : Nat := 0
  lastLower : Nat := 0
  lastCause : Nat := 0
  /-- The ELAPSED tick in which D was last computed: once a tick (R420). -/
  updAt : Option Nat := none
  /-- ELAPSED at the last CLOCK_CHANGED and at the last SUPPLY_EVENT of kinds 5 and 6. -/
  lastEvt : Option Nat := none
  lastKind5 : Option Nat := none
  lastKind6 : Option Nat := none
  /-- D as the last CLOCK_CHANGED showed it. -/
  shown : Nat := 6
  /-- The domain clocks run (R421, R425, R462). -/
  running : Bool := true
deriving DecidableEq, Repr

/-- SUPPLY_STAT.STATE (Table 16.7a). -/
inductive SupState where
  | normal | rideThrough | powerFailed
deriving DecidableEq, Repr

/-- The converters and rails (R409, R414, R415). -/
inductive SupPhase where
  | off | starting | up
deriving DecidableEq, Repr

/-- Input supply (R409 to R415, R427, R429). -/
structure Sup where
  phase : SupPhase := .up
  state : SupState := .normal
  vin : BitVec 32 := 48000#32
  ov : Bool := false
  warn : Bool := false
  /-- Consecutive samples below 36 V. -/
  low : Nat := 0
  /-- ELAPSED at entry into ride-through. -/
  rideSince : Nat := 0
  /-- ELAPSED since which VIN has stayed at or above 40 V with PWR_WARN# released, in 1 µs samples. -/
  okSamples : Nat := 0
  pwrLimit : BitVec 16 := 0x1D4C#16
  iin : Nat := 0
  p1ms : Nat := 0
  p1s : Nat := 0
  vbus : Nat := 6000
  energy : Nat := 0
deriving DecidableEq, Repr

/-- Sensors and thresholds (R423 to R425, R284, Tables 16.5, 11.11); temperatures in 1/16 °C. -/
structure Therm where
  /-- ELAPSED at the last sampling. -/
  sampledAt : Nat := 0
  reach : List Int := List.replicate 16 0
  dram : List Int := List.replicate 32 0
  hub : List Int := List.replicate 4 0
  outfall : List Int := List.replicate 12 0
  stretchReach : BitVec 16 := 0
  stretchHub : BitVec 4 := 0
  stretchDram : BitVec 32 := 0
  alertReach : BitVec 16 := 0
  alertHub : BitVec 4 := 0
  alertDram : BitVec 32 := 0
  alertOut : BitVec 12 := 0
  /-- DRAM dies that refresh at the doubled rate (Table 11.11). -/
  hotDram : BitVec 32 := 0
  /-- Outfall engines stopped at 90 °C. -/
  offOut : BitVec 12 := 0
  /-- THERMTRIP# (R425, R452). -/
  trip : Bool := false
  /-- ALERT# held by loss of ROOT lock (R421). -/
  alertRoot : Bool := false
deriving DecidableEq, Repr

/-- The host link (R457, R458). -/
inductive HostLink where
  | down | detect | trained
deriving DecidableEq, Repr

/-- Bring-up (R453 to R458, R414). -/
structure Boot where
  stage : BitVec 8 := 1#8
  fail : BitVec 8 := 0#8
  testMode : Bool := false
  /-- Reach die rails that are up. -/
  rails : BitVec 16 := 0
  /-- Outfall engines powered. -/
  engOn : BitVec 12 := 0
  hubFail : BitVec 4 := 0
  dieFail : BitVec 16 := 0
  /-- SNq_PERST# asserted. -/
  snPerst : BitVec 4 := 0xF#4
  /-- PERST# asserted. -/
  perst : Bool := true
  link : HostLink := .down
  /-- Channels in self-refresh and tile clocks stopped (R412). -/
  selfRefresh : Bool := false
  /-- PERST# was deasserted in the power-failed state with VIN below 40 V (R458). -/
  restartWaits : Bool := false
deriving DecidableEq, Repr

/-- The management and test ports (R454, R461, R462). -/
structure Mgmt where
  /-- Dynamic I3C address. -/
  dyn : Option Nat := none
  /-- Management window offset. -/
  off : Nat := 0
  /-- JTAG instruction register. -/
  ir : BitVec 8 := 0x02#8
  /-- Boundary-scan cells. -/
  cells : List Bool := []
  /-- SCANDUMP has stopped every clock until the next power-up. -/
  dumped : Bool := false
  /-- The window's sensor record, and ELAPSED when it was last refreshed (Table 18.3). -/
  sensors : List Byte := []
  sensorsAt : Option Nat := none
deriving DecidableEq, Repr

/-- The platform. -/
structure Plat where
  clk : Clk := {}
  sup : Sup := {}
  therm : Therm := {}
  boot : Boot := {}
  mgmt : Mgmt := {}
deriving DecidableEq, Repr

/-! ### Geometry, firmware, security (01, 17) -/

/-- Geometry (R9 to R27). -/
structure Geom where
  grade : BitVec 4 := 0
  gen : BitVec 32 := 1#32
  dieAvail : BitVec 16 := 0xFFFF#16
  quadAvail : BitVec 4 := 0xF#4
  /-- Pending repairs (die, physical row, physical column), in the order found (R16, R18). -/
  repairs : List (Nat × Nat × Nat) := []
  /-- GEOM_RETIRED[d] (R22). -/
  retired : Table (BitVec 50) := []
  /-- BYP0, BYP1 of a physical row, keyed die * 50 + row (R23, R24); default 0x7F, 0x7F. -/
  byp : Table (Nat × Nat) := []
  /-- Tiles marked failed, keyed by physical number (R16). -/
  failed : List Nat := []
deriving DecidableEq, Repr

/-- STATE of a firmware slot (R442). -/
inductive SlotState where
  | empty | valid | invalid | rollback
deriving DecidableEq, Repr

/-- A firmware slot (R431, R442): state, pending mark, and the image it holds. -/
structure FwSlot where
  state : SlotState := .empty
  pending : Bool := false
  header : List Byte := []
  body : List Byte := []
deriving DecidableEq, Repr

/-- The header of the image a part ships with in slot A (R443); the spec gives its security version and
level only through the NID and FW_SLOT at shipment (LOG 2). -/
def shippedHeader (c : Nat) : List Byte :=
  [0x44#8, 0x5A#8, 0x46#8, 0x4D#8, 1#8, 0#8, BitVec.ofNat 8 c, 0#8, 0#8, 0#8, 0#8, 0#8, 0#8, 0#8, 0#8, 0xA1#8,
   if c = 2 || c = 3 then 0#8 else 1#8, 0#8, 0#8, 0#8, 1#8, 0#8, 0#8, 0#8]

/-- Slots, active slots and rollback counter of one component (R443). -/
structure FwComp where
  rb : Nat := 0
  slotA : FwSlot
  slotB : FwSlot := {}
  activeB : BitVec 12 := 0
deriving DecidableEq, Repr

/-- Firmware store, fuses and staging buffer (17). -/
structure Fw where
  nid : W64 := 0xA101000100000001#64
  keyRevoked : BitVec 4 := 0
  rootHash : BitVec 256 := 0
  keyHash : List (BitVec 256) := [0, 0, 0, 0]
  /-- Components 0 to 5 (Table 17.3). -/
  comp : Table FwComp := (List.range 6).map (fun c => (c, { slotA := { state := .valid, header := shippedHeader c } }))
  /-- The staged image: header and body (R440). -/
  staged : Option (List Byte × List Byte) := none
  pendFail : Bool := false
  recovery : Bool := false
  /-- A reset asked for component 4's pending slot while a drain was in flight: it activates when the drain has ended
  (Table 17.3). -/
  oxbWaits : Bool := false
  /-- The boot ROM of a reset waits until no run is in progress (R337). -/
  bootWaits : Bool := false
deriving DecidableEq, Repr

/-- The DOE responder's negotiation (R445). -/
structure Spdm where
  version : Bool := false
  caps : Bool := false
  algs : Bool := false
  /-- Messages exchanged so far, over which CHALLENGE and signed measurements sign (R445). -/
  transcript : List Byte := []
deriving DecidableEq, Repr

/-! ### Host interface (15) -/

/-- The registers and counts of one ring (R383 to R387, Table 15.5). -/
structure Ring where
  base : BitVec 52 := 0
  holdoff : BitVec 8 := 0
  log2n : Nat := 6
  intEn : Bool := false
  enable : Bool := false
  head : Nat := 0
  tail : Nat := 0
  badDb : Bool := false
  dmaErr : Bool := false
  /-- CCLK cycle, plus 1, in which the device last set BADDB, and DMAERR (R7). -/
  badDbAt : Nat := 0
  dmaErrAt : Nat := 0
  /-- PHASE the device writes in its present pass (R384, R390). -/
  phase : Bool := true
  /-- Entries of a completion ring reserved by outstanding packets (R386). -/
  reserved : Nat := 0
  /-- The last packet taken from a submission ring has not started (R386). -/
  blocked : Bool := false
deriving DecidableEq, Repr

/-- One MSI-X vector (R377, R387): table entry, pending bit, ELAPSED of the last message sent, and
whether entries await a message. -/
structure Vector where
  addr : W64 := 0
  data : BitVec 32 := 0
  mask : Bool := true
  pend : Bool := false
  lastMsg : Option Nat := none
  owed : Bool := false
deriving DecidableEq, Repr

/-- A packet taken and not yet completed (R386, R390): a number of the model's own, ring, SEQ, TAG, NOINT. -/
structure Taken where
  id : Nat
  ring : Nat
  seq : BitVec 32
  tag : W64
  noint : Bool
deriving DecidableEq, Repr

/-- A transaction: the header fields of Table 12.7 and the payload before padding. -/
structure Txn where
  ttype : Nat
  rtype : Nat := 0
  status : Nat := 0
  tag : Nat := 0
  len : Nat := 0
  attr : Nat := 0
  addr : W64 := 0
  payload : List Byte := []
deriving DecidableEq, Repr

/-- A link request that waits to be issued: port, offset of its data in the whole, bytes a READ asks for, far address. -/
structure QReq where
  port : Nat
  off : Nat
  len : Nat
  far : Nat
  txn : Txn
deriving DecidableEq, Repr

/-- One RNG stream (Table 10.3). -/
structure RngStream where
  key : W64 := 0
  step : W64 := 0
  next : W64 := 0
  adv : Bool := false
deriving DecidableEq, Repr

/-- A candidate snapshot of a restore (Table 14.9): the volumes' images of one slot, ascending ports. -/
structure Candidate where
  seq : Nat
  images : List SlotImage
deriving DecidableEq, Repr

/-- What a restore keeps between its steps (R371 to R375): candidates left, the one in hand, whether one
failed first, the status of the last failure, cursor, RNG and parity to be put back if it is stopped. -/
structure Restore where
  par : Packet
  left : List Candidate := []
  cand : Option Candidate := none
  failedFirst : Bool := false
  lastFail : Nat := 0x0032
  corrected : Bool := false
  /-- A replay run has been queued; its status and DETAIL. -/
  replaying : Bool := false
  replayed : Option (Nat × Nat) := none
  /-- SEQ of the latest committed snapshot found (Table 14.9 step 3). -/
  latest : Nat := 0
  /-- The buddy image as far as it has been fetched by offset, its slots fetched, and the fetch in hand: 1 the header, 2 and 3
  the blocks of slots 0 and 1, 4 and 5 their data (R368). -/
  got : Table (List Byte) := []
  imgs : List SlotImage := []
  fetch : Option Nat := none
  /-- Link requests of the restore outstanding or waiting, and those waiting. -/
  acks : Nat := 0
  txQ : List QReq := []
  /-- The near members' writes of step 5 are at their channels (R260). -/
  asked : Bool := false
  oldCursor : Table W64 := []
  oldRng : Table RngStream := []
  oldOrigin : Table W64 := []
  oldParity : Bool := false
  /-- Status and DETAIL the command ends with, once known. -/
  result : Option (Nat × Nat) := none
deriving DecidableEq, Repr

/-- The long operation that holds the admin ring (R395). -/
inductive LongOp where
  | restore (r : Restore)
  | fwCommit (comp : Nat) (slotB : Bool) (written : Bool)
  | fwDone (status detail : Nat)
  | memRetrain (chans : List Nat)
  | memBist (chans : List Nat)
  | secureErase
  | selfTest (qmask : Nat)
deriving DecidableEq, Repr

/-- What the part sends over the host link: memory writes, MSI-X messages, answers to host requests. -/
inductive HostOut where
  | write (addr : W64) (data : List Byte)
  | msi (vector : Nat) (addr : W64) (data : BitVec 32)
  | read (data : List Byte)
  | unsupportedRequest
  | poisoned (len : Nat)
  | linkState (up : Bool)
deriving DecidableEq, Repr

/-- The host interface. -/
structure HostIf where
  /-- Rings 0 to 18 (R383). -/
  rings : Table Ring := []
  /-- MSI-X vectors 0 to 63. -/
  vec : Table Vector := []
  /-- Function Mask of the MSI-X capability. -/
  funcMask : Bool := false
  aperBase : BitVec 19 := 0
  yenelVer : BitVec 8 := 0
  d3 : Bool := false
  /-- Packets not yet completed, in the order taken. -/
  taken : List Taken := []
  nextId : Nat := 0
  /-- The long operation and its packet. -/
  longOp : Option (Nat × LongOp) := none
  /-- A function-level reset waits for the retrains of a long operation to finish (R287). -/
  flrWait : Bool := false
  /-- ESEQ (R406). -/
  eseq : BitVec 32 := 0
  /-- Events dropped (R408). -/
  dropped : Nat := 0
  /-- AER: advisory Unsupported Requests and poisoned completions recorded (R403). -/
  aerUr : Nat := 0
  aerPoison : Nat := 0
deriving DecidableEq, Repr

/-! ### Graphs and runs (09, 13) -/

/-- GRAPH_STATE.STATE (Table 9.6). -/
inductive GraphSt where
  | free | loaded | running | aborting | invalid
deriving DecidableEq, Repr

/-- A loaded graph: GRAPH_STATE and the contents of descriptor memory (R204 to R212). -/
structure Graph where
  state : GraphSt := .free
  override : Bool := false
  still : Bool := false
  /-- RUNS (Table 15.12). -/
  runs : BitVec 32 := 0
  powerClass : Nat := 0
  nid : W64 := 0
  rows : List Byte := []
  dieMask : BitVec 16 := 0
  quadMask : BitVec 4 := 0
  portMask : BitVec 48 := 0
  timeout : Nat := 0
  stillLen : Nat := 0
  imageCrc : W64 := 0
  /-- Task descriptors, sixteen words each. -/
  tasks : List (List W64) := []
  /-- Edges FROM, TO. -/
  edges : List (Nat × Nat) := []
  /-- The program section. -/
  prog : List W64 := []
  /-- Still mode: the scheduled offset of each task from the start of its segment (R218). -/
  starts : List Nat := []
  /-- REGION_GEN of the plan (R268). -/
  planGen : BitVec 32 := 0
  /-- A geometry change made the row counts unequal while a run was under way (R27). -/
  invalidate : Bool := false
deriving DecidableEq, Repr

/-- Where a task of a run stands. -/
inductive TaskSt where
  | waiting | running | ended | stopped
deriving DecidableEq, Repr

/-- A part of a collective's transfer received from a neighbour: phase (1 gather), from PREV, first element,
element patterns (R325 to R327). -/
structure CollPiece where
  phase : Nat
  fromPrev : Bool
  first : Nat
  vals : List Nat
deriving DecidableEq, Repr

/-- A write of an engine (R247): its reduce-write type, or none for a plain write; address, bytes. -/
structure Put where
  rt : Option Nat
  addr : Nat
  data : List Byte
deriving DecidableEq, Repr

/-- Who made a request to a channel (R257, R260): a tile's transfer, an ENGINE, MOVE or COLL task (reading, or writing), the host or a
partner's port by the number of the access, Oxbow. -/
inductive ReqBy where
  | tile (k xfer : Nat)
  | task (handle task : Nat) (wr : Bool)
  | host (n : Nat)
  | partner (port n : Nat)
  | oxbow
deriving DecidableEq, Repr

/-- A request at a channel: one run of an access (R260). -/
structure ChanReq where
  who : ReqBy
  /-- Byte offset of the run in its access, near-tier address of its first byte, channel offset of that byte, length. -/
  off : Nat
  addr : Nat
  choff : Nat
  len : Nat
  /-- Arrival in MCLK cycles since power-good, port. -/
  arrival : Nat
  port : Nat
  /-- Handle of the run it belongs to; number of the access among all (R257). -/
  run : Option Nat
  seq : Nat
deriving DecidableEq, Repr

/-- The requests of one class that arrived at a channel in one MCLK cycle (R262): the rotating pointer before them, the port and the run
of the one that goes first, the number of the first access, and whether requests of several accesses tied. -/
structure Tie where
  cls : Nat
  arrival : Nat
  base : Nat
  port : Nat
  run : Option Nat
  seq : Nat
  tied : Bool := false
deriving DecidableEq, Repr

/-- One run of an access: the near-tier address of its first byte, channel, channel offset, length; all in one 2 KiB
block of channel offset (R260). -/
structure Run2K where
  addr : Nat
  chan : Nat
  off : Nat
  len : Nat
deriving DecidableEq, Repr

/-- A run of a timed transfer placed into the slots of a channel (R266): the MCLK cycle of the segment after its last slot, the run. -/
structure PlacedRun where
  fin : Nat
  chan : Nat
  req : ChanReq
deriving DecidableEq, Repr

/-- What an access of the host or of a partner does; a reduce-write has a type. -/
inductive AccKind where
  | read | write | reduce (rt : Nat)
deriving DecidableEq, Repr

/-- An access of the host through the aperture, or of a partner (R307, R403), until its last run is served: who made it, what it does,
address, length, the bytes it writes; runs not yet served, bytes read by offset, uncorrectable beats met; the partner's transaction. -/
structure NearAcc where
  who : ReqBy
  kind : AccKind
  addr : Nat
  len : Nat
  data : List Byte := []
  left : Nat
  got : Table (List Byte) := []
  bad : List (Nat × Nat × Nat) := []
  txn : Option Txn := none
deriving DecidableEq, Repr

/-- What a running task holds between its steps. -/
structure Work where
  flags : Flags := 0
  /-- Status and DETAIL the task will end with, once known other than from its flags. -/
  fate : Option (Nat × Nat) := none
  /-- A status given at dispatch (R223): the task ends in cycle S + 1. -/
  atDispatch : Bool := false
  /-- CRC-64 of the digest stream so far (R345). -/
  crc : Nat := 0
  /-- What a MOVE or COLL wrote or sent, by offset into its destination (R345). -/
  pieces : Table (List Byte) := []
  /-- Length of a received message, its last part has been received (R321); an engine that stopped at a read (R248). -/
  msgLen : Nat := 0
  msgDone : Bool := false
  /-- A message sent: its port, and its number among the messages sent there (R321). -/
  ticket : Option (Nat × Nat) := none
  /-- A MOVE: bytes of a far source requested, bytes delivered to the destination, what has been read and not yet delivered
  by offset, and what waits for a far request by offset (R304, R305, R317). -/
  issued : Nat := 0
  fed : Nat := 0
  held : Table (List Byte) := []
  outq : List (Nat × List Byte) := []
  /-- An abort stops the MOVE once its transfer units that have started are written (R226). -/
  halting : Bool := false
  /-- Parts of a collective received, and the steps done: kind, chunk (R325). -/
  recv : List CollPiece := []
  steps : List (Nat × Nat) := []
  /-- Steps of a collective still to be done, and the most segments a chunk takes (R314, R327). -/
  todo : Nat := 0
  segs : Nat := 0
  /-- Run cycle of a MOVE's last accepted write, or of its last ACK (R267, R317). -/
  lastAt : Nat := 0
  /-- The unit of a near-tier source, and the piece for a near-tier destination, whose requests are at their channels (R260). -/
  srcRuns : List Run2K := []
  dstRuns : List Run2K := []
  /-- A collective's step whose requests are at their channels. -/
  askStep : Option (Nat × Nat) := none
  /-- An engine: 1 its reads, 2 its writes wait at their channels, 3 its writes are made, 4 they are made at its completion (R260). -/
  engStage : Nat := 0
  /-- The writes of an engine, in order (R247). -/
  puts : List Put := []
  /-- NEXT to be written at completion of an RNG task (R237). -/
  rngNext : Option (Nat × W64) := none
  /-- Stage of a MARK SNAPSHOT: 0 step 1, 1 step 2, 2 step 3, 3 ready to complete. -/
  markStage : Nat := 0
  /-- The cursor's STEP when the mark was dispatched; the mark has started a snapshot. -/
  markStep : W64 := 0
  markTried : Bool := false
  /-- ELAPSED at the start of the mark's present wait, plus 1; 0 when it does not wait. -/
  waitSince : Nat := 0
deriving DecidableEq, Repr

/-- A task of a run (Tables 9.2, 13.5). -/
structure TaskRun where
  st : TaskSt := .waiting
  s : Nat := 0
  e : Nat := 0
  status : Nat := 0
  detail : Nat := 0
  digest : W64 := 0
  /-- Move channel of a MOVE (R210). -/
  chan : Nat := 0
  /-- Tile digests by tile index, and the tiles that are done. -/
  tileDig : Table W64 := []
  work : Work := {}
deriving DecidableEq, Repr

/-- Lock-step progress of a run (R347 to R350). -/
structure Lock where
  /-- The partner's LS_START: IMAGE_CRC and RUNSEQ. -/
  started : Bool := false
  /-- Tasks completed and not yet sent. -/
  unsent : List Nat := []
  sent : Nat := 0
  /-- Partner entries: task, STATUS, DIGEST. -/
  partner : List (Nat × Nat × Nat) := []
  /-- Tasks compared. -/
  compared : List Nat := []
  /-- The first divergent task found here, and by lowest S. -/
  mismatch : Option Nat := none
  frozen : Bool := false
  freezeSent : Bool := false
  freezeGot : Option Nat := none
  /-- Partner tile digests received: task, first tile index, digests; and the tasks whose own were sent. -/
  tiles : List (Nat × Nat × List Nat) := []
  tilesSent : List Nat := []
  endSent : Bool := false
  endGot : Option Nat := none
  /-- The wait ended with a silent or lost partner (R349). -/
  lost : Bool := false
  /-- ELAPSED when the partner last sent anything, or when a task of this run last completed. -/
  heard : Nat := 0
deriving DecidableEq, Repr

/-- A GRAPH_RUN taken: waiting to start, or in progress (R213 to R226, R466). -/
structure Run where
  handle : Nat
  /-- Number of its packet; none for a restore's replay (R373). -/
  pkt : Option Nat
  ring : Nat
  record : W64 := 0
  started : Bool := false
  /-- A quadrant of the resource set began to drain while the run waited (R466 item 6). -/
  drainHit : Bool := false
  /-- LS_START has been sent (R347), and ELAPSED then. -/
  lsStart : Bool := false
  lsSince : Nat := 0
  /-- CYCLE and ELAPSED in run cycle 0. -/
  cycle0 : Nat := 0
  elapsed0 : Nat := 0
  partNid : W64 := 0
  geomGen : BitVec 32 := 0
  regionGen : BitVec 32 := 0
  covered : Bool := false
  /-- The activity wave runs (R215), and the logical rows it has released. -/
  wave : Bool := false
  rowsOut : Nat := 0
  segment : Nat := 0
  /-- Run cycle of the present segment's start. -/
  segStart : Nat := 0
  /-- Slots of the segment that tile DMAs have taken, by channel: 24 * window + slot (R266). -/
  slots : Table (List Nat) := []
  /-- Runs of tile DMAs placed and not yet served (R266). -/
  placed : List PlacedRun := []
  tasks : Table TaskRun := []
  /-- No further dispatch: after a fatal status, a break, an abort, a power failure (R224). -/
  stopped : Bool := false
  broken : Bool := false
  aborted : Bool := false
  /-- CYCLE in which the tasks of an aborted run stop that are not stopped by transfer units (R226). -/
  stopAt : Option Nat := none
  powerFail : Bool := false
  /-- Packets of GRAPH_ABORTs waiting for the end. -/
  aborts : List Nat := []
  /-- A reset dropped the packets: no completion is posted (R397). -/
  silent : Bool := false
  slipIngress : Nat := 0
  slipPause : Nat := 0
  /-- TDC_SLUICE, TDC_NEAR, TDC_LINK, TDC_COLL of the run (R339). -/
  tdcSluice : Nat := 0
  tdcNear : Nat := 0
  tdcLink : Nat := 0
  tdcColl : Nat := 0
  /-- CYCLE at which an unscheduled retrain paused the run (R280). -/
  pausedAt : Option Nat := none
  lock : Option Lock := none
deriving DecidableEq, Repr

/-- STATE of a quadrant (R399, Table 15.12). -/
inductive QuadSt where
  | inService | draining | drained | unavailable
deriving DecidableEq, Repr

/-- A quadrant: QUAD_STAT and the QUADRANT_DRAIN packets waiting, with the runs each aborted. -/
structure Quad where
  state : QuadSt := .inService
  forced : Bool := false
  waiters : List (Nat × Nat) := []
deriving DecidableEq, Repr

/-! ### Near tier (11) and RNG streams (10) -/

/-- IL of a region (Table 11.2). -/
inductive Interleave where
  | wide | quad | die | chan
deriving DecidableEq, Repr

/-- A region entry (Table 11.2), with the channel list fixed at REGION_MAP (R252). -/
structure Region where
  valid : Bool := false
  persist : Bool := false
  il : Interleave := .wide
  unit : Nat := 0
  base : Nat := 0
  size : Nat := 0
  choff : Nat := 0
  chans : List Nat := []
deriving DecidableEq, Repr

/-- A staging-buffer line: the granule it holds, whether KEEP allocated it, and when it was last used, counted
in uses of the channel; a line that STREAM allocated counts below all others, the latest lowest (R258, R259). -/
structure StageLine where
  gran : Nat
  keep : Bool
  used : Int
deriving DecidableEq, Repr

/-- CH_STAT.STATE (Table 11.12). -/
inductive ChanSt where
  | inService | failed | mappedOut
deriving DecidableEq, Repr

/-- Why a channel retrains (R276, R279, R280). -/
inductive RetrainWhy where
  | powerUp | command | auto | hard | maint | test
deriving DecidableEq, Repr

/-- A channel controller and its DRAM (R249 to R283). -/
structure Chan where
  state : ChanSt := .inService
  /-- Lane carried by each spare lane in use (R276). -/
  spares : List Nat := []
  /-- Retired pages, ascending. -/
  retired : List Nat := []
  /-- Rows remapped in the field: bank, row, field count (R281). -/
  remaps : List (Nat × Nat × Nat) := []
  /-- Spare rows used, by bank (of 16). -/
  spareUsed : Table Nat := []
  corrected : W64 := 0
  uncorrectable : W64 := 0
  /-- Corrected errors of each lane since the last training (R279). -/
  laneErr : Table Nat := []
  /-- Beats whose stored bits have a correctable error, and beats that are poisoned, by beat number (R272, R273). -/
  ce : List Nat := []
  poison : List Nat := []
  /-- The lane on which a correctable beat's error lies, by beat number (R279). -/
  ceLane : Table Nat := []
  /-- Corrected errors of each row, by 16 * row + bank: the row record (R272). -/
  rowErr : Table Nat := []
  /-- Rows where background scrub corrected an error in its last whole pass, and in the pass under way (R281). -/
  scrubMark : List (Nat × Nat) := []
  scrubNow : List (Nat × Nat) := []
  urgent : List ChanReq := []
  lc : List ChanReq := []
  normal : List ChanReq := []
  bulk : List ChanReq := []
  /-- Rotating pointer of the port ties, and what arrived in the present MCLK cycle (R262). -/
  ptr : Nat := 0
  ties : List Tie := []
  /-- Staging lines by number 0 to 255 (R258, R259). -/
  lines : Table StageLine := []
  useCount : Nat := 0
  /-- Next granule of background scrub (R275). -/
  scrubPos : Nat := 0
  /-- ELAPSED and CYCLE at the last refresh (R263, R274). -/
  lastRefresh : Nat := 0
  refreshCyc : Nat := 0
  retraining : Option RetrainWhy := none
  /-- An automatic retrain waits for a maintenance point (R280). -/
  retrainPend : Bool := false
  /-- Rows whose repair waits for a maintenance point: bank, row (R283). -/
  repairPend : List (Nat × Nat) := []
  /-- Banks unavailable while a row is remapped: bank, row, ELAPSED at its start (R281). -/
  bankBusy : List (Nat × Nat × Nat) := []
deriving DecidableEq, Repr

/-- The near tier. -/
structure Near where
  /-- Bytes at 2^27 * channel + channel offset. -/
  mem : Mem := []
  /-- The region table (R251). -/
  regions : Table Region := []
  memmapGen : BitVec 32 := 1#32
  regionGen : BitVec 32 := 0
  memCap : BitVec 40 := 0x2000000000#40
  ageLimit : BitVec 16 := 0x1000#16
  chans : Table Chan := []
  /-- Accesses of the host and of partners under way, and how many accesses have been made (R257, R260). -/
  accs : List NearAcc := []
  accSeq : Nat := 0
deriving DecidableEq, Repr

/-! ### Links and far tier (12) -/

/-- Port states (Table 12.3). -/
inductive PortSt where
  | dark | training | failed | incompatible | up | attached
deriving DecidableEq, Repr

/-- A DATA flit that may have to be sent again (R299): SEQ, stream bytes, ELAPSED when last sent, and whether it ends the
last part of a message. -/
structure TxFlit where
  seq : Nat
  data : List Byte
  sent : Nat
  last : Bool
  /-- The credits it returns: class, count. -/
  cred : Nat × Nat := (0, 0)
deriving DecidableEq, Repr

/-- Who waits for a response. -/
inductive Requester where
  | task (handle task : Nat)
  | oxbow
  | restore
  /-- A peer's image that this part keeps (R368): the port and tag of its BUDDY_DATA or BUDDY_COMMIT; the port of its
  BUDDY_FETCH. -/
  | peer (port tag : Nat)
  | fetch (port : Nat)
deriving DecidableEq, Repr

/-- A request awaiting its response (R304, R306). -/
structure Req where
  tag : Nat
  who : Requester
  /-- Offset of the data in the task's transfer, its length, the far address, ELAPSED at issue. -/
  off : Nat
  len : Nat
  far : Nat
  since : Nat
deriving DecidableEq, Repr

/-- An attestation of the partner in progress (R312); a LINK_ATTACH waits with its packet, or a retrain
re-attests. -/
structure Attest where
  pkt : Option Nat
  expect : BitVec 256
  anchor : BitVec 256
  role : Nat
  wbase : Nat
  wsize : Nat
  nonce : BitVec 256
  chain : List Byte := []
  since : Nat
deriving DecidableEq, Repr

/-- An Outfall port (R289 to R314). -/
structure Port where
  state : PortSt := .dark
  role : Nat := 0
  lightIn : Bool := false
  lightRx : Bool := false
  version : Option Nat := none
  profile : Nat := 0
  txSpare : Option Nat := none
  rxSpare : Option Nat := none
  /-- The partner identifier's 32 bytes, or none. -/
  partner : List Byte := []
  capRed : BitVec 7 := 0
  capPersist : Bool := false
  capSparse : Bool := false
  fecCor : BitVec 32 := 0
  replays : BitVec 16 := 0
  retrains : BitVec 16 := 0
  wbase : Nat := 0
  wsize : Nat := 0
  anchor : BitVec 256 := 0
  /-- Transmit side: next SEQ, unacknowledged flits with SEQ and ELAPSED, flits waiting for the window. -/
  nextSeq : Nat := 0
  replayBuf : List TxFlit := []
  txFlits : List (List Byte × Bool) := []
  /-- Messages handed to the port, and messages whose last flit has been acknowledged (R321). -/
  msgQueued : Nat := 0
  msgAcked : Nat := 0
  /-- CYCLE of the last acknowledgement of a message's last flit. -/
  msgAckAt : Nat := 0
  /-- Transactions waiting for credits, by class (R301). -/
  txReq : List Txn := []
  txRsp : List Txn := []
  txMsg : List Txn := []
  txColl : List Txn := []
  /-- Credits held for REQ, RSP, MSG, COLL. -/
  credits : List Nat := [0, 0, 0, 0]
  /-- Credits to be returned to the partner. -/
  owed : List Nat := [0, 0, 0, 0]
  /-- Receive side: expected SEQ, last DATA SEQ received correctly, NAK sent, flits since the last ACK,
  ELAPSED of it, bytes of the stream not yet a whole transaction. -/
  expSeq : Nat := 0
  lastGood : Option Nat := none
  nakSent : Bool := false
  sinceAck : Nat := 0
  lastAck : Nat := 0
  stream : List Byte := []
  /-- The SEQ last replayed and how often in a row; ELAPSED of uncorrectable codewords of the last 1 ms. -/
  replaySeq : Option Nat := none
  replayRun : Nat := 0
  uncorr : List Nat := []
  /-- Received transactions by class, in order. -/
  req : List Txn := []
  rsp : List Txn := []
  msg : List Txn := []
  coll : List Txn := []
  /-- Tags in use, next tag to try. -/
  pending : List Req := []
  nextTag : Nat := 0
  /-- HELLO payloads sent and received at the last step 7 (R308, R312). -/
  helloSent : List Byte := []
  helloGot : List Byte := []
  /-- Steps 1 to 6 of a training, or 3 to 6 of a retrain, are done: the partner's HELLO is awaited. -/
  helloWait : Bool := false
  /-- ELAPSED when training, retrain or FAILED began. -/
  since : Nat := 0
  /-- A retrain in service is under way (R300), and the state it will go back to is kept. -/
  retraining : Bool := false
  attest : Option Attest := none
  /-- LINK_ATTACH packets waiting for a retrain to end: packet number, packet. -/
  attachWait : List (Nat × Packet) := []
deriving DecidableEq, Repr

/-- A far-region entry (Table 12.13). -/
structure FarRegion where
  valid : Bool := false
  persist : Bool := false
  stripe : Nat := 0
  base : Nat := 0
  size : Nat := 0
  ports : BitVec 48 := 0
  pbase : W64 := 0
deriving DecidableEq, Repr

/-- Links and far tier. -/
structure Links where
  ports : Table Port := []
  far : Table FarRegion := []
deriving DecidableEq, Repr

/-! ### Observation, lock-step, trace (13) -/

/-- LS_STAT.STATE (Table 13.3). -/
inductive LsSt where
  | unpaired | pairing | paired | frozen
deriving DecidableEq, Repr

/-- The lock-step pairing (R346). -/
structure Ls where
  state : LsSt := .unpaired
  port : Nat := 0
  runSeq : BitVec 32 := 0
  dbase : Nat := 0
  dsize : Nat := 0
  /-- The LOCKSTEP_PAIR that waits, and ELAPSED since when. -/
  pkt : Option Nat := none
  since : Nat := 0
  /-- A partner's LS_PAIR received early: port, NID and row counts. -/
  got : Option (Nat × W64 × List Byte) := none
  /-- The partner's LS_START received and not yet used: IMAGE_CRC and RUNSEQ. -/
  gotStart : Option (Nat × Nat) := none
deriving DecidableEq, Repr

/-- One die's trace ring (R351, R352). -/
structure TraceRing where
  dropped : BitVec 16 := 0
  wraps : BitVec 16 := 0
  head : BitVec 16 := 0
  recs : Table (BitVec 128) := []
  /-- Records accepted in the CYCLE given: at most 4 a cycle. -/
  inCycle : Nat × Nat := (0, 0)
deriving DecidableEq, Repr

/-- Observation registers (Table 13.3). -/
structure Obs where
  tdcSluice : W64 := 0
  tdcNear : W64 := 0
  tdcLink : W64 := 0
  tdcColl : W64 := 0
  slipIngress : W64 := 0
  slipPause : W64 := 0
  ls : Ls := {}
  traceMask : BitVec 8 := 3#8
  trace : Table TraceRing := []
deriving DecidableEq, Repr

/-! ### Oxbow (14) -/

/-- The policy of Table 14.10. -/
structure Policy where
  snapPorts : Nat
  minPorts : Nat
  lMax : Nat
  kFixed : Nat
  halfLife : Nat
  lambda0 : Nat
  ovhCeil : Nat
  cMin : Nat
  slotLbas : Nat
  buddyPorts : BitVec 48
  buddyFreg : Nat
  buddyFor : List Byte
  /-- Pairs: far?, member 0, member 1. -/
  pairs : List (Bool × Nat × Nat)
deriving DecidableEq, Repr

/-- A volume of the set: VOL_INDEX, SET_ID, EUI-64 (Tables 14.3, 14.4). -/
structure Volume where
  index : Nat
  setId : BitVec 128
  eui : W64
  slotLbas : Nat
deriving DecidableEq, Repr

/-- What Oxbow sent to a snapshot port: the commands of R363. -/
inductive NvmeOut where
  | identify (port : Nat)
  | createCq (port qid : Nat)
  | createSq (port qid : Nat)
  | deleteSq (port qid : Nat)
  | deleteCq (port qid : Nat)
  | smart (port : Nat)
  | read (port lba blocks : Nat)
  | write (port lba : Nat) (data : List Byte) (fua : Bool)
  | flush (port : Nat)
deriving DecidableEq, Repr

/-- An NVMe command that has not completed: its port, ELAPSED at issue, whether the drain in flight waits for it (R364). -/
structure NvmeCmd where
  port : Nat
  since : Nat
  drain : Bool
deriving DecidableEq, Repr

/-- A snapshot in flight (R357, R365 to R369). -/
structure Snap where
  seq : W64
  step : W64
  parity : Bool
  /-- The policy it was started under: a PERST# leaves the drain going (Table 15.11). -/
  policy : Policy
  /-- No verify block will be written for it (R360, R376). -/
  noVerify : Bool := false
  /-- Stage of R366 in progress, 1 to 4; 5 while its verify block is being written; 6 once that is durable or lost. -/
  stage : Nat := 1
  onBuddy : Bool := false
  /-- Ports of the set, ascending. -/
  ports : List Nat := []
  /-- NVMe commands of the stage that wait for room in a port's queues. -/
  nvmeQ : List NvmeOut := []
  /-- The record as at the mark, and the data stream by offset. -/
  record : List Byte := []
  stream : Table (List Byte) := []
  /-- PERSIST requests of stage 2 (R369). -/
  persist : List QReq := []
  /-- Link requests outstanding or waiting, and those waiting. -/
  acks : Nat := 0
  txQ : List QReq := []
  /-- Step 1 of R357 has read the loss: LOSS_FMT and bits. -/
  loss : Option (Nat × Nat) := none
  committed : Bool := false
  /-- ELAPSED ticks step 3 of R357 waited for it; the OXBOW_SNAPSHOT packet that waits. -/
  waitTicks : Nat := 0
  pkt : Option Nat := none
deriving DecidableEq, Repr

/-- Oxbow (Table 14.8 and the policy in force). -/
structure Oxb where
  restored : Bool := false
  waiting : Bool := false
  parity : Bool := false
  commitSeq : W64 := 0
  commitStep : W64 := 0
  /-- A snapshot has been committed: c is not -infinity. -/
  hasCommit : Bool := false
  k : BitVec 32 := 1#32
  /-- λ in units of 2^-64 events per second, and ELAPSED it holds for (R361). -/
  lambda : Nat := 0
  lambdaAt : Nat := 0
  c : W64 := 0
  tStep : W64 := 0
  events : W64 := 0
  /-- STEP, EPOCH, SHARD, SAMPLE, STREAM[0-7] (R356). -/
  cursor : Table W64 := []
  /-- ORIGIN(s) (R356). -/
  origin : Table W64 := []
  policy : Option Policy := none
  vols : Table Volume := []
  /-- SET_ID of the latest format (Table 14.3). -/
  setId : BitVec 128 := 0
  failed : BitVec 4 := 0
  /-- I/O queue pairs of each port, and the commands outstanding there, oldest first (R363, R364). -/
  queues : Table Nat := []
  nvme : List NvmeCmd := []
  /-- Link requests for a peer's image that wait for their ports, oldest first (R301, R368). -/
  peerQ : List (Requester × QReq) := []
  snap : Option Snap := none
  /-- SEQ of the next snapshot, STEP of the latest started, a host request pending (R357). -/
  nextSeq : W64 := 1#64
  lastStart : Option W64 := none
  hostReq : Bool := false
  /-- Last 8 overheads and last 8 step times, in ELAPSED ticks, newest first (R361). -/
  cSamples : List Nat := []
  tSamples : List Nat := []
  /-- ELAPSED at the last MARK CURSOR completion, and mark waits since. -/
  lastCursor : Option Nat := none
  waitSum : Nat := 0
deriving DecidableEq, Repr

/-! ### Tiles (03 to 08) -/

/-- A data stream of a feeder (Table 8.3, R178): source (0 self, 1 to 4 a neighbour), transposed, byte
address, line stride in bytes, K index of element 0, output index of line 0, next element. -/
structure DataStream where
  src : Nat
  trans : Bool
  addr : Nat
  stride : Nat
  koff : Nat
  oidx : Nat
  pos : Nat := 0
deriving DecidableEq, Repr

/-- A scale stream (Table 8.3, R179, R180): source, byte address, line stride in entries, and once it has
served data, the entry it read last and the absolute K index it served last. -/
structure ScaleStream where
  src : Nat
  addr : Nat
  stride : Nat
  last : Option (Nat × Nat) := none
deriving DecidableEq, Repr

/-- One feeder: pending and active streams (R180). -/
structure Feeder where
  pendD : Option DataStream := none
  actD : Option DataStream := none
  pendS : Option ScaleStream := none
  actS : Option ScaleStream := none
deriving DecidableEq, Repr

/-- A lane's table of a LUT bank as a pass uses it: first group, 16 entries, entry format code, signedness, the bank. -/
structure LaneTable where
  group : Nat
  bytes : List Byte
  fmt : Nat
  sign : Bool
  bank : Bool := false
deriving DecidableEq, Repr

/-- What a feeder stream holds of a pass: the 8-byte words it has read, their bytes, and whether its source is a neighbour that
is absent (R193, R465). -/
structure Held where
  words : List Nat := []
  mem : Mem := []
  absent : Bool := false
deriving DecidableEq, Repr

/-- A pass in progress on an array (R91, R98): its slot, its streams as at issue, what its feeders hold, and per cell the groups
already added. -/
structure Pass where
  slot : Nat := 0
  init : Bool := false
  /-- The anchor in force for the pass. -/
  anchor : Int := 0
  /-- MMA.B: 1 per column, 2 per row, format code, and the 8 patterns read at issue (R182). -/
  bias : Option (Nat × Nat × List Nat) := none
  kcnt : Nat := 0
  dA : Option DataStream := none
  dB : Option DataStream := none
  sA : Option ScaleStream := none
  sB : Option ScaleStream := none
  /-- Along-output entries of the 8 lines as paired in this pass: tag mismatch, zero point (R72, R85, R179). -/
  outA : List (Bool × Int) := []
  outB : List (Bool × Int) := []
  /-- CYCLE of issue, moved by each halt cycle (R193). -/
  issue : Nat := 0
  /-- Groups both feeders have read (R91, R193). -/
  read : Nat := 0
  /-- What the streams hold: 0 A data, 1 A scale, 2 B data, 3 B scale. -/
  got : Table Held := []
  /-- MMA.B: address and length of its bias vector (R194). -/
  biasAt : Option (Nat × Nat) := none
  /-- Cells in which an initialising pass has given its slot its starting value (R98, R182). -/
  inited : List Nat := []
  /-- Groups added, by cell 8i + j. -/
  done : Table Nat := []
  /-- LUT tables by lane, latest last (R80). -/
  tabs : Table (List LaneTable) := []
  /-- DRAINs and QOPs of its slot that issued before it and had not ended then, by their CYCLE of issue (R97, R184). -/
  after : List Nat := []
deriving DecidableEq, Repr

/-- Where an array's LUT banks stand (R79 to R82). -/
inductive LutSt where
  | settled | loading | pending
deriving DecidableEq, Repr

/-- One LUT bank: 128 entry bytes, entry format code, signedness (R77, R78). -/
structure LutBank where
  bytes : List Byte := List.replicate 128 0#8
  fmt : Nat := 0
  sign : Bool := false
deriving DecidableEq, Repr

/-- The LUT of an array: two banks, the bank each lane uses, the state and the CYCLE since which it holds, the bank
loaded last (true: 1). -/
structure Lut where
  bank0 : LutBank := {}
  bank1 : LutBank := {}
  /-- Bit l: lane l uses bank 1. -/
  lanes : BitVec 8 := 0
  st : LutSt := .settled
  since : Nat := 0
  target : Bool := false
deriving DecidableEq, Repr

/-- One row of a row context (Table 7.1). -/
structure RowCell where
  st : Nat := 0
  m : BitVec 32 := 0x80000000#32
  d : BitVec 32 := 0
  count : BitVec 32 := 0
  mu : BitVec 32 := 0x7FC00000#32
  rstd : BitVec 32 := 0x7FC00000#32
  q1 : BitVec 512 := 0
  q2 : BitVec 512 := 0
deriving DecidableEq, Repr

/-- A row context (R150). -/
structure RowCtx where
  anchor : Int := 0
  rows : List RowCell := List.replicate 8 {}
deriving DecidableEq, Repr

/-- A transfer the DMA engine holds (R201). -/
structure Xfer where
  id : Nat
  dir : Nat
  near : Nat
  laddr : Nat
  len : Nat
  token : Nat
  hint : Nat
  rtype : Nat
  /-- The bytes a STORE, RED or PUSH sends. -/
  data : List Byte
  /-- Runs not yet served. -/
  left : Nat
  /-- Signals toward the neighbour of a PUSH that follow it: token, count (R197). -/
  signals : List (Nat × Nat) := []
  /-- CYCLE of the completion of a PUSH, and of a transfer of Still mode (R202, R266). -/
  due : Nat := 0
  /-- CYCLE of its issue, word index of what follows the DMA, and whether its runs have their slots (R266). -/
  issue : Nat := 0
  word : Nat := 0
  placed : Bool := false
deriving DecidableEq, Repr

/-- Why a tile stopped before its END (R104, R254, R273, R82). -/
inductive StopWhy where
  | uncorrectable | nearUncorrectable | badParam | reloadPending
deriving DecidableEq, Repr

/-- Where a tile's part of a task stands (R174, R104). -/
inductive TilePhase where
  | idle | running | ended | done
  | stopped (why : StopWhy)
deriving DecidableEq, Repr

/-- A DRAIN issued and not yet accepted: its words, the address registers and the CYCLE at its issue; the values x it has taken, by
cell, with the flags of forming them, and how many diagonals or rows it has taken and written (R99); where a retry before it
holds it, from which of them on, and the CYCLE in which it takes that one (R146); the OSCALE of its converting pass once the first
pass has been made, and the rows that pass has written (R146); and, where a pass issued after it has gone on in the slot, the
fields of cells as they stood before that pass, and when the slot was final without it (R97). -/
structure Drain where
  ws : List W64
  regs : Table Nat
  issue : Nat := 0
  xs : List (Nat × Num × Flags) := []
  taken : Nat := 0
  wrote : Nat := 0
  stall : Option (Nat × Nat) := none
  again : Option Int := none
  rows : Nat := 0
  kept : Table Nat := []
  fin : Option (Nat × Nat) := none
deriving DecidableEq, Repr

/-- A QOP that has issued while an earlier pass was still adding its last groups in some cells (R184): its words, the address
registers, the CYCLE and the anchor of its slot at its issue, the cells it has yet to act on, and for QST and QRND the fields
of the cells it has read. -/
structure HeldQop where
  ws : List W64
  regs : Table Nat
  issue : Nat := 0
  anchor : Int := 0
  left : List Nat := []
  fields : Table Nat := []
deriving DecidableEq, Repr

/-- What an instruction that has issued still occupies of its own SRAM up to the CYCLE of its last write (R194, R195): its
unit (0 QOP, 1 VEC, 2 SFU, 3 ROW, 6 conversion, 7 a DRAIN's scale entry and block maxima, 8 array, 9 DMA, 10 LUT loader), and
the ranges as written?, address, length. -/
structure Flight where
  unit : Nat
  last : Nat
  acc : List (Bool × Nat × Nat) := []
deriving DecidableEq, Repr

/-- An instruction or a transfer that uses the banks of the SRAM (R191, R192): its place in the order of R192 (9 bias of an
MMA.B, 10 QOP, 11 ROW, 12 SFU, 13 VEC, 14 LUT, 15 DMA, 16 the neighbour port, 0 the conversion unit), its unit as in Flight, the
number of its transfer, the physical tile whose SRAM it uses if not its own, and the words it asks for by the CYCLE from which
it asks for them. -/
structure Job where
  rank : Nat
  unit : Nat
  xfer : Nat := 0
  owner : Option Nat := none
  todo : List (Nat × List Nat) := []
deriving DecidableEq, Repr

/-- When a slot index is final, and from which CYCLE the next instruction on it may issue (R97, R99, R154, R184): CYCLE at the
end of which its first anti-diagonal and its last cell are final; earliest issue of a QOP, of ROW.RESCALE or ROW.DIV,
of an MMA, of an MMA that initialises it, of a QOP or ROW.RESCALE that writes it. -/
structure SlotTime where
  first : Nat := 0
  last : Nat := 0
  qop : Nat := 0
  row : Nat := 0
  mma : Nat := 0
  init : Nat := 0
  write : Nat := 0
deriving DecidableEq, Repr

/-- A tile (R88). Slots and cells of the two arrays are numbered (array * 16 + slot) * 64 + cell. -/
structure Tile where
  handle : Nat := 0
  task : Nat := 0
  /-- Its index in the tile set (R206), and its logical number. -/
  index : Nat := 0
  number : Nat := 0
  phase : TilePhase := .idle
  /-- The instruction store (R170). -/
  store : List W64 := []
  pc : Nat := 0
  /-- Loops entered: first word of the body, word after it, iterations left (R203). -/
  loops : List (Nat × Nat × Nat) := []
  /-- CYCLE in which the first instruction may issue (R222), and before which DELAY holds issue. -/
  notBefore : Nat := 0
  /-- CYCLE of the task's first possible issue, and of the last issue (R82, R341). -/
  first : Nat := 0
  lastIssue : Option Nat := none
  /-- LB0 to LB7 and NB0 to NB3 (R177), by register code 0 to 11. -/
  regs : Table Nat := []
  ncw : W64 := 0
  sram : Mem := []
  acc : Table (BitVec 128) := []
  /-- Anchors of slots and the SCALE fields of their along-output entries, by array * 16 + slot, for 8 rows and 8
  columns; none is the factor 1 (R66, R71, R179). -/
  anchor : Table Int := []
  factA : Table (List (Option Nat)) := []
  factB : Table (List (Option Nat)) := []
  /-- Groups added since initialisation, by (array * 16 + slot) * 64 + cell (R120). -/
  longCnt : Table Nat := []
  /-- Chunk registers by array * 64 + cell: value as significand and exponent, groups, exceptional mark (R108 to R110,
  R118). -/
  chunk : Table (Int × Int × Nat × Bool) := []
  /-- Feeders by 2 * array + side. -/
  feed : Table Feeder := []
  /-- Passes in progress of array A and B, earliest first. -/
  passA : List Pass := []
  passB : List Pass := []
  lutA : Lut := {}
  lutB : Lut := {}
  /-- Array A (bit 0) and B (bit 1) are clock-gated by grant (R417). -/
  gated : BitVec 2 := 0
  tflags : Flags := 0
  /-- VFLAGS: [4] INEXACT, [3] UNDERFLOW, [2] OVERFLOW, [1] DIVZERO, [0] INVALID. -/
  vflags : BitVec 5 := 0
  rmax : BitVec 32 := 0
  /-- The histogram record's 66 words (R139). -/
  hist : Table (BitVec 32) := []
  smiss : BitVec 16 := 0
  /-- DRAINs issued and not yet accepted, earliest first (R99, R147). -/
  drains : List Drain := []
  /-- QOPs issued that have yet to act on some cells, earliest first (R184). -/
  held : List HeldQop := []
  /-- CYCLE from which a unit accepts its next instruction (R195): 0 QOP, 1 VEC, 2 SFU, 3 ROW, 4 and 5 the feeders of array A
  and B, 16 + c row context c. -/
  unitFree : Table Nat := []
  flights : List Flight := []
  /-- What uses the banks of the SRAM besides feeders and conversions (R192), and for how many cycles on end a requester (its place in
  R192's order * 32 + bank) has been refused by a bank. -/
  jobs : List Job := []
  bankAge : Table Nat := []
  /-- By array * 16 + slot. -/
  slotTimes : Table SlotTime := []
  /-- Sync tokens (R196). -/
  tok : Table Nat := []
  /-- Signals on their way: CYCLE of the SIGNAL, token, count; each arrives in the next cycle (R196). -/
  arriving : List (Nat × Nat × Nat) := []
  dma : List Xfer := []
  nextXfer : Nat := 0
  rows : Table RowCtx := []
  /-- ISSUE, BUSY_A, BUSY_B, NULL_A, NULL_B, HALT, WAIT (R341), and the CYCLE each of BUSY_A to NULL_B last
  counted. -/
  cnt : List (BitVec 32) := List.replicate 7 0
  cntAt : List (Option Nat) := [none, none, none, none]
  /-- The run of halt cycles in progress on array A and B: its length and its last CYCLE (R352). -/
  haltRun : List (Nat × Nat) := [(0, 0), (0, 0)]
  /-- The tile digest's CRC (R345). -/
  crc : Nat := 0
  /-- CYCLE of the task's dispatch; the tile's end cycle. -/
  dispatched : Nat := 0
  endCycle : Nat := 0
  /-- Words with a single-bit and with a double-bit error: of SRAM, of accumulator memory ((array * 16 + slot) * 64 + cell), of the
  instruction store; and LUT entries with a parity error ((array * 2 + bank) * 128 + entry) (R103, R104, R170).
  (DESIGN CHOICE: LOG 9.) -/
  sram1 : List Nat := []
  sram2 : List Nat := []
  acc1 : List Nat := []
  acc2 : List Nat := []
  lut2 : List Nat := []
  store1 : List Nat := []
  store2 : List Nat := []
  /-- Corrected errors (R103), and how many of them the trace has recorded (R352). -/
  corrected : W64 := 0
  traced : W64 := 0
  /-- Lowest near-tier DETAIL of the errors the tile met (R273), and whether a RED met one. -/
  nearErr : Option Nat := none
  /-- CYCLE when the tile last ran a task (R215). -/
  lastRan : Option Nat := none
deriving DecidableEq, Repr

/-! ### The whole machine -/

/-- What the part did that its partners, SSDs, management and test ports see (LOG 6). -/
structure Outputs where
  host : List HostOut := []
  flits : List (Nat × List Byte) := []
  nvme : List NvmeOut := []
  doe : List (List Byte) := []
  i3c : List Byte := []
  jtag : List Bool := []
deriving DecidableEq, Repr

/-- The device behind the platform. -/
structure Dev where
  geom : Geom := {}
  fw : Fw := {}
  spdm : Spdm := {}
  host : HostIf := {}
  /-- Loaded graphs by handle, runs in the order taken, quadrants. -/
  graphs : Table Graph := []
  runs : List Run := []
  quads : Table Quad := []
  /-- Tiles by physical number die * 5100 + row * 102 + column. -/
  tiles : Table Tile := []
  near : Near := {}
  rng : Table RngStream := []
  links : Links := {}
  obs : Obs := {}
  oxb : Oxb := {}
  /-- The index of the next free value (the MODEL's own, LOG 5). -/
  freeCtr : Nat := 0
  out : Outputs := {}
deriving DecidableEq, Repr

/-- The machine: the waiting commands, the platform, the device. -/
structure State where
  /-- Commands waiting, first in, first out. -/
  pending : List Instr := []
  plat : Plat := {}
  dev : Dev := {}
deriving DecidableEq, Repr

/-- Why the machine stops with a fault. -/
inductive Fault where
  /-- Raised by VIN_SAMPLE for a reading above 80 V: beyond the absolute maximum the spec promises no behaviour
  (R409, Table 16.1). Safe: no later state is claimed. -/
  | beyondAbsoluteMaximum
deriving DecidableEq, Repr

/-- Why a command has no meaning. -/
inductive Refusal where
  /-- Raised by an arm of `exec` whose command has no meaning in the model yet. Safe: nothing is claimed of it. -/
  | notModelled (mnemonic : String)
deriving DecidableEq, Repr

/-- The machine right after reset: the moment of power-good of an undamaged grade F part (R414, LOG 1), every
register at its table's reset value, no command waiting. -/
def State.reset : State := { pending := [], plat := {}, dev := {} }

end Sys2Proof.Machine
end

