-- ==== Sys2Proof/Machine/Time.lean ====
section
/-! DEFINITION. Time: the counters of R419 to R422 and one ACLK cycle of the clocks. -/

namespace Sys2Proof.Machine

/-- ELAPSED: REFCLK ticks since power-good; ROOT runs at 66 times REFCLK (R419, R422). -/
def Clk.elapsed (c : Clk) : Nat := c.root / 66

/-- ELAPSED as the register holds it. -/
def Clk.elapsedReg (c : Clk) : W64 := BitVec.ofNat 64 c.elapsed

/-- D once this cycle's frame begins: D changes only at a frame boundary (R419). -/
def Clk.nowDiv (c : Clk) : Nat := if c.half then c.frameDiv else c.div

/-- One ACLK cycle: D ROOT periods, CYCLE counts one, STRETCH_TICKS counts the ELAPSED ticks with D > 6
(R419, R422, R427). -/
def Clk.tick (c : Clk) : Clk :=
  let d := c.nowDiv
  let c' := { c with root := c.root + d, cycle := c.cycle + 1#64, frameDiv := d, half := !c.half }
  if d > 6 then { c' with stretchTicks := c.stretchTicks + BitVec.ofNat 64 (c'.elapsed - c.elapsed) } else c'

end Sys2Proof.Machine
end

