-- ==== Sys2Proof/Machine/Ops.lean ====
section
/-! DEFINITION. The operations every family of commands uses: statuses, trace records, what the part sends to
the host (entries, events, messages), and the taking of packets. -/

namespace Sys2Proof.Machine

/-- What a meaning answers. -/
abbrev Out := Host.Outcome State Fault Refusal

/-- A command that acts on the device, given the platform as it stands. -/
def onDev (s : State) (f : Plat → Dev → Dev) : Out := .next { s with dev := f s.plat s.dev }

/-- A command that acts on the platform alone. -/
def onPlat (s : State) (f : Plat → Plat) : Out := .next { s with plat := f s.plat }

/-- A command that acts on both. -/
def onBoth (s : State) (f : Plat × Dev → Plat × Dev) : Out :=
  let r := f (s.plat, s.dev)
  .next { s with plat := r.1, dev := r.2 }

/-- ELAPSED now. -/
def Plat.now (p : Plat) : Nat := p.clk.elapsed

/-- CYCLE now. -/
def Plat.cyc (p : Plat) : Nat := p.clk.cycle.toNat

/-- MCLK cycles since power-good: three for every two ACLK cycles (R419). -/
def Plat.mclk (p : Plat) : Nat := p.cyc * 3 / 2

/-- CCLK cycles since power-good: one for every two ACLK cycles (R419). -/
def Plat.cclk (p : Plat) : Nat := p.cyc / 2

/-- The domain clocks run and the rails are up. -/
def Plat.alive (p : Plat) : Bool := p.clk.running && (p.sup.phase == .up)

/-- Work goes on: the clocks run and the supply has not failed (R412). -/
def Plat.serving (p : Plat) : Bool := p.alive && (p.sup.state != .powerFailed)

/-! ### Status codes (Table 15.10) -/

def stOk : Nat := 0x0000
def stOkFlags : Nat := 0x0001
def stBusy : Nat := 0x0010
def stBadOpcode : Nat := 0x0011
def stBadParam : Nat := 0x0012
def stVersion : Nat := 0x0013
def stGeometry : Nat := 0x0014
def stNid : Nat := 0x0015
def stReload : Nat := 0x0016
def stSkew : Nat := 0x0020
def stMiss : Nat := 0x0021
def stBreak : Nat := 0x0022
def stTimeout : Nat := 0x0023
def stRngSkew : Nat := 0x0030
def stReplay : Nat := 0x0031
def stSnapshot : Nat := 0x0032
def stMem : Nat := 0x0040
def stLinkDown : Nat := 0x0041
def stPartner : Nat := 0x0042
def stDiverge : Nat := 0x0050
def stAuth : Nat := 0x0060
def stRollback : Nat := 0x0061
def stPower : Nat := 0x00F0

/-! ### Free values (LOG 5) -/

/-- A fresh value of w bits that nothing constrains. -/
def freeVal (w : Nat) (d : Dev) : BitVec w × Dev :=
  (Config.freeValue w d.freeCtr, { d with freeCtr := d.freeCtr + 1 })

/-! ### Output -/

/-- Send something over the host link. -/
def hostOut (o : HostOut) (d : Dev) : Dev := { d with out := { d.out with host := d.out.host ++ [o] } }

/-- Change the host interface. -/
def onHost (f : HostIf → HostIf) (d : Dev) : Dev := { d with host := f d.host }

/-- A ring's registers. -/
def ringAt (d : Dev) (r : Nat) : Ring := tget {} d.host.rings r

/-- Change a ring. -/
def modRing (r : Nat) (f : Ring → Ring) (d : Dev) : Dev :=
  onHost (fun h => { h with rings := tmod {} h.rings r f }) d

/-- An MSI-X vector. -/
def vecAt (d : Dev) (v : Nat) : Vector := tget {} d.host.vec v

/-- Change a vector. -/
def modVec (v : Nat) (f : Vector → Vector) (d : Dev) : Dev :=
  onHost (fun h => { h with vec := tmod {} h.vec v f }) d

/-- N = 2^LOG2N. -/
def Ring.size (r : Ring) : Nat := 2 ^ r.log2n

/-- Entries between HEAD and TAIL (R385). -/
def Ring.used (r : Ring) : Nat := (r.tail + r.size - r.head) % r.size

/-- The ring that vector v serves (R387): completion rings 0 to 8 are rings 9 to 17, the event ring is 18. -/
def vectorRing (v : Nat) : Nat := v + 9

/-- Send the vector's message if it owes one, is unmasked and HOLDOFF µs have passed since its last one; while it
is masked set its pending bit (R387). In D3hot no message is raised (R377). -/
def trySend (now v : Nat) (d : Dev) : Dev :=
  let x := vecAt d v
  let hold := (ringAt d (vectorRing v)).holdoff.toNat * 100
  let ripe := match x.lastMsg with | none => true | some t => decide (t + hold ≤ now)
  if !x.owed || d.host.d3 then d
  else if x.mask || d.host.funcMask then modVec v (fun y => { y with pend := true }) d
  else if ripe then
    hostOut (.msi v x.addr x.data)
      (modVec v (fun y => { y with owed := false, pend := false, lastMsg := some now }) d)
  else d

/-- The device wrote entries to a ring whose INT_EN is 1 (R387). -/
def raise (now r : Nat) (d : Dev) : Dev :=
  if (ringAt d r).intEn then trySend now (r - 9) (modVec (r - 9) (fun y => { y with owed := true }) d) else d

/-- Write one entry at a completion or event ring's TAIL and advance it; PHASE inverts at each pass (R390). -/
def putEntry (r : Nat) (entry : Bool → List Byte) (d : Dev) : Dev :=
  let x := ringAt d r
  let e := entry x.phase
  let t := (x.tail + 1) % x.size
  hostOut (.write (BitVec.ofNat 64 (x.base.toNat * 4096 + e.length * x.tail)) e)
    (modRing r (fun y => { y with tail := t, phase := if t = 0 then !y.phase else y.phase }) d)

/-- The 32 bytes of a completion (Table 15.7). -/
def completionBytes (seq : BitVec 32) (status ring detail now : Nat) (tag : W64) (phase : Bool) : List Byte :=
  natLe 4 seq.toNat ++ natLe 2 status ++ natLe 1 ring ++ natLe 1 (if phase then 1 else 0) ++ natLe 4 detail ++
    natLe 4 0 ++ natLe 8 now ++ natLe 8 tag.toNat

/-- Post the completion of a packet: its entry was reserved when it was taken (R386); with the completion
ring disabled it is discarded (R384); NOINT raises no message (R387). -/
def postCompletion (now : Nat) (t : Taken) (status detail : Nat) (d : Dev) : Dev :=
  let r := t.ring + 9
  if (ringAt d r).enable then
    let d1 := putEntry r (completionBytes t.seq status t.ring detail now t.tag)
      (modRing r (fun y => { y with reserved := y.reserved - 1 }) d)
    if t.noint then d1 else raise now r d1
  else d

/-- Complete the packet of a number: it leaves the outstanding packets (R386). -/
def complete (now id status detail : Nat) (d : Dev) : Dev :=
  match d.host.taken.find? (fun t => t.id == id) with
  | none => d
  | some t =>
    postCompletion now t status detail
      (onHost (fun h => { h with taken := h.taken.filter (fun u => u.id != id) }) d)

/-- Complete a packet if there is one. -/
def completeOpt (now : Nat) (id : Option Nat) (status detail : Nat) (d : Dev) : Dev :=
  match id with | none => d | some i => complete now i status detail d

/-! ### Events (R406 to R408) -/

/-- The 64 bytes of an event record. -/
def eventBytes (code : Nat) (eseq : BitVec 32) (now : Nat) (payload : List Byte) (phase : Bool) : List Byte :=
  natLe 2 code ++ natLe 1 (if phase then 1 else 0) ++ natLe 1 0 ++ natLe 4 eseq.toNat ++ natLe 8 now ++
    payload ++ List.replicate (48 - payload.length) 0#8

/-- The event ring has a free entry. -/
def eventRoom (d : Dev) : Bool := (ringAt d 18).enable && decide ((ringAt d 18).used + 1 < (ringAt d 18).size)

/-- Write an event record. -/
def writeEvent (now code : Nat) (payload : List Byte) (d : Dev) : Dev :=
  raise now 18 (onHost (fun h => { h with eseq := h.eseq + 1#32 })
    (putEntry 18 (eventBytes code d.host.eseq now payload) d))

/-- Post EVENT_LOST with the count once an entry is free (R408). -/
def postLost (now : Nat) (d : Dev) : Dev :=
  if d.host.dropped = 0 || !eventRoom d then d
  else onHost (fun h => { h with dropped := 0 }) (writeEvent now 0x0001 (natLe 8 d.host.dropped) d)

/-- Post an event; with no free entry it is dropped and counted (R408). -/
def postEvent (now code : Nat) (payload : List Byte) (d : Dev) : Dev :=
  let d1 := postLost now d
  if eventRoom d1 then writeEvent now code payload d1
  else onHost (fun h => { h with dropped := h.dropped + 1 }) d1

/-! ### Trace (R351, R352) -/

/-- Write a trace record of a class to a die's ring; at most 4 records a ring and cycle. -/
def traceRec (cyc cls code unit die payload : Nat) (d : Dev) : Dev :=
  if !d.obs.traceMask.toNat.testBit cls then d
  else
    let f (t : TraceRing) : TraceRing :=
      let n := if t.inCycle.1 = cyc then t.inCycle.2 else 0
      if n ≥ 4 then { t with dropped := satAdd 16 t.dropped 1 }
      else
        let r := BitVec.ofNat 128 (cyc % 2 ^ 48 * 2 ^ 80 + code * 2 ^ 72 + unit * 2 ^ 64 + payload % 2 ^ 64)
        { t with recs := tset 0#128 t.recs t.head.toNat r, head := t.head + 1#16,
                 wraps := if t.head = 0xFFFF#16 then satAdd 16 t.wraps 1 else t.wraps, inCycle := (cyc, n + 1) }
    { d with obs := { d.obs with trace := tmod {} d.obs.trace die f } }

/-- A TDC_CHOICE record (Table 13.7). -/
def traceChoice (cyc die unit subsystem kind res : Nat) (d : Dev) : Dev :=
  traceRec cyc 2 0x04 unit die (subsystem + kind * 16 + res % 1024 * 256) d

/-! ### Packets (R388, R389, R392) -/

/-- n little-endian bytes of a packet at an offset; bytes beyond its end are zero. -/
def pkField (pkt : Packet) (off n : Nat) : Nat := leNat ((pkt.drop off).take n)

/-- n bytes of a packet at an offset; bytes beyond its end are zero. -/
def pkBytes (pkt : Packet) (off n : Nat) : List Byte :=
  let l := (pkt.drop off).take n
  l ++ List.replicate (n - l.length) 0#8

/-- A parameter field: offset into the first parameter unit. -/
def par (pkt : Packet) (off n : Nat) : Nat := pkField pkt (64 + off) n

/-- Header fields (Table 15.6). -/
def pkOpcode (pkt : Packet) : Nat := pkField pkt 0 2
def pkVersion (pkt : Packet) : Nat := pkField pkt 2 1
def pkFlags (pkt : Packet) : Nat := pkField pkt 3 1
def pkSeq (pkt : Packet) : BitVec 32 := BitVec.ofNat 32 (pkField pkt 4 4)
def pkLen (pkt : Packet) : Nat := pkField pkt 8 2
def pkTag (pkt : Packet) : W64 := BitVec.ofNat 64 (pkField pkt 16 8)

/-- OVERRIDE and NOINT. -/
def pkOverride (pkt : Packet) : Bool := (pkFlags pkt).testBit 0
def pkNoint (pkt : Packet) : Bool := (pkFlags pkt).testBit 1

/-- A reserved header field is not zero. -/
def pkReserved (pkt : Packet) : Bool :=
  pkFlags pkt ≥ 4 || pkField pkt 10 6 != 0 || !allZero (pkBytes pkt 24 40)

/-- One row of Table 15.8: version since, admin ring only, parameter units, parameter bytes assigned
(offset, size). -/
structure OpInfo where
  since : Nat
  admin : Bool
  units : Nat
  fields : List (Nat × Nat)
deriving DecidableEq, Repr

/-- Table 15.8, with FW_STAGE and FW_COMMIT of R440 and R441; none for a reserved opcode. The units of
OXBOW_POLICY depend on OP. -/
def opInfo (pkt : Packet) : Option OpInfo :=
  match pkOpcode pkt with
  | 0x0001 => some ⟨0x10, true, 1, [(0, 2)]⟩
  | 0x0002 => some ⟨0x10, true, 1, [(0, 12)]⟩
  | 0x0010 => some ⟨0x10, false, 1, [(0, 8)]⟩
  | 0x0011 => some ⟨0x10, false, 1, [(0, 1), (8, 12)]⟩
  | 0x0012 => some ⟨0x10, false, 1, [(0, 1)]⟩
  | 0x0013 => some ⟨0x10, false, 1, [(0, 1)]⟩
  | 0x0020 => some ⟨0x10, false, 1, [(0, 3), (4, 24), (0x20, 16)]⟩
  | 0x0021 => some ⟨0x10, false, 1, [(0, 1), (4, 2)]⟩
  | 0x0030 => some ⟨0x10, true, 1, [(0, 12)]⟩
  | 0x0031 => some ⟨0x10, true, 2, [(0, 2), (8, 16), (0x20, 64)]⟩
  | 0x0032 => some ⟨0x10, true, 1, [(0, 1)]⟩
  | 0x0040 =>
    if par pkt 0 1 = 0 then some ⟨0x10, true, 10, [(0, 20), (0x18, 28), (0x40, 32), (0x80, 512)]⟩
    else some ⟨0x10, true, 1, [(0, 1), (0x14, 4)]⟩
  | 0x0041 => some ⟨0x10, false, 1, [(0, 1)]⟩
  | 0x0042 => some ⟨0x10, true, 1, [(0, 6), (8, 44)]⟩
  | 0x0043 => some ⟨0x13, true, 1, [(0, 8)]⟩
  | 0x0050 => some ⟨0x11, true, 1, [(0, 1), (8, 16)]⟩
  | 0x0060 => some ⟨0x10, true, 1, [(0, 12)]⟩
  | 0x0061 => some ⟨0x10, true, 1, [(0, 2), (4, 4)]⟩
  | 0x0070 => some ⟨0x10, true, 1, [(0, 2), (8, 12)]⟩
  | 0x0071 => some ⟨0x10, true, 1, [(0, 6)]⟩
  | 0x0072 => some ⟨0x10, true, 2, [(0, 128)]⟩
  | 0x0073 => some ⟨0x10, true, 3, [(0, 129)]⟩
  | 0x0074 => some ⟨0x13, true, 1, [(0, 3), (4, 2)]⟩
  | 0x0080 => some ⟨0x12, true, 1, [(0, 2)]⟩
  | 0x0081 => some ⟨0x12, true, 1, [(0, 1)]⟩
  | 0x0090 => some ⟨0x10, false, 1, [(0, 1), (2, 2), (8, 12)]⟩
  | 0x00B0 => some ⟨0x13, true, 0, []⟩
  | 0x00C0 => some ⟨0x10, true, 1, [(0, 1)]⟩
  | _ => none

/-- Every parameter byte no field covers is zero (R388, R8). -/
def parClean (pkt : Packet) (units : Nat) (fields : List (Nat × Nat)) : Bool :=
  ((pkt.drop 64).take (units * 64)).zipIdx.all (fun x =>
    x.1 == 0#8 || fields.any (fun f => decide (f.1 ≤ x.2) && decide (x.2 < f.1 + f.2)))

/-- The long operation holds this ring (R395). -/
def ringHeld (d : Dev) (ring : Nat) : Bool :=
  match d.host.longOp with
  | none => false
  | some (_, .restore _) => true
  | some (_, .secureErase) => true
  | some _ => ring == 8

/-- In recovery only these opcodes are accepted (R439). -/
def recoveryOp (op : Nat) : Bool := op == 1 || op == 2 || op == 0x60 || op == 0x61 || op == 0x90

/-- The checks of R389 in order; none when all pass. -/
def takeChecks (d : Dev) (ring : Nat) (pkt : Packet) : Option Nat :=
  let op := pkOpcode pkt
  let free := op == 1 || op == 2
  if ringHeld d ring then some stBusy
  else if d.host.yenelVer == 0#8 && !free then some stVersion
  else
    match opInfo pkt with
    | none => some stBadOpcode
    | some i =>
      if (i.admin && ring != 8) || (d.fw.recovery && !recoveryOp op) then some stBadOpcode
      else if !free && (pkVersion pkt / 16 != 1 || pkVersion pkt > d.host.yenelVer.toNat || pkVersion pkt < i.since) then
        some stVersion
      else if pkLen pkt != i.units || pkReserved pkt || (pkOverride pkt && op != 0x10) then some stBadParam
      else if !parClean pkt i.units i.fields then some stBadParam
      else none

/-- Slots a packet occupies (R389). -/
def pkSlots (pkt : Packet) : Nat := if pkLen pkt > 63 then 1 else 1 + pkLen pkt

/-- The device can take the packet at the head of the ring: all its slots lie before the last tail, the
ring's previous packet has started, and the completion ring has an entry that nothing has reserved (R385,
R386). (DEDUCED: LOG 18.) -/
def canTake (p : Plat) (d : Dev) (ring : Nat) (pkt : Packet) : Bool :=
  let r := ringAt d ring
  let c := ringAt d (ring + 9)
  p.serving && decide (ring ≤ 8) && r.enable && decide (pkSlots pkt ≤ r.used) && !r.blocked &&
    c.enable && decide (c.used + c.reserved + 1 < c.size)

/-- A number that no outstanding packet has. -/
def freshId (h : HostIf) : Nat := h.taken.foldl (fun a t => max a (t.id + 1)) h.nextId

/-- Take the packet: HEAD passes its slots, an entry is reserved, it is outstanding (R386). The answer is
the number it got. -/
def takeIt (ring : Nat) (pkt : Packet) (d : Dev) : Nat × Dev :=
  let id := freshId d.host
  let t : Taken := { id := id, ring := ring, seq := pkSeq pkt, tag := pkTag pkt, noint := pkNoint pkt }
  (id, onHost (fun h => { h with taken := h.taken ++ [t], nextId := id + 1 })
    (modRing (ring + 9) (fun c => { c with reserved := c.reserved + 1 })
      (modRing ring (fun r => { r with head := (r.head + pkSlots pkt) % r.size }) d)))

/-- Take a packet of one command: turned away when it is not that command's or cannot be taken; refused by R389;
otherwise the command's own effect, which is given the packet's number. (DESIGN CHOICE: LOG 3.) -/
def takePacket (ring : Nat) (pkt : Packet) (mine : Bool) (run : Nat → Dev → Dev) (p : Plat) (d : Dev) : Dev :=
  if mine && canTake p d ring pkt then
    let t := takeIt ring pkt d
    match takeChecks d ring pkt with
    | some st => complete p.now t.1 st 0 t.2
    | none => run t.1 t.2
  else d

/-- A command that ends at once with a status and DETAIL. -/
def finish (now id : Nat) (r : Nat × Nat × Dev) : Dev := complete now id r.1 r.2.1 r.2.2

/-- Write a record to host memory (R392). -/
def hostWrite (addr : Nat) (data : List Byte) (d : Dev) : Dev := hostOut (.write (BitVec.ofNat 64 addr) data) d

end Sys2Proof.Machine
end

