-- ==== Sys2Proof/Machine/Flags.lean ====
section
/-! DEFINITION. Flags: TFLAGS and VFLAGS (R56, R148), the flags of a task and the status they give (R149, R248, R271, R329). -/

namespace Sys2Proof.Machine

/-- TFLAGS bits that make a status OK_WITH_FLAGS: all but INEXACT, SCALE_MISS and SKEW (Table 6.6). -/
def statusMask : Flags := fInvalid ||| fOverflow ||| fUnderflow ||| fFlushed ||| fLongsum ||| fQuireOvf

/-- VFLAGS (Table 8.9) from value flags and DIVZERO. -/
def vflagsOf (f : Flags) (divzero : Bool) : BitVec 5 :=
  (if (f &&& fInvalid) != 0#9 then 1#5 else 0#5) ||| (if divzero then 2#5 else 0#5) |||
    (if (f &&& fOverflow) != 0#9 then 4#5 else 0#5) ||| (if (f &&& fUnderflow) != 0#9 then 8#5 else 0#5) |||
    (if (f &&& fInexact) != 0#9 then 16#5 else 0#5)

/-- A tile after a vector operation raised flags: VFLAGS, and TFLAGS with DIVZERO as OVERFLOW (R56). -/
def raiseV (f : Flags) (divzero : Bool) (t : Tile) : Tile :=
  { t with vflags := t.vflags ||| vflagsOf f divzero, tflags := t.tflags ||| f ||| flagIf divzero fOverflow }

/-- A tile after another unit raised flags. -/
def raiseT (f : Flags) (t : Tile) : Tile := { t with tflags := t.tflags ||| f }

/-- Status of a task by its flags alone (Table 6.6, orders 4 to 7; R248, R271, R329): DETAIL holds the flags. -/
def statusOfFlags (f : Flags) : Nat :=
  if (f &&& fSkew) != 0#9 then stSkew
  else if (f &&& fScaleMiss) != 0#9 then stMiss
  else if (f &&& statusMask) != 0#9 then stOkFlags else stOk

end Sys2Proof.Machine
end

