-- ==== Sys2Proof/Machine/Operands.lean ====
section
/-! DEFINITION. Operands of tile programs (08): the Numeric Control Word, the fields of instruction words, effective
addresses, counted loops, feeder streams, and the checks of a program at GRAPH_LOAD. -/

namespace Sys2Proof.Machine

/-! ### The Numeric Control Word (R189, Table 8.11) -/

/-- One operand's fields of the NCW. -/
structure Side where
  fmt : Nat
  sign : Bool
  blk : Nat
  dirOut : Bool
deriving DecidableEq, Repr

/-- The fields of a Numeric Control Word. -/
structure Ncw where
  mode : Nat
  chunk : Nat
  passes : Nat
  subflush : Bool
  e4m3Sat : Bool
  policy : Nat
  hist : Bool
  rmax : Bool
  a : Side
  b : Side
  fmtOut : Nat
  miss : Nat
deriving DecidableEq, Repr

/-- Reading an NCW. -/
def ncwOf (w : W64) : Ncw :=
  { mode := fld w 1 0, chunk := fld w 7 2, passes := fld w 9 8, subflush := bit w 10, e4m3Sat := bit w 11,
    policy := fld w 13 12, hist := bit w 14, rmax := bit w 15,
    a := ⟨fld w 19 16, bit w 24, fld w 33 30, bit w 38⟩, b := ⟨fld w 23 20, bit w 25, fld w 37 34, bit w 39⟩,
    fmtOut := fld w 29 26, miss := fld w 47 40 }

/-- The operand of a feeder side: 0 row feeder, A; 1 column feeder, B (R90). -/
def Ncw.side (n : Ncw) (s : Nat) : Side := if s = 0 then n.a else n.b

/-- Chunk length in groups (R111). -/
def Ncw.chunkLen (n : Ncw) : Nat := if n.chunk = 0 then 64 else n.chunk

/-- Rounding options of the tile paths. -/
def Ncw.opts (n : Ncw) : RndOpts := { e4m3Sat := n.e4m3Sat, subflush := n.subflush }

/-- Scale kinds (Table 3.1). -/
inductive ScaleKind where
  | none | pow2 | asym
deriving DecidableEq, Repr

/-- Kind of a BLKSZ code; none for reserved. -/
def scaleKind (c : Nat) : Option ScaleKind :=
  if c = 0 then some .none else if 1 ≤ c ∧ c ≤ 6 then some .pow2 else if 9 ≤ c ∧ c ≤ 14 then some .asym else none

/-- Block size of a BLKSZ code. -/
def blockSize (c : Nat) : Nat := if c ≥ 9 then 2 ^ (c - 6) else 2 ^ (c + 2)

/-- Size of a scale entry in bytes (Table 3.3). -/
def entryBytes (c : Nat) : Nat := if c ≥ 9 then 4 else 2

/-- The operand carries scales. -/
def Side.scaled (s : Side) : Bool := s.blk != 0

/-- The 4-bit code format. -/
def isCode (f : Nat) : Bool := f == 0xA

/-- The format a code names, posit8 for a code that names none. -/
def fmtOf (c : Nat) : Fmt := (Fmt.ofCode c).getD .posit8

/-- Size in bytes of a stored element of a format code. -/
def elemBytes (c : Nat) : Nat := fmtBytes (fmtOf c)

/-- K-elements per group, group period in cycles, and quire width in bits (0: FP32 form) of the accepted pairings (R93, R94,
R95, Tables 4.2 to 4.4); none for a refused one. -/
def pairing (n : Ncw) : Option (Nat × Nat × Nat) :=
  let a := n.a.fmt
  let b := n.b.fmt
  let m := n.mode
  let eight (x : Nat) : Bool := x == 0 || x == 3 || x == 4 || x == 9
  let six (x : Nat) : Bool := x == 1 || x == 5
  let wide (x : Nat) : Bool := x == 2 || x == 7
  let ans (k p w : Nat) : Option (Nat × Nat × Nat) := some (k, if m = 2 then 2 * p else p, if m = 0 then 0 else w)
  if m = 3 then none
  else if n.passes = 0 then
    if eight a && eight b then ans 4 1 128
    else if (isCode a && eight b) || (eight a && isCode b) then ans 8 1 128
    else if six a && six b then ans 4 4 256
    else if a == 6 && b == 6 && m ≤ 1 then ans 4 4 512
    else if a == 2 && b == 2 then ans 4 16 512
    else if a == 7 && b == 7 && m ≤ 1 then ans 4 16 512
    else none
  else if wide a && wide b && m ≥ 1 then ans 4 (if n.passes = 1 then 4 else if n.passes = 2 then 12 else 16) 512
  else none

/-- Group length. -/
def Ncw.glen (n : Ncw) : Nat := match pairing n with | some (k, _, _) => k | none => 4

/-- Group period. -/
def Ncw.period (n : Ncw) : Nat := match pairing n with | some (_, p, _) => p | none => 1

/-- Quire width of the task's slots; 0 in FP32 form. -/
def Ncw.qwidth (n : Ncw) : Nat := match pairing n with | some (_, _, w) => w | none => 0

/-- Slot indices a slot occupies (R95). -/
def Ncw.span (n : Ncw) : Nat := if n.qwidth = 256 then 2 else if n.qwidth = 512 then 4 else 1

/-- The scale kind of an operand is accepted (R59, R60, R61). -/
def sideOk (s : Side) : Bool :=
  match scaleKind s.blk with
  | none => false
  | some .none => !s.dirOut
  | some .pow2 => true
  | some .asym => s.dirOut && s.fmt == 9

/-- FMT_OUT codes (Table 2.2). -/
def outFmtOk (c : Nat) : Bool := decide (c ≤ 7) || c == 9 || c == 0xB

/-- The checks of an NCW at GRAPH_LOAD (R8, R31, R59 to R61, R93, R142, R143, R190). -/
def ncwOk (w : W64) (arrayTask : Bool) : Bool :=
  let n := ncwOf w
  fld w 63 48 == 0 && decide (n.miss ≤ 6) && n.policy != 3 &&
    (!arrayTask ||
      ((pairing n).isSome && sideOk n.a && sideOk n.b && outFmtOk n.fmtOut && (!n.a.sign || n.a.fmt == 9) &&
        (!n.b.sign || n.b.fmt == 9)))

/-! ### Instruction words (R175, Table 8.1) -/

/-- A word of an instruction. -/
def wd (ws : List W64) (i : Nat) : W64 := ws.getD i 0#64

/-- Opcode. -/
def opOf (w : W64) : Nat := fld w 63 56

/-- Words of an instruction; none for a reserved opcode. -/
def opWords : Nat → Option Nat
  | 0x10 => some 2 | 0x11 => some 1 | 0x20 => some 1 | 0x21 => some 2 | 0x30 => some 4 | 0x40 => some 1
  | 0x50 => some 2 | 0x60 => some 2 | 0x70 => some 3 | 0x80 => some 1 | 0x90 => some 3 | 0xA0 => some 1
  | 0xA1 => some 1 | 0xA2 => some 1 | 0xB0 => some 1 | 0xFF => some 1 | _ => none

/-- Only bits of the listed fields (hi, lo) may be set (R8, R176). -/
def onlyFields (w : W64) (l : List (Nat × Nat)) : Bool :=
  (List.range 64).all (fun i => !bit w i || l.any (fun f => decide (f.2 ≤ i) && decide (i ≤ f.1)))

/-- A 9-bit signed field. -/
def signed9 (v : Nat) : Int := signedField 9 v

/-! Fields used in more than one place (Tables 8.2 to 8.13). -/

def feedSrc (w : W64) : Nat := fld w 52 50
def feedTrans (w : W64) : Bool := bit w 49
def feedSide (w : W64) : Nat := fld w 48 48
def feedArr (w : W64) : Nat := fld w 47 47
def mmaArr (w : W64) : Nat := fld w 52 52
def mmaInit (w : W64) : Bool := bit w 51
def mmaSlot (w : W64) : Nat := fld w 50 47
def mmaKcnt (w : W64) : Nat := fld w 37 18
def drArr (w : W64) : Nat := fld w 52 52
def drSlot (w : W64) : Nat := fld w 51 48
def drBias (w : W64) : Nat := fld w 45 44
def qSub (w : W64) : Nat := fld w 52 50
def qArrD (w : W64) : Nat := fld w 49 49
def qSlotD (w : W64) : Nat := fld w 48 45
def qArrS (w : W64) : Nat := fld w 44 44
def qSlotS (w : W64) : Nat := fld w 43 40
def qAmt (w : W64) : Nat := fld w 39 31
def qFmt (w : W64) : Nat := fld w 30 27
def qBit (w : W64) : Bool := bit w 8
def vOp (w : W64) : Nat := fld w 52 47
def vFmt (w : W64) : Nat := fld w 46 43
def vRnd (w : W64) : Nat := fld w 42 41
def vAway (w : W64) : Bool := bit w 40
def vLen (w1 : W64) : Nat := fld w1 27 16
def vFmt2 (w1 : W64) : Nat := fld w1 15 12
def vSign (w1 : W64) : Bool := bit w1 11
def vReg (w1 : W64) : Nat := fld w1 10 3
def rOp (w : W64) : Nat := fld w 52 50
def rCtx (w : W64) : Nat := fld w 49 48
def rB (w : W64) : Nat := fld w 47 39
def rFmt1 (w1 : W64) : Nat := fld w1 63 60
def rFmt2 (w1 : W64) : Nat := fld w1 59 56
def rGfmt (w1 : W64) : Nat := fld w1 55 52
def rSign (w1 : W64) : Bool := bit w1 51
def rMode (w1 : W64) : Bool := bit w1 50
def rMask (w1 : W64) : Nat := fld w1 48 47
def rSlot (w1 : W64) : Nat := fld w1 46 43
def rCount (w1 : W64) : Nat := fld w1 42 38
def rArg (w1 : W64) : Nat := fld w1 31 0
def rStride (w2 : W64) : Nat := fld w2 25 14
def dmaDir (w : W64) : Nat := fld w 52 50
def dmaNbr (w : W64) : Nat := fld w 49 47
def dmaRtype (w : W64) : Nat := fld w 46 43
def dmaHint (w : W64) : Nat := fld w 42 41
def dmaToken (w : W64) : Nat := fld w 22 17
def dmaNbsel (w : W64) : Nat := fld w 16 15
def dmaNaddr (w1 : W64) : Nat := fld w1 63 24
def dmaLen (w2 : W64) : Nat := fld w2 63 46
def syncOp (w : W64) : Nat := fld w 52 51
def syncTgt (w : W64) : Nat := fld w 50 48
def syncTok (w : W64) : Nat := fld w 47 43
def syncCount (w : W64) : Nat := fld w 42 27

/-! ### Address registers and effective addresses (R177) -/

/-- A register by its code: 0 to 7 LB0 to LB7, 8 to 11 NB0 to NB3; LB0 and NB0 read zero. -/
def regRead (r : Table Nat) (c : Nat) : Nat := if c = 0 ∨ c = 8 then 0 else tget 0 r c

/-- Write a register: 18 bits for LB, 40 for NB; LB0 and NB0 keep reading zero. -/
def regWrite (r : Table Nat) (c v : Nat) : Table Nat :=
  if c = 0 ∨ c = 8 then r else tset 0 r c (v % 2 ^ (if c < 8 then 18 else 40))

/-- Effective local address of a field. -/
def localAddr (r : Table Nat) (w : W64) (field : Nat) : Nat := (regRead r (fld w 55 53) + field) % 2 ^ 18

/-- Effective near-tier address of a field. -/
def nearAddr (r : Table Nat) (nbsel field : Nat) : Nat := (regRead r (8 + nbsel) + field) % 2 ^ 40

/-- ARSET and ARADD (Table 8.2). -/
def arWrite (r : Table Nat) (w : W64) : Table Nat :=
  let c := fld w 52 49
  let imm := fld w 47 8
  if opOf w = 0xA1 then regWrite r c imm
  else regWrite r c ((((regRead r c : Nat) : Int) + signedField 40 imm) % 2 ^ 40).toNat

/-! ### Counted loops (R203) -/

/-- Leave the bodies that end at a word, or return to their first word. -/
def loopNext : List (Nat × Nat × Nat) → Nat → Nat × List (Nat × Nat × Nat)
  | [], pc => (pc, [])
  | (first, stop, left) :: ls, pc =>
    if pc = stop then (if left > 1 then (first, (first, stop, left - 1) :: ls) else loopNext ls pc)
    else (pc, (first, stop, left) :: ls)

/-- The sequencer after an instruction of n words at pc; LOOP enters its body. -/
def seqNext (w : W64) (n pc : Nat) (loops : List (Nat × Nat × Nat)) : Nat × List (Nat × Nat × Nat) :=
  if opOf w = 0xA0 then (pc + 1, (pc + 1, pc + 1 + fld w 36 25, fld w 52 37) :: loops)
  else loopNext loops (pc + n)

/-! ### Feeder streams (R178 to R180) -/

/-- A feeder by array and side. -/
def feederKey (arr side : Nat) : Nat := 2 * arr + side

/-- FEED sets the pending data stream. -/
def feedStream (r : Table Nat) (ws : List W64) : DataStream :=
  let w := wd ws 0
  { src := feedSrc w, trans := feedTrans w, addr := localAddr r w (fld w 46 29), stride := fld w 28 17,
    koff := fld (wd ws 1) 63 32, oidx := fld (wd ws 1) 31 16 }

/-- FEEDS sets the pending scale stream. -/
def feedsStream (r : Table Nat) (w : W64) : ScaleStream :=
  { src := feedSrc w, addr := localAddr r w (fld w 46 29), stride := fld w 28 17 }

/-- The data stream an MMA takes: pending, else the active one where it stands. -/
def Feeder.data (f : Feeder) : Option DataStream := match f.pendD with | some d => some d | none => f.actD

/-- The scale stream an MMA takes. -/
def Feeder.scale (f : Feeder) : Option ScaleStream := match f.pendS with | some d => some d | none => f.actS

/-- The entry number of the first data element of a pass of an along-K stream (R180): entry 0 of a new stream; the entry
read last while the K block is the same; else the next. -/
def ScaleStream.first (s : ScaleStream) (b k0 : Nat) : Nat :=
  match s.last with
  | none => 0
  | some (n, kl) => if k0 / b = kl / b then n else n + 1

/-- The entry number that data element with absolute K index k meets, in a pass whose first element is k0. -/
def ScaleStream.entry (s : ScaleStream) (b k0 k : Nat) : Nat := s.first b k0 + (k / b - k0 / b)

/-- A feeder after an MMA of kcnt elements took its streams. -/
def Feeder.taken (f : Feeder) (side : Side) (kcnt : Nat) : Feeder :=
  match f.data with
  | none => f
  | some d =>
    let d' := { d with pos := d.pos + kcnt }
    let k0 := d.koff + d.pos
    let kl := k0 + kcnt - 1
    let f' := { f with pendD := none, actD := some d' }
    if side.scaled then
      match f.scale with
      | none => f'
      | some s =>
        let s' := if side.dirOut then s else { s with last := some (s.entry (blockSize side.blk) k0 kl, kl) }
        { f' with pendS := none, actS := some s' }
    else f'

/-- The bytes a pass of kcnt elements reads from a data stream (R178): one range a line in stored order, one for all in
transposed order. -/
def dataRanges (fmt : Nat) (d : DataStream) (kcnt : Nat) : List (Nat × Nat) :=
  let bits := fmtBits (fmtOf fmt)
  if d.trans then [(d.addr + 8 * d.stride * d.pos, 8 * d.stride * (kcnt - 1) + bits)]
  else (List.range 8).map (fun l =>
    let lo := d.pos * bits / 8
    (d.addr + 8 * d.stride * l + lo, (bits * (d.pos + kcnt) + 7) / 8 - lo))

/-- Address of the n-th entry of line l, along K (R179). -/
def scaleAddrK (blk : Nat) (s : ScaleStream) (l n : Nat) : Nat := s.addr + entryBytes blk * (s.stride * l + n)

/-- Address of line l's entry, along the output dimension (R179). -/
def scaleAddrO (blk : Nat) (s : ScaleStream) (oidx l : Nat) : Nat :=
  s.addr + entryBytes blk * ((oidx + l) / blockSize blk - oidx / blockSize blk)

/-- The bytes a pass reads from a scale stream. -/
def scaleRanges (side : Side) (s : ScaleStream) (d : DataStream) (kcnt : Nat) : List (Nat × Nat) :=
  let b := blockSize side.blk
  let es := entryBytes side.blk
  if side.dirOut then [(s.addr, es * ((d.oidx + 7) / b - d.oidx / b + 1))]
  else
    let k0 := d.koff + d.pos
    let n0 := s.first b k0
    let n1 := s.entry b k0 (k0 + kcnt - 1)
    (List.range 8).map (fun l => (scaleAddrK side.blk s l n0, es * (n1 - n0 + 1)))

/-- SRAM size (R191). -/
def sramBytes : Nat := 196608

/-- A range lies within local SRAM. -/
def inSram (r : Nat × Nat) : Bool := decide (r.1 + r.2 ≤ sramBytes) && decide (r.1 < sramBytes)

/-- The streams an MMA on an array needs are there and stay within SRAM (R171, R180). -/
def streamsOk (n : Ncw) (feed : Table Feeder) (arr kcnt : Nat) : Bool :=
  [0, 1].all (fun s =>
    let f := tget {} feed (feederKey arr s)
    let sd := n.side s
    match f.data with
    | none => false
    | some d => (dataRanges sd.fmt d kcnt).all inSram &&
        (!sd.scaled || match f.scale with | none => false | some sc => (scaleRanges sd sc d kcnt).all inSram))

/-- Both feeders of an array after an MMA took its streams. -/
def takeStreams (n : Ncw) (feed : Table Feeder) (arr kcnt : Nat) : Table Feeder :=
  [0, 1].foldl (fun t s => tmod {} t (feederKey arr s) (fun f => f.taken (n.side s) kcnt)) feed

/-! ### Local memory operands: (write, address, length, alignment) -/

/-- A local memory operand. -/
structure Access where
  wr : Bool
  addr : Nat
  len : Nat
  align : Nat
deriving DecidableEq, Repr

/-- Sources of a vector operation: s1, s2, s3 (Table 8.8). -/
def vecSources (op : Nat) : Option (Bool × Bool × Bool) :=
  match op with
  | 0x00 | 0x01 | 0x02 | 0x04 | 0x06 | 0x07 | 0x0A | 0x0B | 0x0C => some (true, true, false)
  | 0x03 => some (true, true, true)
  | 0x05 | 0x08 | 0x09 | 0x0E | 0x0F | 0x10 | 0x11 | 0x12 | 0x18 => some (true, false, false)
  | 0x0D => some (true, true, true)
  | 0x13 | 0x14 | 0x15 | 0x16 | 0x17 => some (true, true, false)
  | 0x20 | 0x21 => some (false, false, false)
  | _ => none

/-- Bytes of an RDREG image (Table 8.9); 0 for a reserved selector. -/
def rdregBytes (r : Nat) : Nat :=
  if r < 4 then 4 else if r = 4 then 264 else if 0x10 ≤ r ∧ r ≤ 0x13 then 1296 else 0

/-- The local memory operands of a vector instruction. -/
def vecAccess (r : Table Nat) (ws : List W64) : List Access :=
  let w := wd ws 0
  let w1 := wd ws 1
  let op := vOp w
  let la (f : Nat) : Nat := localAddr r w f
  let dst := la (fld w 39 22)
  if op = 0x21 then []
  else if op = 0x20 then [⟨true, dst, rdregBytes (vReg w1), 4⟩]
  else
    let s := elemBytes (vFmt w)
    let n := vLen w1
    let d := if op = 0x0E then elemBytes (vFmt2 w1) else if 0x0A ≤ op ∧ op ≤ 0x0C then 1 else s
    let src (use : Bool) (f e : Nat) : List Access :=
      if use then [⟨false, la f, if op = 0x18 then e else n * e, e⟩] else []
    match vecSources op with
    | none => []
    | some (a, b, c) =>
      ⟨true, dst, if 0x0F ≤ op ∧ op ≤ 0x12 then d else n * d, d⟩ ::
        (src a (fld w 21 4) s ++ src b (fld w1 63 46) s ++ src c (fld w1 45 28) (if op = 0x0D then 1 else s))

/-- The local memory operands of an instruction; those of feeder streams are apart. -/
def accesses (n : Ncw) (r : Table Nat) (ws : List W64) : List Access :=
  let w := wd ws 0
  let w1 := wd ws 1
  let w2 := wd ws 2
  let la (f : Nat) : Nat := localAddr r w f
  match opOf w with
  | 0x21 => let s := elemBytes (fld w1 61 58); [⟨false, la (fld w1 57 40), 8 * s, s⟩]
  | 0x30 =>
    let s := elemBytes n.fmtOut
    let bs := elemBytes (fld w 43 40)
    [⟨true, la (fld w 28 11), 56 * fld w2 11 0 + 8 * s, s⟩] ++
      (if drBias w != 0 then [⟨false, la (fld w2 63 46), 8 * bs, bs⟩] else []) ++
      (if bit w 38 then [⟨true, la (fld w2 45 28), 2, 2⟩] else []) ++
      (if n.rmax then [⟨true, la (fld (wd ws 3) 63 46), 32, 4⟩] else [])
  | 0x40 =>
    let q := n.qwidth / 8
    let q' := if qBit w then 64 else q
    let s := elemBytes (qFmt w)
    match qSub w with
    | 2 => [⟨false, la (fld w 26 9), 64 * q, q⟩]
    | 3 => [⟨true, la (fld w 26 9), 64 * q', q'⟩]
    | 4 => [⟨true, la (fld w 26 9), 64 * s, s⟩]
    | _ => []
  | 0x50 => vecAccess r ws
  | 0x60 =>
    let i := elemBytes (fld w 48 45)
    let o := elemBytes (fld w 44 41)
    [⟨true, la (fld w 40 23), fld w1 63 48 * o, o⟩, ⟨false, la (fld w 22 5), fld w1 63 48 * i, i⟩]
  | 0x70 =>
    let rows := 56 * rStride w2
    let s1 := elemBytes (rFmt1 w1)
    let s2 := elemBytes (rFmt2 w1)
    let sg := elemBytes (rGfmt w1)
    let src : Access := ⟨false, la (fld w 38 21), rows + rB w * s1, s1⟩
    let dst (k : Nat) : Access := ⟨true, la (fld w 20 3), rows + k * s2, s2⟩
    match rOp w with
    | 1 => [src]
    | 2 => [src, dst (rB w)]
    | 4 => [dst 8]
    | 5 => [src]
    | 6 => [⟨true, la (fld w 20 3), 128, 16⟩]
    | 7 => [src, dst (rB w)] ++ (if bit w2 27 then [⟨false, la (fld w2 63 46), rB w * sg, sg⟩] else []) ++
        (if bit w2 26 then [⟨false, la (fld w2 45 28), rB w * sg, sg⟩] else [])
    | _ => []
  | 0x80 => [⟨false, la (fld w 46 29), 128, 8⟩]
  | 0x90 =>
    let al := if dmaDir w = 2 then (match dmaRtype w with | 0 => 4 | 1 => 8 | 2 => 4 | 3 => 2 | 4 => 2 | 5 => 4 | _ => 64) else 8
    [⟨dmaDir w == 0, la (fld w 40 23), dmaLen w2, al⟩]
  | _ => []

/-! ### Occupancy and last write (R94, R151, R167, R195, Tables 7.2, 7.5, 8.12) -/

/-- Results a cycle of an SFU function into an output format. -/
def sfuRate (fn f : Nat) : Nat :=
  let r := if fn ≤ 6 then 64 else if fn ≤ 8 then 32 else 16
  if fmtBits (fmtOf f) = 32 then r / 2 else r

/-- O and L of a ROW operation. -/
def rowTime (ws : List W64) : Nat × Nat :=
  let b := cdiv (rB (wd ws 0)) 8
  match rOp (wd ws 0) with
  | 0 => (1, 0) | 1 => (b, 4) | 2 => (b, 8) | 3 => (2 * rCount (wd ws 1), 1) | 4 => (8, 12) | 5 => (b, 4) | 6 => (24, 0)
  | _ => (b, 10)

/-- Occupancy and last write of a vector instruction. -/
def vecTime (ws : List W64) : Nat × Nat :=
  let op := vOp (wd ws 0)
  if op = 0x21 then (1, 1)
  else if op = 0x20 then let o := cdiv (rdregBytes (vReg (wd ws 1))) 64; (o, o + 2)
  else
    let r := 64 / elemBytes (vFmt (wd ws 0))
    if op = 0x04 ∨ op = 0x05 then let o := cdiv (4 * vLen (wd ws 1)) r; (o, o + 16)
    else let o := cdiv (vLen (wd ws 1)) r; (o, o + 6)

/-- A QOP moves images of 64 bytes: 16 cycles. -/
def qopWide (n : Ncw) (w : W64) : Bool := (2 ≤ qSub w && n.qwidth == 512) || (qSub w == 3 && qBit w)

/-- Occupancy and last write of a QOP. (DESIGN CHOICE: LOG 7.) -/
def qopTime (n : Ncw) (ws : List W64) : Nat × Nat :=
  let w := wd ws 0
  if qSub w ≤ 1 then (8, 9) else if qopWide n w then (16, 18) else (8, 10)

/-- The units an instruction uses, with the cycles it occupies each. -/
def unitUse (n : Ncw) (ws : List W64) : List (Nat × Nat) :=
  let w := wd ws 0
  match opOf w with
  | 0x20 => [(4 + mmaArr w, mmaKcnt w / n.glen * n.period)]
  | 0x21 => [(4 + mmaArr w, mmaKcnt w / n.glen * n.period)]
  | 0x40 => [(0, (qopTime n ws).1)]
  | 0x50 => [(1, (vecTime ws).1)]
  | 0x60 => [(2, cdiv (fld (wd ws 1) 63 48) (sfuRate (fld w 52 49) (fld w 44 41)))]
  | 0x70 =>
    let t := rowTime ws
    [(3, t.1), (16 + rCtx w, t.1 + t.2 + 1)] ++ (if rOp w = 2 ∨ rOp w = 6 then [(2, t.1)] else [])
  | _ => []

/-- The unit an instruction runs on and the cycle of its last write, from its issue; none where R195 does not place it. -/
def lastWrite (n : Ncw) (ws : List W64) : Option (Nat × Nat) :=
  let w := wd ws 0
  match opOf w with
  | 0x40 => some (0, (qopTime n ws).2)
  | 0x50 => some (1, (vecTime ws).2)
  | 0x60 => some (2, cdiv (fld (wd ws 1) 63 48) (sfuRate (fld w 52 49) (fld w 44 41)) + 12)
  | 0x70 => some (3, (rowTime ws).1 + (rowTime ws).2)
  | 0x80 => some (10, 8)
  | _ => none

/-! ### The words an instruction asks the banks for (R191, R192) -/

/-- The SRAM words a range touches. -/
def wordsOf (a n : Nat) : List Nat := if n = 0 then [] else upFrom (a / 8) ((a + n - 1) / 8 - a / 8 + 1)

/-- n elements of e bytes from an address, `per` of them in each cycle from an offset on. -/
def wordBatches (a e n per off : Nat) : List (Nat × List Nat) :=
  (List.range (cdiv n (max 1 per))).map (fun b => (off + b, wordsOf (a + e * max 1 per * b) (e * min (max 1 per) (n - max 1 per * b))))

/-- The words a vector instruction asks for: it reads as many elements a cycle as it handles, from the cycle after its issue on, and
writes each as many cycles before its last write as it was read before the last. -/
def vecBatches (r : Table Nat) (ws : List W64) : List (Nat × List Nat) :=
  let op := vOp (wd ws 0)
  let t := vecTime ws
  match vecAccess r ws with
  | [] => []
  | d :: ss =>
    if op = 0x20 then wordBatches d.addr 1 d.len 64 3
    else
      let per := 64 / elemBytes (vFmt (wd ws 0)) / (if op = 0x04 ∨ op = 0x05 then 4 else 1)
      ss.flatMap (fun s => wordBatches s.addr s.align (s.len / s.align) per 1) ++
        (if d.len = d.align then [(t.2, wordsOf d.addr d.len)] else wordBatches d.addr d.align (d.len / d.align) per (1 + t.2 - t.1))

/-- The words of a block of 8 rows of n elements, 8 elements of each row in a cycle. -/
def rowBatches (a stride e n off : Nat) : List (Nat × List Nat) :=
  (List.range 8).flatMap (fun i => wordBatches (a + 8 * stride * i) e n 8 off)

/-- The words an instruction asks the banks for, by the cycles from its issue on (feeders and conversions apart). What Tables 7.2, 7.5 and
8.12 say of rates and last writes places them. (DESIGN CHOICE: LOG 116.) -/
def sramBatches (n : Ncw) (r : Table Nat) (ws : List W64) : List (Nat × List Nat) :=
  let w := wd ws 0
  let w1 := wd ws 1
  let w2 := wd ws 2
  let la (f : Nat) : Nat := localAddr r w f
  match opOf w with
  | 0x21 => [(1, wordsOf (la (fld w1 57 40)) (8 * elemBytes (fld w1 61 58)))]
  | 0x40 =>
    let a := la (fld w 26 9)
    let q := n.qwidth / 8
    let z := if qSub w = 4 then elemBytes (qFmt w) else if qSub w = 3 && qBit w then 64 else q
    let off := if qSub w = 2 then 1 else 3
    if qSub w < 2 then []
    else if qopWide n w then wordBatches a z 64 4 off else wordBatches a z 64 8 off
  | 0x50 => vecBatches r ws
  | 0x60 =>
    let per := sfuRate (fld w 52 49) (fld w 44 41)
    wordBatches (la (fld w 22 5)) (elemBytes (fld w 48 45)) (fld w1 63 48) per 1 ++
      wordBatches (la (fld w 40 23)) (elemBytes (fld w 44 41)) (fld w1 63 48) per 13
  | 0x70 =>
    let src := rowBatches (la (fld w 38 21)) (rStride w2) (elemBytes (rFmt1 w1)) (rB w) 1
    let dst (k off : Nat) : List (Nat × List Nat) := rowBatches (la (fld w 20 3)) (rStride w2) (elemBytes (rFmt2 w1)) k off
    let vec (on : Bool) (f : Nat) : List (Nat × List Nat) := if on then wordBatches (la f) (elemBytes (rGfmt w1)) (rB w) 8 1 else []
    match rOp w with
    | 1 => src
    | 2 => src ++ dst (rB w) 9
    | 4 => (List.range 8).map (fun i => (13 + i, wordsOf (la (fld w 20 3) + 8 * rStride w2 * i) (8 * elemBytes (rFmt2 w1))))
    | 5 => src
    | 6 => (List.range 8).map (fun i => (3 * i + 3, wordsOf (la (fld w 20 3) + 16 * i) 16))
    | 7 => src ++ vec (bit w2 27) (fld w2 63 46) ++ vec (bit w2 26) (fld w2 45 28) ++ dst (rB w) 11
    | _ => []
  | 0x80 => wordBatches (la (fld w 46 29)) 8 16 2 1
  | _ => []

/-- The place of an instruction in the order of R192, and its unit as in Flight. -/
def sramRank (w : W64) : Nat × Nat :=
  (([(0x21, 9, 8), (0x40, 10, 0), (0x70, 11, 3), (0x60, 12, 2), (0x50, 13, 1), (0x80, 14, 10)].find? (fun x => x.1 == opOf w)).map
    (·.2)).getD (15, 9)

/-- The pieces of the operands of an instruction: a block of rows without the gaps of its stride. -/
def pieces (n : Ncw) (r : Table Nat) (ws : List W64) : List Access :=
  let l := accesses n r ws
  if opOf (wd ws 0) != 0x70 then l
  else
    let blocks := [0, 1, 2, 0, 1, 1, 0, 2].getD (rOp (wd ws 0)) 0
    let row := 8 * rStride (wd ws 2)
    l.zipIdx.flatMap (fun a =>
      if a.2 < blocks then (List.range 8).map (fun i => { a.1 with addr := a.1.addr + row * i, len := a.1.len - 7 * row }) else [a.1])

/-- An operand is aligned and lies within SRAM. -/
def Access.ok (a : Access) : Bool := a.addr % a.align == 0 && inSram (a.addr, a.len)

/-! ### The fields of each instruction (R171, R176) -/

/-- Formats of bias vectors (Table 6.1). -/
def biasFmt (c : Nat) : Bool := c == 1 || c == 2 || c == 5 || c == 6 || c == 7

/-- Formats of the SFU, of ROW.DIV and ROW.NORM outputs (R155, R163). -/
def sfuFmt (c : Nat) : Bool := decide (c ≤ 7)

/-- Vector arithmetic formats (Table 2.2). -/
def vecArith (c : Nat) : Bool := c == 0 || c == 1 || c == 2 || c == 5 || c == 6 || c == 7 || c == 8 || c == 9 || c == 0xB

/-- Vector conversion formats (Table 2.2). -/
def vecCvtFmt (c : Nat) : Bool := decide (c ≤ 9) || c == 0xB

/-- Formats for which RND may be set (R185). -/
def rndFmt (c : Nat) : Bool := c == 5 || c == 6 || c == 7 || c == 8

/-- Finite FP32 constants in order: a is not above b, neither is NaN. -/
def clipOrder (lo hi : Nat) : Bool :=
  let a := decode .fp32 true lo
  let b := decode .fp32 true hi
  !numNar a && !numNar b && numCmp a b != .gt

/-- A finite FP32 constant. -/
def finiteFp32 (b : Nat) : Bool := numFinite (decode .fp32 true b)

/-- A finite FP32 constant above zero. -/
def positiveFp32 (b : Nat) : Bool := match decode .fp32 true b with | .fin false _ _ => true | _ => false

/-- A finite FP32 constant not below zero. -/
def nonNegFp32 (b : Nat) : Bool := match decode .fp32 true b with | .fin false _ _ => true | .zero _ => true | _ => false

/-- Fields of a vector instruction (R185, Table 8.7). -/
def vecFieldsOk (ws : List W64) : Bool :=
  let w := wd ws 0
  let w1 := wd ws 1
  let op := vOp w
  match vecSources op with
  | none => false
  | some (a, b, c) =>
    if op = 0x21 then onlyFields w [(63, 56), (52, 47)] && w1 == 0#64
    else if op = 0x20 then
      onlyFields w [(63, 53), (52, 47), (39, 22)] && onlyFields w1 [(10, 3)] && rdregBytes (vReg w1) != 0
    else
      let f := vFmt w
      let f2 := vFmt2 w1
      let cvt := op == 0x0E
      let rnds := decide (op ≤ 5) || cvt || op == 0x11
      let int8 := f == 9 || (cvt && f2 == 9)
      onlyFields w ([(63, 53), (52, 47), (46, 43), (39, 22)] ++ (if rnds then [(42, 41)] else []) ++
          (if cvt then [(40, 40)] else []) ++ (if a then [(21, 4)] else [])) &&
        onlyFields w1 ([(27, 16)] ++ (if b then [(63, 46)] else []) ++ (if c then [(45, 28)] else []) ++
          (if cvt then [(15, 12)] else []) ++ (if int8 then [(11, 11)] else [])) &&
        vLen w1 != 0 &&
        (if cvt then vecCvtFmt f && vecCvtFmt f2 else if 0x13 ≤ op ∧ op ≤ 0x17 then f == 9 || f == 0xB else vecArith f) &&
        (vRnd w == 0 || rndFmt f || (cvt && rndFmt f2)) &&
        (!vAway w || (cvt && (f2 == 9 || f2 == 0xB) && vRnd w == 0))

/-- A vector destination coincides exactly with a source or does not overlap it (R185); `one`: a FILL, whose source vector begins
with the one element that it reads. -/
def vecOverlapOk (one : Bool) (l : List Access) : Bool :=
  match l with
  | [] => true
  | d :: ss => ss.all (fun s =>
      (s.addr == d.addr && (one || s.len == d.len)) || decide (s.addr + s.len ≤ d.addr) || decide (d.addr + d.len ≤ s.addr))

/-- Fields of a ROW instruction (R151 to R161, Table 8.10). -/
def rowFieldsOk (n : Ncw) (ws : List W64) : Bool :=
  let w := wd ws 0
  let w1 := wd ws 1
  let w2 := wd ws 2
  let f1 := rFmt1 w1
  let f2 := rFmt2 w1
  let head := [(63, 53), (52, 50), (49, 48)]
  let bOk := decide (1 ≤ rB w) && decide (rB w ≤ 256)
  let score := f1 == 0 || f1 == 1 || f1 == 2 || f1 == 5 || f1 == 6 || f1 == 7
  let prob := f2 == 0 || f2 == 1 || f2 == 3 || f2 == 4 || f2 == 5 || f2 == 6
  let xf := decide (f1 ≤ 7) || f1 == 9
  let sg : List (Nat × Nat) := if f1 == 9 then [(51, 51)] else []
  match rOp w with
  | 0 => onlyFields w [(63, 56), (52, 50), (49, 48)] && onlyFields w1 [(8, 0)] && w2 == 0#64
  | 1 => onlyFields w (head ++ [(47, 39), (38, 21)]) && onlyFields w1 [(63, 60), (31, 0)] && onlyFields w2 [(25, 14)] &&
      bOk && score && positiveFp32 (rArg w1)
  | 2 => onlyFields w (head ++ [(47, 39), (38, 21), (20, 3)]) && onlyFields w1 [(63, 60), (59, 56), (31, 0)] &&
      onlyFields w2 [(25, 14)] && bOk && score && prob && positiveFp32 (rArg w1)
  | 3 => onlyFields w [(63, 56), (52, 50), (49, 48)] && onlyFields w1 [(48, 47), (46, 43), (42, 38)] && w2 == 0#64 &&
      rMask w1 != 0 && decide (1 ≤ rCount w1) && decide (rCount w1 ≤ 16) && decide (rSlot w1 + rCount w1 ≤ 16) &&
      rSlot w1 % n.span == 0 && rCount w1 % n.span == 0
  | 4 => onlyFields w (head ++ [(20, 3)]) && onlyFields w1 [(59, 56), (49, 49), (48, 47), (46, 43)] &&
      onlyFields w2 [(25, 14)] && sfuFmt f2 && (rMask w1 == 1 || rMask w1 == 2) && rSlot w1 % n.span == 0
  | 5 => onlyFields w (head ++ [(47, 39), (38, 21)]) && onlyFields w1 ([(63, 60)] ++ sg) && onlyFields w2 [(25, 14)] &&
      bOk && xf
  | 6 => onlyFields w (head ++ [(20, 3)]) && onlyFields w1 [(50, 50), (31, 0)] && onlyFields w2 [(25, 14)] &&
      nonNegFp32 (rArg w1)
  | _ =>
    let g := bit w2 27
    let b := bit w2 26
    let gf := rGfmt w1
    onlyFields w (head ++ [(47, 39), (38, 21), (20, 3)]) &&
      onlyFields w1 ([(63, 60), (59, 56), (50, 50)] ++ sg ++ (if g || b then [(55, 52)] else [])) &&
      onlyFields w2 ([(27, 26), (25, 14)] ++ (if g then [(63, 46)] else []) ++ (if b then [(45, 28)] else [])) &&
      bOk && xf && sfuFmt f2 && (!(g || b) || gf == 7 || gf == 6 || gf == 5 || gf == 1)

/-- Fields of a DMA instruction (R200, Table 8.13). -/
def dmaFieldsOk (ws : List W64) : Bool :=
  let w := wd ws 0
  let w1 := wd ws 1
  let w2 := wd ws 2
  let dir := dmaDir w
  let al := if dir = 2 then (match dmaRtype w with | 0 => 4 | 1 => 8 | 2 => 4 | 3 => 2 | 4 => 2 | 5 => 4 | _ => 64) else 8
  decide (dir ≤ 3) &&
    onlyFields w ([(63, 53), (52, 50), (40, 23), (22, 17)] ++ (if dir = 3 then [(49, 47)] else [(42, 41), (16, 15)]) ++
      (if dir = 2 then [(46, 43)] else [])) &&
    onlyFields w1 [(63, 24)] && onlyFields w2 [(63, 46)] &&
    (dir != 2 || decide (dmaRtype w ≤ 6)) &&
    (dir != 3 || (decide (1 ≤ dmaNbr w) && decide (dmaNbr w ≤ 4) && decide (dmaNaddr w1 + dmaLen w2 ≤ sramBytes))) &&
    (decide (dmaToken w ≤ 0x1F) || dmaToken w == 0x3F) &&
    fld w 40 23 % al == 0 && dmaNaddr w1 % al == 0 && dmaLen w2 % al == 0 && dmaLen w2 != 0

/-- Fields of every instruction at GRAPH_LOAD. -/
def fieldsOk (n : Ncw) (ws : List W64) : Bool :=
  let w := wd ws 0
  let w1 := wd ws 1
  match opOf w with
  | 0x10 =>
    let s := n.side (feedSide w)
    onlyFields w [(63, 53), (52, 50), (49, 49), (48, 48), (47, 47), (46, 29), (28, 17)] && onlyFields w1 [(63, 32), (31, 16)] &&
      decide (feedSrc w ≤ 4) && !(feedTrans w && isCode s.fmt) && fld w1 63 32 % n.glen == 0
  | 0x11 =>
    let s := n.side (feedSide w)
    onlyFields w [(63, 53), (52, 50), (48, 48), (47, 47), (46, 29), (28, 17)] && decide (feedSrc w ≤ 4) && s.scaled &&
      !(s.dirOut && fld w 28 17 != 0)
  | 0x20 =>
    onlyFields w ([(63, 56), (52, 52), (51, 51), (50, 47), (37, 18)] ++ (if mmaInit w then [(46, 38)] else [])) &&
      mmaSlot w % n.span == 0 && mmaKcnt w != 0 && mmaKcnt w % n.glen == 0
  | 0x21 =>
    onlyFields w [(63, 53), (52, 52), (51, 51), (50, 47), (46, 38), (37, 18)] && onlyFields w1 [(63, 62), (61, 58), (57, 40)] &&
      mmaInit w && mmaSlot w % n.span == 0 && mmaKcnt w != 0 && mmaKcnt w % n.glen == 0 &&
      (fld w1 63 62 == 1 || fld w1 63 62 == 2) && biasFmt (fld w1 61 58)
  | 0x30 =>
    let w2 := wd ws 2
    let w3 := wd ws 3
    let asym := bit w 46
    let bias := drBias w
    let clip := bit w 39
    let se := bit w 38
    onlyFields w ([(63, 53), (52, 52), (51, 48), (46, 46), (45, 44), (39, 39), (38, 38), (36, 29), (28, 11)] ++
        (if n.fmtOut == 9 then [(47, 47)] else []) ++ (if bias != 0 then [(43, 40)] else []) ++
        (if n.rmax then [(37, 37)] else [])) &&
      onlyFields w1 (if clip then [(63, 0)] else []) &&
      onlyFields w2 ([(11, 0)] ++ (if bias != 0 then [(63, 46)] else []) ++ (if se then [(45, 28), (27, 12)] else [])) &&
      onlyFields w3 ((if n.rmax then [(63, 46)] else []) ++ (if asym then [(45, 30), (29, 22)] else [])) &&
      drSlot w % n.span == 0 && bias != 3 && (bias == 0 || biasFmt (fld w 43 40)) &&
      (!clip || clipOrder (fld w1 63 32) (fld w1 31 0)) &&
      (!asym || (n.fmtOut == 9 && fld w 36 29 == 0 && !se && n.policy != 2)) &&
      decide (elemBytes n.fmtOut ≤ fld w2 11 0)
  | 0x40 =>
    let d := [(63, 56), (52, 50), (49, 49), (48, 45)]
    n.qwidth != 0 && qSlotD w % n.span == 0 &&
    (match qSub w with
      | 0 => onlyFields w (d ++ [(44, 44), (43, 40)]) && qSlotS w % n.span == 0
      | 1 => onlyFields w (d ++ [(39, 31)]) && decide (1 ≤ qAmt w) && decide (qAmt w ≤ 255)
      | 2 => onlyFields w (d ++ [(55, 53), (39, 31), (26, 9)])
      | 3 => onlyFields w (d ++ [(55, 53), (26, 9), (8, 8)])
      | 4 => onlyFields w (d ++ [(55, 53), (30, 27), (26, 9)] ++ (if qFmt w == 9 then [(8, 8)] else [])) && outFmtOk (qFmt w)
      | _ => false)
  | 0x50 => vecFieldsOk ws
  | 0x60 => onlyFields w [(63, 53), (52, 49), (48, 45), (44, 41), (40, 23), (22, 5)] && onlyFields w1 [(63, 48)] &&
      decide (fld w 52 49 ≤ 0xA) && sfuFmt (fld w 48 45) && sfuFmt (fld w 44 41) && fld w1 63 48 != 0
  | 0x70 => rowFieldsOk n ws
  | 0x80 =>
    let f := fld w 51 48
    onlyFields w ([(63, 53), (52, 52), (51, 48), (46, 29)] ++ (if f == 9 then [(47, 47)] else [])) &&
      (f == 0 || f == 3 || f == 4 || f == 9)
  | 0x90 => dmaFieldsOk ws
  | 0xA0 => onlyFields w [(63, 56), (52, 37), (36, 25)] && fld w 52 37 != 0 && fld w 36 25 != 0
  | 0xA1 => onlyFields w [(63, 56), (52, 49), (47, 8)] && (let c := fld w 52 49; (decide (1 ≤ c) && decide (c ≤ 7) &&
      decide (fld w 47 8 < 2 ^ 18)) || (decide (9 ≤ c) && decide (c ≤ 11)))
  | 0xA2 => onlyFields w [(63, 56), (52, 49), (47, 8)] &&
      (let c := fld w 52 49; (decide (1 ≤ c) && decide (c ≤ 7)) || (decide (9 ≤ c) && decide (c ≤ 11)))
  | 0xB0 =>
    match syncOp w with
    | 0 => onlyFields w [(63, 56), (52, 51), (47, 43), (42, 27)] && syncCount w != 0
    | 1 => onlyFields w [(63, 56), (52, 51), (50, 48), (47, 43), (42, 27)] && syncCount w != 0 && decide (syncTgt w ≤ 4)
    | 2 => onlyFields w [(63, 56), (52, 51)]
    | _ => onlyFields w [(63, 56), (52, 51), (42, 27)] && syncCount w != 0
  | 0xFF => onlyFields w [(63, 56)]
  | _ => false

/-! ### A whole program (R171, R180, R190, R203) -/

/-- The instructions of a program as (position, words), on fuel; none where a reserved opcode or a cut instruction
stands. -/
def scanGo : Nat → Nat → List W64 → Option (List (Nat × List W64))
  | 0, _, _ => none
  | f + 1, pos, ws =>
    match ws with
    | [] => some []
    | w :: _ =>
      match opWords (opOf w) with
      | none => none
      | some k => if ws.length < k then none else (scanGo f (pos + k) (ws.drop k)).map (fun t => (pos, ws.take k) :: t)

/-- The instructions of a program. -/
def scan (ws : List W64) : Option (List (Nat × List W64)) := scanGo (ws.length + 1) 0 ws

/-- The nesting of counted bodies (R203), with the ends of the bodies entered, innermost first. -/
def nestOk : List Nat → List (Nat × List W64) → Bool
  | _, [] => true
  | ends, (pos, ws) :: rest =>
    let live := ends.filter (fun e => decide (pos < e))
    let w := wd ws 0
    !(ends.any (fun e => decide (e < pos))) && !(opOf w == 0xFF && !live.isEmpty) &&
      (if opOf w == 0xA0 then
        let e := pos + 1 + fld w 36 25
        live.all (fun x => decide (e ≤ x)) && decide (live.length < 4) && nestOk (e :: live) rest
      else nestOk live rest)

/-- A program is of an array task (R190). -/
def arrayOp (w : W64) : Bool :=
  let o := opOf w
  o == 0x10 || o == 0x11 || o == 0x20 || o == 0x21 || o == 0x30 || o == 0x40 || o == 0x80 ||
    (o == 0x70 && (rOp w == 3 || rOp w == 4))

/-- One walk over the program text: effective addresses, streams and loops follow from it alone (R171). -/
def walk (n : Ncw) (prog : List W64) : Nat → Nat → List (Nat × Nat × Nat) → Table Nat → Table Feeder → Bool
  | 0, _, _, _, _ => false
  | f + 1, pc, loops, regs, feed =>
    let ws := prog.drop pc
    let w := wd ws 0
    if opOf w = 0xFF then true
    else
      let k := (opWords (opOf w)).getD 1
      let nx := seqNext w k pc loops
      let regs' := if opOf w = 0xA1 ∨ opOf w = 0xA2 then arWrite regs w else regs
      let acc := accesses n regs ws
      let ok := acc.all Access.ok && (opOf w != 0x50 || vecOverlapOk (vOp w == 0x18) acc)
      if !ok then false
      else
        match opOf w with
        | 0x10 =>
          let d := feedStream regs ws
          d.addr % 8 == 0 && decide (d.addr < sramBytes) &&
            walk n prog f nx.1 nx.2 regs' (tmod {} feed (feederKey (feedArr w) (feedSide w)) (fun x => { x with pendD := some d }))
        | 0x11 =>
          let s := feedsStream regs w
          s.addr % entryBytes (n.side (feedSide w)).blk == 0 && decide (s.addr < sramBytes) &&
            walk n prog f nx.1 nx.2 regs' (tmod {} feed (feederKey (feedArr w) (feedSide w)) (fun x => { x with pendS := some s }))
        | 0x20 => streamsOk n feed (mmaArr w) (mmaKcnt w) &&
            walk n prog f nx.1 nx.2 regs' (takeStreams n feed (mmaArr w) (mmaKcnt w))
        | 0x21 => streamsOk n feed (mmaArr w) (mmaKcnt w) &&
            walk n prog f nx.1 nx.2 regs' (takeStreams n feed (mmaArr w) (mmaKcnt w))
        | _ => walk n prog f nx.1 nx.2 regs' feed

/-- The checks of a tile program at GRAPH_LOAD (R171, R190). -/
def programOk (ncw : W64) (prog : List W64) : Bool :=
  match scan prog with
  | none => false
  | some l =>
    let n := ncwOf ncw
    let arr := l.any (fun x => arrayOp (wd x.2 0))
    decide (prog.length ≤ 8192) && ncwOk ncw arr &&
      (match l.getLast? with | none => false | some x => opOf (wd x.2 0) == 0xFF) &&
      l.dropLast.all (fun x => opOf (wd x.2 0) != 0xFF) && nestOk [] l && l.all (fun x => fieldsOk n x.2) &&
      walk n prog (8192 * 65536 ^ 4) 0 [] [] []

end Sys2Proof.Machine
end

