-- ==== Sys2Proof/Machine/Geometry.lean ====
section
/-! DEFINITION. Dies, tiles and geometry (01): the physical maps, the geometry registers, pending repairs. -/

namespace Sys2Proof.Machine

/-- GEOM_RETIRED[die]. -/
def retiredOf (g : Geom) (die : Nat) : BitVec 50 := tget 0 g.retired die

/-- ROWS(die): logical rows; 0 for an unavailable die (R20, R21). -/
def rowsOf (g : Geom) (die : Nat) : Nat :=
  if g.dieAvail.toNat.testBit die then 50 - popcount 50 (retiredOf g die).toNat else 0

/-- BYP0 and BYP1 of a physical row (R24). -/
def bypOf (g : Geom) (die prow : Nat) : Nat × Nat := tget (0x7F, 0x7F) g.byp (die * 50 + prow)

/-- Step a logical number past skipped physical ones, ascending (R14). -/
def skipPast (n : Nat) (l : List Nat) : Nat := l.foldl (fun x f => if f ≤ x then x + 1 else x) n

/-- The physical row of a logical row (R14). -/
def physRow (g : Geom) (die row : Nat) : Nat := skipPast row (bitsOf 50 (retiredOf g die).toNat)

/-- The physical column of a logical column of a physical row (R14). -/
def physCol (g : Geom) (die prow col : Nat) : Nat :=
  let b := bypOf g die prow
  skipPast col ([b.1, b.2].filter (fun x => decide (x ≤ 101)))

/-- The number a tile's state is kept under, by physical position. -/
def physNum (die prow pcol : Nat) : Nat := die * 5100 + prow * 102 + pcol

/-- The tile of a logical address exists (R12, R13). -/
def tileExists (g : Geom) (die row col : Nat) : Bool :=
  decide (die < 16) && decide (row < rowsOf g die) && decide (col < 100)

/-- The physical number of logical tile n, if it names a tile (R12 to R14). -/
def tileOf (g : Geom) (n : Nat) : Option Nat :=
  let die := n / 5000
  let row := n % 5000 / 100
  let col := n % 100
  if tileExists g die row col then
    let pr := physRow g die row
    some (physNum die pr (physCol g die pr col))
  else none

/-- The die of a physical tile number. -/
def dieOfPhys (k : Nat) : Nat := k / 5100

/-- The logical tile number of a physical position (R17). A position that carries no logical tile gets the number its place among the
used ones would give. (DESIGN CHOICE: LOG 130.) -/
def logicalOf (g : Geom) (die prow pcol : Nat) : Nat :=
  let row := prow - ((bitsOf 50 (retiredOf g die).toNat).filter (fun f => decide (f < prow))).length
  let b := bypOf g die prow
  let col := pcol - (([b.1, b.2].filter (fun x => decide (x < pcol))).length)
  die * 5000 + row * 100 + col

/-- Byte d of GEOM_ROWS: the row counts of all dies (R22, R26). -/
def rowBytes (g : Geom) : List Byte := (List.range 16).map (fun d => BitVec.ofNat 8 (rowsOf g d))

/-- GEOM_TILES (R22). -/
def geomTiles (g : Geom) : Nat := (List.range 16).foldl (fun a d => a + 100 * rowsOf g d) 0

/-- REPAIR_PEND (R22). -/
def repairPend (g : Geom) : Nat :=
  (List.range 16).foldl (fun a d => if g.repairs.any (fun r => r.1 == d) then a + 2 ^ d else a) 0

/-- GEOM_STATUS. -/
def geomStatus (g : Geom) : Nat := repairPend g * 2 ^ 20 + g.dieAvail.toNat * 16 + g.quadAvail.toNat

/-- IDENT_PART (Table 1.3). -/
def identPart (g : Geom) : Nat := 0xA1 * 2 ^ 24 + g.grade.toNat * 2 ^ 16 + 0xD640

/-- A column-map entry (R23, Table 1.4). -/
def colMapEntry (g : Geom) (die prow : Nat) : Nat :=
  if prow ≥ 50 then 0
  else
    let b := bypOf g die prow
    (if (retiredOf g die).toNat.testBit prow then 2 ^ 15 else 0) + b.2 * 256 + b.1

/-- Apply one pending repair: bypass the column if the row has a free bypass position, retire the row if it has
two; a retired row needs nothing further, nor a column already bypassed (R18, R20, R24). -/
def applyRepair (g : Geom) (r : Nat × Nat × Nat) : Geom :=
  let die := r.1
  let row := r.2.1
  let col := r.2.2
  let b := bypOf g die row
  if (retiredOf g die).toNat.testBit row then g
  else if b.1 = col ∨ b.2 = col then g
  else if b.1 = 0x7F then { g with byp := tset (0x7F, 0x7F) g.byp (die * 50 + row) (col, 0x7F) }
  else if b.2 = 0x7F then
    { g with byp := tset (0x7F, 0x7F) g.byp (die * 50 + row) (min b.1 col, max b.1 col) }
  else
    { g with retired := tset 0 g.retired die (BitVec.ofNat 50 ((retiredOf g die).toNat + 2 ^ row)),
             gen := g.gen + 1#32 }

/-- Apply the pending repairs of the dies that satisfy a test, in the order in which they were found (R18). -/
def applyRepairs (p : Nat → Bool) (g : Geom) : Geom :=
  let mine := g.repairs.filter (fun r => p r.1)
  { mine.foldl applyRepair g with repairs := g.repairs.filter (fun r => !p r.1) }

/-- Record a pending repair (R16). -/
def addRepair (die prow pcol : Nat) (d : Dev) : Dev :=
  { d with geom := { d.geom with repairs := d.geom.repairs ++ [(die, prow, pcol)] } }

/-- Mark a tile failed in service: a pending repair of its die, and TILE_FAILED once for each tile (R16, R17). The
OXB failure-class event it is counts elsewhere (R361). -/
def markFailed (now cause : Nat) (die prow pcol : Nat) (d : Dev) : Dev :=
  if d.geom.failed.contains (physNum die prow pcol) then d
  else
    postEvent now 0x0012 (natLe 4 (logicalOf d.geom die prow pcol) ++ natLe 1 cause)
      (addRepair die prow pcol { d with geom := { d.geom with failed := physNum die prow pcol :: d.geom.failed } })

/-- The graphs whose row counts no longer match the part's become INVALID at once when LOADED, or when their run ends
(R27). -/
def invalidateGraphs (d : Dev) : Dev :=
  let f (hg : Nat × Graph) : Nat × Graph :=
    let g := hg.2
    if g.state = .free ∨ g.rows = rowBytes d.geom then hg
    else (hg.1, if g.state = .loaded then { g with state := .invalid } else
      if g.state = .running ∨ g.state = .aborting then { g with invalidate := true } else g)
  { d with graphs := d.graphs.map f }

/-- The quadrant of a die. -/
def quadOfDie (die : Nat) : Nat := die / 4

/-- A quadrant's record. -/
def quadAt (d : Dev) (q : Nat) : Quad := tget {} d.quads q

/-- Change a quadrant. -/
def modQuad (q : Nat) (f : Quad → Quad) (d : Dev) : Dev := { d with quads := tmod {} d.quads q f }

/-- QUADRANT_RESUME's geometry change: repairs of the quadrant's dies are applied, graphs follow, and
GEOMETRY_CHANGED is posted when any was pending, even one that needs no action any more (R18, R25, R27). (DESIGN CHOICE: LOG 131.) -/
def applyQuadRepairs (now q : Nat) (d : Dev) : Dev :=
  let any := d.geom.repairs.any (fun r => quadOfDie r.1 == q)
  if any then
    let d1 := invalidateGraphs { d with geom := applyRepairs (fun die => quadOfDie die == q) d.geom }
    postEvent now 0x0010 (natLe 4 d1.geom.gen.toNat ++ natLe 1 q) d1
  else d

end Sys2Proof.Machine
end

