-- ==== Sys2Proof/Machine/NearMem.lean ====
section
/-! DEFINITION. The near tier (11): decoding addresses, reading and writing through the channel controllers,
poisoned beats, the memory-side adders, the staging buffer. -/

namespace Sys2Proof.Machine

/-- A region entry. -/
def regionAt (d : Dev) (r : Nat) : Region := tget {} d.near.regions r

/-- A channel. -/
def chanAt (d : Dev) (g : Nat) : Chan := tget {} d.near.chans g

/-- Change the near tier. -/
def onNear (f : Near → Near) (d : Dev) : Dev := { d with near := f d.near }

/-- Change a channel. -/
def modChan (g : Nat) (f : Chan → Chan) (d : Dev) : Dev :=
  onNear (fun n => { n with chans := tmod {} n.chans g f }) d

/-- The die of a channel (R249). -/
def dieOfChan (g : Nat) : Nat := g / 64

/-- CH_STAT.STATE as it reads: the channels of an unavailable die are out of service (R278). -/
def chanState (d : Dev) (g : Nat) : ChanSt :=
  if d.geom.dieAvail.toNat.testBit (dieOfChan g) then (chanAt d g).state else .mappedOut

/-- In service: in the channel lists of R252. -/
def inService (d : Dev) (g : Nat) : Bool := chanState d g == .inService

/-- The channel list of a set (R252, Table 11.3), in ascending order of its key. (DEDUCED: LOG 20.) -/
def channelList (d : Dev) (il : Interleave) (unit : Nat) : List Nat :=
  let l := match il with
    | .wide => (List.range 1024).map (fun k => 64 * (k % 16) + k / 16)
    | .quad => (List.range 256).map (fun k => 64 * (4 * unit + k % 4) + k / 4)
    | .die => (List.range 64).map (fun k => 64 * unit + k)
    | .chan => [unit]
  l.filter (inService d)

/-- The address lies in the region's window. -/
def Region.holds (r : Region) (a : Nat) : Bool := r.valid && decide (r.base ≤ a) && decide (a < r.base + r.size)

/-- The valid region of an address. -/
def regionOf (d : Dev) (a : Nat) : Option Region := (d.near.regions.map (·.2)).find? (·.holds a)

/-- Channel and channel offset of an address of a region (R252). -/
def Region.locate (r : Region) (a : Nat) : Nat × Nat :=
  let o := a - r.base
  match r.il with
  | .chan => (r.unit, r.choff + o)
  | _ =>
    let k := o / 2048
    let n := r.chans.length
    (r.chans.getD (k % n) 0, r.choff + k / n * 2048 + o % 2048)

/-- Where a byte is kept: 2^27 * channel + channel offset. -/
def chanKey (g off : Nat) : Nat := g * 2 ^ 27 + off

/-- The runs of an access in ascending address order, on fuel; none when it touches an address of no valid
region (R254). -/
def runsGo : Nat → Dev → Nat → Nat → Option (List Run2K)
  | 0, _, _, _ => none
  | f + 1, d, a, n =>
    if n = 0 then some []
    else
      match regionOf d a with
      | none => none
      | some r =>
        let k := min n (min (2048 - (a - r.base) % 2048) (r.base + r.size - a))
        let l := r.locate a
        (runsGo f d (a + k) (n - k)).map (fun t => ⟨a, l.1, l.2, k⟩ :: t)

/-- The runs of an access. -/
def runsOf (d : Dev) (a n : Nat) : Option (List Run2K) := runsGo (n / 2048 + 2 + d.near.regions.length) d a n

/-- Every byte of the range lies in a valid region. -/
def mapped (d : Dev) (a n : Nat) : Bool := (runsOf d a n).isSome

/-- The beats a run touches, by beat number of its channel. -/
def Run2K.beats (r : Run2K) : List Nat := upFrom (r.off / 64) ((r.off + r.len + 63) / 64 - r.off / 64)

/-- A beat whose read is uncorrectable: poisoned, on a retired page, or on a FAILED channel (R273, R277, R282). -/
def badBeat (d : Dev) (g b : Nat) : Bool :=
  let c := chanAt d g
  chanState d g != .inService || c.retired.contains (b / 1024) || c.poison.contains b

/-- DETAIL of an uncorrectable near-tier error (R273): [31] = 1, [30:21] g, [10:0] the page. -/
def memDetail (g off : Nat) : Nat := 2 ^ 31 + g * 2 ^ 21 + off / 65536

/-- The uncorrectable beats of a run: near-tier address of the first byte read there, channel, offset of the beat. -/
def badOf (d : Dev) (r : Run2K) : List (Nat × Nat × Nat) :=
  (r.beats.filter (badBeat d r.chan)).map (fun b => (r.addr + (b * 64 - r.off), r.chan, b * 64))

/-- Bytes of a run as stored. -/
def runBytes (d : Dev) (r : Run2K) : List Byte := readBytes d.near.mem (chanKey r.chan r.off) r.len

/-- Bytes of a range as stored; zero where no region maps it. -/
def nearBytes (d : Dev) (a n : Nat) : List Byte :=
  match runsOf d a n with
  | none => List.replicate n 0#8
  | some l => l.flatMap (runBytes d)

/-- A little-endian number in the near tier. -/
def nearLe (d : Dev) (a n : Nat) : Nat := leNat (nearBytes d a n)

/-- The uncorrectable beats of a range, ascending. -/
def nearBad (d : Dev) (a n : Nat) : List (Nat × Nat × Nat) :=
  match runsOf d a n with
  | none => []
  | some l => l.flatMap (badOf d)

/-- The lowest near-tier DETAIL of some errors (R273). -/
def lowDetail (l : List (Nat × Nat × Nat)) : Option Nat :=
  l.foldl (fun a x => some (match a with | none => memDetail x.2.1 x.2.2 | some y => min y (memDetail x.2.1 x.2.2))) none

/-! ### Staging buffer (R258, R259, Table 11.5) -/

/-- The line that may hold a granule: one line in Still mode, the 8 ways of a set in Flow mode (R259). -/
def lineFits (still : Bool) (gran i : Nat) : Bool := if still then i == gran % 256 else i / 8 == gran % 32

/-- The line that holds a granule (R259). -/
def lineOf (still : Bool) (gran : Nat) (c : Chan) : Option (Nat × StageLine) :=
  c.lines.find? (fun e => e.2.gran == gran && lineFits still gran e.1)

/-- The staging lines as a run of a mode finds them: a line that may not hold its granule in that mode is free (R259). (DEDUCED: LOG 127.) -/
def fitLines (still : Bool) (c : Chan) : Chan := { c with lines := c.lines.filter (fun e => lineFits still e.2.gran e.1) }

/-- The line a new granule replaces in Flow mode: a free way, else the least recently used not allocated by KEEP, else
the least recently used. -/
def victim (c : Chan) (set : Nat) : Nat :=
  let ways := (List.range 8).map (fun w => set * 8 + w)
  match ways.find? (fun i => !(c.lines.any (fun e => e.1 == i))) with
  | some i => i
  | none =>
    let held := ways.filterMap (fun i => (c.lines.find? (fun e => e.1 == i)))
    let low (l : List (Nat × StageLine)) : Option (Nat × StageLine) :=
      l.foldl (fun a x => match a with | none => some x | some y => if x.2.used < y.2.used then some x else some y) none
    match low (held.filter (fun e => !e.2.keep)) with
    | some e => e.1
    | none => match low held with | some e => e.1 | none => set * 8

/-- One access to a granule: `hint` as in Table 8.13, `still` mode, `timed` traffic, `rd` a read. -/
def touchLine (still timed rd : Bool) (hint gran : Nat) (c : Chan) : Chan :=
  let n := c.useCount + 1
  let line : StageLine := { gran := gran, keep := hint == 2, used := if hint == 1 then -(n : Int) else n }
  let place (i : Nat) : Table StageLine := tins (c.lines.filter (fun e => e.1 != i)) i line
  match lineOf still gran c with
  | some e =>
    if hint == 3 && rd && (timed || !still) then { c with lines := c.lines.filter (fun x => x.1 != e.1), useCount := n }
    else { c with lines := tins (c.lines.filter (fun x => x.1 != e.1)) e.1 { e.2 with used := n, keep := e.2.keep || hint == 2 },
                  useCount := n }
  | none =>
    if still then
      if hint == 2 && timed then { c with lines := place (gran % 256), useCount := n } else c
    else if hint == 1 || hint == 2 then { c with lines := place (victim c (gran % 32)), useCount := n }
    else c

/-- The granules of a run touched in ascending order. -/
def touchRun (still timed rd : Bool) (hint : Nat) (r : Run2K) (d : Dev) : Dev :=
  let gs := upFrom (r.off / 256) ((r.off + r.len + 255) / 256 - r.off / 256)
  modChan r.chan (fun c => gs.foldl (fun c g => touchLine still timed rd hint g c) c) d

/-! ### Writing -/

/-- Write a run: a FAILED channel and a retired page discard it; a write of a whole beat clears its poison, a write of
part of a poisoned beat leaves it poisoned (R273, R277, R282). -/
def writeRun (r : Run2K) (data : List Byte) (d : Dev) : Dev :=
  if chanState d r.chan != .inService || (chanAt d r.chan).retired.contains (r.off / 65536) then d
  else
    let whole (b : Nat) : Bool := decide (r.off ≤ b * 64) && decide (b * 64 + 64 ≤ r.off + r.len)
    let d1 := onNear (fun n => { n with mem := writeBytes n.mem (chanKey r.chan r.off) (data.take r.len) }) d
    let c := chanAt d r.chan
    if c.poison.isEmpty && c.ce.isEmpty then d1
    else modChan r.chan (fun c =>
      { c with poison := c.poison.filter (fun b => !whole b), ce := c.ce.filter (fun b => !whole b) }) d1

/-- Write the runs of an access in order, each with its part of the data. -/
def writeRuns : List Run2K → List Byte → Dev → Dev
  | [], _, d => d
  | r :: rs, data, d => writeRuns rs (data.drop r.len) (writeRun r data d)

/-- Write bytes to the near tier; nothing where the range is not mapped whole. -/
def nearWrite (a : Nat) (data : List Byte) (d : Dev) : Dev :=
  match runsOf d a data.length with
  | none => d
  | some l => writeRuns l data d

/-! ### Errors met (R272, R273, R281) -/

/-- Corrected beats of a channel count: in all, for their rows and for the lanes on which their errors lie (R272, R279). -/
def countFixed (bs : List Nat) (c : Chan) : Chan :=
  { c with corrected := satAdd 64 c.corrected bs.length,
           rowErr := bs.foldl (fun t b => tmod 0 t (b / 32) (· + 1)) c.rowErr,
           laneErr := bs.foldl (fun t b => tmod 0 t (tget 0 c.ceLane b) (· + 1)) c.laneErr }

/-- Count what a read of a run met: corrected beats, uncorrectable beats, an ECC_CORRECTED record for each corrected
one. -/
def countRun (cyc : Nat) (r : Run2K) (d : Dev) : Dev :=
  let c := chanAt d r.chan
  let ok := r.beats.filter (fun b => c.ce.contains b && !badBeat d r.chan b)
  let bad := (r.beats.filter (badBeat d r.chan)).length
  if ok.isEmpty && bad = 0 then d
  else
    ok.foldl (fun d b => traceRec cyc 4 0x06 3 (dieOfChan r.chan) (r.chan + b * 64 * 1024) d)
      (modChan r.chan (fun c => { countFixed ok c with uncorrectable := satAdd 64 c.uncorrectable bad }) d)

/-- A run in Still mode is in progress. -/
def stillRunning (d : Dev) : Bool :=
  d.runs.any (fun r => r.started && (tget {} d.graphs r.handle).still)

/-- MEM_ERROR for each poisoned access (R273, Table 15.13). -/
def postMemErrors (now source : Nat) (l : List (Nat × Nat × Nat)) (d : Dev) : Dev :=
  l.foldl (fun d x => postEvent now 0x0020 (natLe 8 x.1 ++ natLe 2 x.2.1 ++ natLe 1 source) d) d

/-- Retire the page of a channel offset: MEM_CAP falls by 64 KiB, MEMMAP_GEN rises, MEM_PAGE_RETIRED (R282). -/
def retirePage (now g page : Nat) (d : Dev) : Dev :=
  if (chanAt d g).retired.contains page then d
  else
    let d1 := onNear (fun n => { n with memCap := n.memCap - 65536#40, memmapGen := n.memmapGen + 1#32 })
      (modChan g (fun c => { c with retired := (c.retired ++ [page]).mergeSort (fun a b => decide (a ≤ b)) }) d)
    postEvent now 0x0022 (natLe 2 g ++ natLe 2 page ++ natLe 4 0 ++ natLe 8 d1.near.memCap.toNat) d1

/-- Field count of a remapped row. -/
def fieldCount (c : Chan) (bank row : Nat) : Nat :=
  match c.remaps.find? (fun m => m.1 == bank && m.2.1 == row) with | some m => m.2.2 | none => 0

/-- A remap of the row is within the limits of Table 11.10. -/
def canRemap (c : Chan) (bank row : Nat) : Bool :=
  decide (fieldCount c bank row < 2) && decide (tget 0 c.spareUsed bank < 16)

/-- Remap a row into a spare: its contents go with it, its field count rises, the bank is unavailable until the remap
completes (R281). -/
def startRemap (now g bank row : Nat) (d : Dev) : Dev :=
  modChan g (fun c => { c with
    remaps := (c.remaps.filter (fun m => !(m.1 == bank && m.2.1 == row))) ++ [(bank, row, fieldCount c bank row + 1)],
    spareUsed := tset 0 c.spareUsed bank (tget 0 c.spareUsed bank + 1),
    bankBusy := c.bankBusy ++ [(bank, row, now)],
    scrubMark := c.scrubMark.filter (fun m => m != (bank, row)), scrubNow := c.scrubNow.filter (fun m => m != (bank, row)) }) d

/-- Act on a repair candidate by Table 11.10. -/
def repairRow (now g bank row : Nat) (d : Dev) : Dev :=
  if canRemap (chanAt d g) bank row then startRemap now g bank row d else retirePage now g (row / 2) d

/-- A row has become a repair candidate: acted on at once in Flow mode, kept for the next maintenance point in Still
mode (R281, R283). (DEDUCED: LOG 110.) -/
def candidateRow (now g bank row : Nat) (d : Dev) : Dev :=
  let c := chanAt d g
  if c.repairPend.contains (bank, row) || c.bankBusy.any (fun b => b.1 == bank && b.2.1 == row) then d
  else if stillRunning d then modChan g (fun c => { c with repairPend := c.repairPend ++ [(bank, row)] }) d
  else repairRow now g bank row d

/-- Bank and row of a channel offset (Table 11.1). -/
def bankRow (off : Nat) : Nat × Nat := (off / 2048 % 16, off / 32768)

/-- The rows of poisoned beats become candidates (R281); a FAILED channel's and a retired page's reads do not. -/
def candidates (now : Nat) (l : List (Nat × Nat × Nat)) (d : Dev) : Dev :=
  l.foldl (fun d x =>
    if (chanAt d x.2.1).poison.contains (x.2.2 / 64) && !(chanAt d x.2.1).retired.contains (x.2.2 / 65536) then
      candidateRow now x.2.1 (bankRow x.2.2).1 (bankRow x.2.2).2 d else d) d

/-- A read of one run by a source of Table 15.13 (R260): counts, MEM_ERROR events and candidates for what it met, the staging lines it
touched. -/
def readRun (p : Plat) (source hint : Nat) (timed : Bool) (q : Run2K) (d : Dev) : Dev :=
  candidates p.now (badOf d q) (postMemErrors p.now source (badOf d q) (countRun p.cyc q (touchRun (stillRunning d) timed true hint q d)))

/-- A read of a range by a source of Table 15.13 that met some uncorrectable beats: counts, MEM_ERROR events and candidates for what it
met, the staging lines it touched. -/
def readMet (p : Plat) (source hint : Nat) (timed : Bool) (a n : Nat) (bad : List (Nat × Nat × Nat)) (d : Dev) : Dev :=
  match runsOf d a n with
  | none => d
  | some l =>
    let d1 := l.foldl (fun d r => countRun p.cyc r (touchRun (stillRunning d) timed true hint r d)) d
    candidates p.now bad (postMemErrors p.now source bad d1)

/-- A read of a range as it stands. -/
def readEffects (p : Plat) (source hint : Nat) (timed : Bool) (a n : Nat) (d : Dev) : Dev :=
  readMet p source hint timed a n (nearBad d a n) d

/-- Beats that a write reads, corrects and writes back (R255, R272): each correctable error among them counts and goes. (DEDUCED: LOG 109.) -/
def mergeBeats (cyc g : Nat) (beats : List Nat) (d : Dev) : Dev :=
  let c := chanAt d g
  let ok := if c.ce.isEmpty then [] else beats.filter (fun b => c.ce.contains b && !badBeat d g b)
  if ok.isEmpty then d
  else
    ok.foldl (fun d b => traceRec cyc 4 0x06 3 (dieOfChan g) (g + b * 64 * 1024) d)
      (modChan g (fun c => { countFixed ok c with ce := c.ce.filter (fun b => !ok.contains b) }) d)

/-- The beats a run covers in part. -/
def Run2K.partBeats (r : Run2K) : List Nat :=
  r.beats.filter (fun b => !(decide (r.off ≤ b * 64) && decide (b * 64 + 64 ≤ r.off + r.len)))

/-- Write a range, its staging lines touched; the beats written in part are left to `sealWrites`. -/
def writePieces (hint : Nat) (timed : Bool) (a : Nat) (data : List Byte) (d : Dev) : Dev :=
  match runsOf d a data.length with
  | none => d
  | some l => writeRuns l data (l.foldl (fun d r => touchRun (stillRunning d) timed false hint r d) d)

/-- A write of one run: beats written in part are read and merged in the same visit (R255, R260). -/
def writeRunAll (cyc hint : Nat) (timed : Bool) (q : Run2K) (data : List Byte) (d : Dev) : Dev :=
  writeRun q data (touchRun (stillRunning d) timed false hint q (mergeBeats cyc q.chan q.partBeats d))

/-- A write of a range: beats written in part are read and merged in the same visit. -/
def writeEffects (cyc hint : Nat) (timed : Bool) (a : Nat) (data : List Byte) (d : Dev) : Dev :=
  match runsOf d a data.length with
  | none => d
  | some l => writePieces hint timed a data (l.foldl (fun d r => mergeBeats cyc r.chan r.partBeats d) d)

/-- Ranges written piece by piece, latest first, with one more piece: pieces that follow one another are one write. -/
def joinSpan (a n : Nat) : List (Nat × Nat) → List (Nat × Nat)
  | x :: y :: l => if x.1 + x.2 = a then (x.1, x.2 + n) :: y :: l else if y.1 + y.2 = a then (y.1, y.2 + n) :: x :: l
      else (a, n) :: x :: y :: l
  | [x] => if x.1 + x.2 = a then [(x.1, x.2 + n)] else [(a, n), x]
  | [] => [(a, n)]

/-- The beats of ranges written piece by piece: those covered whole lose their errors and their poison (R273), the others are merged. -/
def sealWrites (cyc : Nat) (l : List (Nat × Nat)) (d : Dev) : Dev :=
  l.foldl (fun d x =>
    match runsOf d x.1 x.2 with
    | none => d
    | some rs => rs.foldl (fun d r =>
        let c := chanAt d r.chan
        if (c.ce.isEmpty && c.poison.isEmpty) || chanState d r.chan != .inService || c.retired.contains (r.off / 65536) then d
        else
          let part := r.partBeats
          let keep (b : Nat) : Bool := !r.beats.contains b || part.contains b
          modChan r.chan (fun c => { c with ce := c.ce.filter keep, poison := c.poison.filter keep })
            (mergeBeats cyc r.chan part d)) d) d

/-! ### Memory-side adders (R269, Table 11.8) -/

/-- Element size of a reduce-write type; 0 for a reserved code. -/
def redSize (rt : Nat) : Nat :=
  match rt with | 0 => 4 | 1 => 8 | 2 => 4 | 3 => 2 | 4 => 2 | 5 => 4 | 6 => 64 | _ => 0

/-- Saturating two's complement sum of w bits; OVERFLOW when it saturates (R44). -/
def satSum (w a b : Nat) : Nat × Flags :=
  let x := signedField w a + signedField w b
  let c := max (-(2 ^ (w - 1) : Int)) (min (2 ^ (w - 1) - 1 : Int) x)
  (intBits w c, flagIf (c != x) fOverflow)

/-- Exact sum of two raw quire fields of w bits: NaR absorbs; out of range, or the NaR pattern, gives NaR with
QUIRE_OVF (R38). -/
def quireSum (w a b : Nat) : Nat × Flags :=
  let nar := 2 ^ (w - 1)
  if a = nar ∨ b = nar then (nar, fNone)
  else
    let x := signedField w a + signedField w b
    if x ≤ -(2 ^ (w - 1) : Int) ∨ x ≥ (2 ^ (w - 1) : Int) then (nar, fQuireOvf) else (intBits w x, fNone)

/-- Sum of two elements of a format: exact, rounded once, ties to even; SUBFLUSH does not apply (R269). -/
def fmtSum (f : Fmt) (a b : Nat) : Nat × Flags :=
  let x := numAdd false (decode f true a) (decode f true b)
  let r := roundTo f true {} false x.1
  (r.1, r.2 ||| x.2)

/-- One element of a reduce-write: the new destination element and the flags. -/
def redElem (rt old new : Nat) : Nat × Flags :=
  match rt with
  | 0 => satSum 32 old new
  | 1 => satSum 64 old new
  | 2 => fmtSum .fp32 old new
  | 3 => fmtSum .bf16 old new
  | 4 => fmtSum .posit16 old new
  | 5 => fmtSum .posit32 old new
  | _ => quireSum 512 old new

/-- What a reduce-write did: flags, the poisoned elements it left (address, channel, offset). -/
structure RedRes where
  flags : Flags := 0
  bad : List (Nat × Nat × Nat) := []
deriving DecidableEq, Repr

/-- Add source elements to the destination elements of a run, `k` bytes into it, in ascending address order; a poisoned element is left
as it is (R269, R273). -/
def reduceGo (rt size : Nat) (q : Run2K) : Nat → Nat → List Byte → Dev → RedRes → Dev × RedRes
  | 0, _, _, d, r => (d, r)
  | n + 1, k, data, d, r =>
    let e : Run2K := ⟨q.addr + k, q.chan, q.off + k, size⟩
    let bad := badOf d e
    if bad.isEmpty then
      let v := redElem rt (leNat (runBytes d e)) (leNat (data.take size))
      reduceGo rt size q n (k + size) (data.drop size) (writeRun e (natLe size v.1) d) { r with flags := r.flags ||| v.2 }
    else reduceGo rt size q n (k + size) (data.drop size) d { r with bad := r.bad ++ bad.take 1 }

/-- A reduce-write request counts a timing-dependent choice: every rounded type, a saturating integer, a QUIRE-ADD
that overflowed (R270). -/
def redCounts (rt : Nat) (f : Flags) : Bool :=
  (decide (2 ≤ rt) && decide (rt ≤ 5)) || (decide (rt ≤ 1) && (f &&& fOverflow) != 0#9) || (rt == 6 && (f &&& fQuireOvf) != 0#9)

/-- Count a near-tier choice on the device and, when a run made it, on that run (R339). -/
def tdcNear (h : Option Nat) (d : Dev) : Dev :=
  { d with obs := { d.obs with tdcNear := satAdd 64 d.obs.tdcNear 1 },
           runs := d.runs.map (fun r => if r.started && some r.handle == h then { r with tdcNear := r.tdcNear + 1 } else r) }

/-- One reduce-write request, a run (R260), by a source: elements added, staging lines, MEM_ERROR and candidates for poisoned
elements, the choice counted where R270 says (`counts`: Flow mode, or untimed traffic of Still mode). -/
def reduceRun (p : Plat) (source hint rt : Nat) (timed : Bool) (h : Option Nat) (q : Run2K) (data : List Byte) (d : Dev) :
    Dev × RedRes :=
  let size := redSize rt
  let d0 := mergeBeats p.cyc q.chan q.beats (touchRun (stillRunning d) timed false hint q d)
  let r := reduceGo rt size q (data.length / size) 0 data d0 {}
  let d1 := candidates p.now r.2.bad (postMemErrors p.now source r.2.bad r.1)
  let counts := redCounts rt r.2.flags && (!stillRunning d || !timed)
  (if counts then traceChoice p.cyc (dieOfChan q.chan) 3 1 2 q.chan (tdcNear h d1) else d1, r.2)

/-- A reduce-write of the runs of an access that begins at `a`, one request each, in ascending address order (R260, R269). -/
def reduceRuns (p : Plat) (source hint rt : Nat) (timed : Bool) (h : Option Nat) (a : Nat) (l : List Run2K) (data : List Byte) (d : Dev) :
    Dev × RedRes :=
  l.foldl (fun x q =>
    let r := reduceRun p source hint rt timed h q ((data.drop (q.addr - a)).take q.len) x.1
    (r.1, { flags := x.2.flags ||| r.2.flags, bad := x.2.bad ++ r.2.bad })) (d, {})

/-- A reduce-write of a range. -/
def reduceWrite (p : Plat) (source hint rt : Nat) (timed : Bool) (h : Option Nat) (a : Nat) (data : List Byte) (d : Dev) :
    Dev × RedRes :=
  reduceRuns p source hint rt timed h a ((runsOf d a data.length).getD []) data d

end Sys2Proof.Machine
end

