-- ==== Sys2Proof/Machine/Requests.lean ====
section
/-! DEFINITION. The request queues of the channel controllers (R257, R260 to R262): requests, their classes and ports, the order in
which they stand, ties. -/

namespace Sys2Proof.Machine

/-! ### Classes and requesters -/

/-- The requests of a class: 0 URGENT, 1 LC, 2 NORMAL, 3 BULK (Table 11.6). -/
def Chan.queue (c : Chan) (cls : Nat) : List ChanReq :=
  match cls with | 0 => c.urgent | 1 => c.lc | 2 => c.normal | _ => c.bulk

/-- Put the requests of a class. -/
def Chan.setQueue (c : Chan) (cls : Nat) (l : List ChanReq) : Chan :=
  match cls with
  | 0 => { c with urgent := l }
  | 1 => { c with lc := l }
  | 2 => { c with normal := l }
  | _ => { c with bulk := l }

/-- All requests of a channel. -/
def Chan.reqs (c : Chan) : List ChanReq := c.urgent ++ c.lc ++ c.normal ++ c.bulk

/-- Keep some requests of a channel. -/
def Chan.keepReqs (f : ChanReq → Bool) (c : Chan) : Chan :=
  { c with urgent := c.urgent.filter f, lc := c.lc.filter f, normal := c.normal.filter f, bulk := c.bulk.filter f }

/-- Two requests come from one requester: a tile, a task, the host, a partner's port, Oxbow (R257). -/
def ReqBy.same : ReqBy → ReqBy → Bool
  | .tile a _, .tile b _ => a == b
  | .task a b _, .task x y _ => a == x && b == y
  | .host _, .host _ => true
  | .partner a _, .partner b _ => a == b
  | .oxbow, .oxbow => true
  | _, _ => false

/-- A request's run. -/
def ChanReq.piece (g : Nat) (r : ChanReq) : Run2K := ⟨r.addr, g, r.choff, r.len⟩

/-- An earlier access of the same requester to some of the same bytes still waits at the channel (R257). -/
def behind (c : Chan) (r : ChanReq) : Bool :=
  c.reqs.any (fun x => x.who.same r.who && decide (x.seq < r.seq) && decide (x.choff < r.choff + r.len) && decide (r.choff < x.choff + x.len))

/-- Some request of a requester still waits at some channel. -/
def waits (d : Dev) (w : ReqBy) : Bool := d.near.chans.any (fun e => e.2.reqs.any (fun r => r.who == w))

/-- Keep some requests everywhere. -/
def keepReqs (f : ChanReq → Bool) (d : Dev) : Dev :=
  onNear (fun n => { n with chans := n.chans.map (fun e => (e.1, e.2.keepReqs f)) }) d

/-- A task that has ended makes no more requests. -/
def dropAsks (h : Nat) (which : Nat → Bool) (d : Dev) : Dev :=
  keepReqs (fun r => match r.who with | .task x t _ => !(x == h && which t) | _ => true) d

/-! ### Arrival (R262) -/

/-- How far a port lies behind the pointer. -/
def portKey (base port : Nat) : Nat := (port + 4 - base % 4) % 4

/-- Place a request among those of its class: behind every earlier arrival, and among those of its own MCLK cycle from the port at or
after the pointer on. -/
def placeReq (base : Nat) (q : List ChanReq) (r : ChanReq) : List ChanReq :=
  let early := q.filter (fun x => x.arrival != r.arrival)
  let same := q.filter (fun x => x.arrival == r.arrival)
  early ++ same.filter (fun x => decide (portKey base x.port ≤ portKey base r.port)) ++ [r] ++
    same.filter (fun x => decide (portKey base r.port < portKey base x.port))

/-- Count a near-tier choice and write its record, unless only untimed traffic of a Still-mode run is concerned (R263, R339). -/
def countNear (cyc g kind : Nat) (h : Option Nat) (d : Dev) : Dev :=
  if stillRunning d then d else traceChoice cyc (dieOfChan g) 3 1 kind g (tdcNear h d)

/-- A choice counted to one run counts to another instead: a third request of the cycle goes first (R339). -/
def moveCredit (a b : Option Nat) (d : Dev) : Dev :=
  if a == b || stillRunning d then d
  else { d with runs := d.runs.map (fun r =>
      if !r.started then r
      else { r with tdcNear := r.tdcNear + (if some r.handle == b then 1 else 0) - (if some r.handle == a then 1 else 0) }) }

/-- A request arrives at its channel. Requests of one class from several accesses in one MCLK cycle tie: the tie counts once, to the run
whose request goes first, and the pointer moves past its port (R262). (DEDUCED: LOG 71.) -/
def enqueue (cyc cls g : Nat) (r : ChanReq) (d : Dev) : Dev :=
  let c := chanAt d g
  let old := c.ties.find? (fun t => t.cls == cls && t.arrival == r.arrival)
  let base := match old with | some t => t.base | none => c.ptr
  let rest := c.ties.filter (fun t => t.arrival == r.arrival && t.cls != cls)
  let put (t : Tie) (ptr : Nat) (d : Dev) : Dev :=
    modChan g (fun c => { c.setQueue cls (placeReq base (c.queue cls) r) with ties := rest ++ [t], ptr := ptr }) d
  match old with
  | none => put ⟨cls, r.arrival, base, r.port, r.run, r.seq, false⟩ c.ptr d
  | some t =>
    if !t.tied && t.seq == r.seq then put t c.ptr d
    else
      let first := decide (portKey base r.port < portKey base t.port)
      let port := if first then r.port else t.port
      let run := if first then r.run else t.run
      let d1 := put { t with port := port, run := run, tied := true } ((port + 1) % 4) d
      if t.tied then moveCredit t.run run d1 else countNear cyc g 0 run d1

/-- Make the requests of an access that begins at `a`: one for each of its runs, in a class, at a port of each channel (R260). -/
def submit (p : Plat) (cls : Nat) (port : Nat → Nat) (who : ReqBy) (run : Option Nat) (a : Nat) (l : List Run2K) (d : Dev) : Dev :=
  let n := d.near.accSeq
  l.foldl (fun d q =>
    enqueue p.cyc cls q.chan
      { who := who, off := q.addr - a, addr := q.addr, choff := q.off, len := q.len, arrival := p.mclk, port := port q.chan, run := run,
        seq := n } d) (onNear (fun x => { x with accSeq := n + 1 }) d)

/-- The port at which the tiles of a Reach die reach a channel, and the one at which its engines do (Table 11.6). -/
def tilePort (die g : Nat) : Nat := if dieOfChan g = die then 0 else 2
def enginePort (die g : Nat) : Nat := if dieOfChan g = die then 1 else 2

/-- Accesses queue: all of Flow mode, the untimed ones of Still mode (R260, R263). -/
def queues (d : Dev) (timed : Bool) : Bool := !(stillRunning d && timed)

end Sys2Proof.Machine
end

