-- ==== Sys2Proof/Machine/Regions.lean ====
section
/-! DEFINITION. The region tables and the repair commands of the near tier (R251 to R254, R286), and the far-region
table (R315). -/

namespace Sys2Proof.Machine

/-- The extent of a region on each of its channels (R252). -/
def extentOf (il : Interleave) (size n : Nat) : Nat :=
  match il with
  | .chan => size
  | _ => cdiv size (2048 * n) * 2048

/-- Two extents on one channel share a byte. -/
def extentsMeet (a x b y : Nat) : Bool := decide (a < b + y) && decide (b < a + x)

/-- Two windows overlap. -/
def windowsMeet (a x b y : Nat) : Bool := decide (a < b + y) && decide (b < a + x)

/-- The valid regions. -/
def validRegions (d : Dev) : List Region := (d.near.regions.map (·.2)).filter (·.valid)

/-- A valid region includes the channel. -/
def regionUses (d : Dev) (g : Nat) : Bool := (validRegions d).any (fun r => r.chans.contains g)

/-- The code of an interleave (Table 11.2). -/
def interleaveOf : Nat → Interleave
  | 0 => .wide | 1 => .quad | 2 => .die | _ => .chan

/-- A port. -/
def portAt (d : Dev) (p : Nat) : Port := tget {} d.links.ports p

/-- Change a port. -/
def modPort (p : Nat) (f : Port → Port) (d : Dev) : Dev :=
  { d with links := { d.links with ports := tmod {} d.links.ports p f } }

/-- A far-region entry. -/
def farAt (d : Dev) (r : Nat) : FarRegion := tget {} d.links.far r

/-- REGION_GEN rises (R285). -/
def bumpRegionGen (d : Dev) : Dev := onNear (fun n => { n with regionGen := n.regionGen + 1#32 }) d

/-- The checks of R253 on a near-tier REGION_MAP. -/
def nearMapOk (d : Dev) (index : Nat) (il : Interleave) (unit base size choff : Nat) : Bool :=
  let mib2 := 2 ^ 21
  let l := channelList d il unit
  let x := extentOf il size l.length
  !(regionAt d index).valid &&
  base % mib2 == 0 && size % mib2 == 0 && size != 0 && decide (base + size ≤ 2 ^ 40) &&
  !((validRegions d).any (fun r => windowsMeet base size r.base r.size)) &&
  (match il with
    | .wide => unit == 0
    | .quad => decide (unit < 4) && d.geom.quadAvail.toNat.testBit unit
    | .die => decide (unit < 16) && d.geom.dieAvail.toNat.testBit unit
    | .chan => decide (unit < 1024) && inService d unit) &&
  !l.isEmpty && choff % 65536 == 0 && decide (choff + x ≤ 2 ^ 27) &&
  !((validRegions d).any (fun r => r.chans.any (fun g => l.contains g) &&
      extentsMeet choff x r.choff (extentOf r.il r.size r.chans.length))) &&
  !(l.any (fun g => (chanAt d g).retired.any (fun pg => extentsMeet choff x (pg * 65536) 65536)))

/-- The checks of R315 on a far REGION_MAP. -/
def farMapOk (d : Dev) (index base size stripe ports pbase : Nat) : Bool :=
  let mib2 := 2 ^ 21
  let ps := bitsOf 64 ports
  !(farAt d index).valid &&
  base % mib2 == 0 && size % mib2 == 0 && size != 0 && decide (base + size ≤ 2 ^ 47) &&
  !((d.links.far.map (·.2)).any (fun r => r.valid && windowsMeet base size r.base r.size)) &&
  decide (12 ≤ stripe) && decide (stripe ≤ 20) && pbase % 4096 == 0 && !ps.isEmpty &&
  ps.all (fun p => decide (p < 48) && (portAt d p).state == .attached && (portAt d p).role == 0) &&
  ps.all (fun p => (portAt d p).partner == (portAt d (ps.headD 0)).partner)

/-- UNIT of an interleave is within its range (Table 11.2). -/
def unitInRange (il : Interleave) (unit : Nat) : Bool :=
  match il with
  | .wide => unit == 0
  | .quad => decide (unit < 4)
  | .die => decide (unit < 16)
  | .chan => decide (unit < 1024)

/-- REGION_MAP's own checks and effect (R253, R315, R392): a field outside its range goes before BUSY. -/
def regionMapBody (pkt : Packet) (d : Dev) : Nat × Nat × Dev :=
  let space := par pkt 0 1
  let persist := par pkt 1 1
  let b2 := par pkt 2 1
  let index := par pkt 4 2
  let unit := par pkt 6 2
  let base := par pkt 8 8
  let size := par pkt 0x10 8
  let choff := par pkt 0x18 4
  let ports := par pkt 0x20 8
  let pbase := par pkt 0x28 8
  if space > 1 || persist > 1 || (space == 0 && (b2 > 3 || index > 255 || !unitInRange (interleaveOf b2) unit || ports != 0 || pbase != 0)) ||
      (space == 1 && (index > 1023 || unit != 0 || choff != 0 || b2 < 12 || b2 > 20)) then (stBadParam, 0, d)
  else if stillRunning d then (stBusy, 0, d)
  else if space = 0 then
    let il := interleaveOf b2
    if nearMapOk d index il unit base size choff then
      let r : Region := { valid := true, persist := persist == 1, il := il, unit := unit, base := base, size := size,
                          choff := choff, chans := channelList d il unit }
      (stOk, 0, bumpRegionGen (onNear (fun n => { n with regions := tset {} n.regions index r }) d))
    else (stBadParam, 0, d)
  else if farMapOk d index base size b2 ports pbase then
    let r : FarRegion := { valid := true, persist := persist == 1, stripe := b2, base := base, size := size,
                           ports := BitVec.ofNat 48 ports, pbase := BitVec.ofNat 64 pbase }
    (stOk, 0, bumpRegionGen { d with links := { d.links with far := tset {} d.links.far index r } })
  else (stBadParam, 0, d)

/-- The Oxbow policy names the region (R392). -/
def policyNames (d : Dev) (far : Bool) (index : Nat) : Bool :=
  match d.oxb.policy with
  | none => false
  | some q => q.pairs.any (fun x => x.1 == far && (x.2.1 == index || x.2.2 == index))

/-- REGION_UNMAP's own checks and effect (R253, R315, R392). -/
def regionUnmapBody (pkt : Packet) (d : Dev) : Nat × Nat × Dev :=
  let space := par pkt 0 1
  let index := par pkt 4 2
  if space > 1 || (space == 0 && index > 255) || (space == 1 && index > 1023) then (stBadParam, 0, d)
  else if stillRunning d then (stBusy, 0, d)
  else if space = 0 then
    if (regionAt d index).valid && !policyNames d false index then
      (stOk, 0, bumpRegionGen
        (onNear (fun n => { n with regions := tmod {} n.regions index (fun r => { r with valid := false }) }) d))
    else (stBadParam, 0, d)
  else if (farAt d index).valid && !policyNames d true index then
    (stOk, 0, bumpRegionGen
      { d with links := { d.links with far := tmod {} d.links.far index (fun r => { r with valid := false }) } })
  else (stBadParam, 0, d)

/-- REGION_MAP (R253, R315). -/
def execRegionMap (ring : Nat) (pkt : Packet) (s : State) : Out :=
  onDev s (fun p => takePacket ring pkt (pkOpcode pkt == 0x20) (fun id d => finish p.now id (regionMapBody pkt d)) p)

/-- REGION_UNMAP (R253, R315). -/
def execRegionUnmap (ring : Nat) (pkt : Packet) (s : State) : Out :=
  onDev s (fun p => takePacket ring pkt (pkOpcode pkt == 0x21) (fun id d => finish p.now id (regionUnmapBody pkt d)) p)

/-! ### Repair commands (R286, Table 11.13) -/

/-- CH_STAT[g] (Table 11.12). -/
def chStatReg (d : Dev) (g : Nat) : Nat :=
  let c := chanAt d g
  let st := match chanState d g with | .inService => 0 | .failed => 1 | .mappedOut => 2
  c.retired.length * 2 ^ 16 + c.spares.length * 4 + st

/-- The channel's quadrant reads drained. -/
def quadDrained (d : Dev) (q : Nat) : Bool := (quadAt d q).state == .drained

/-- The quadrant of a channel. -/
def quadOfChan (g : Nat) : Nat := g / 256

/-- The record of MEM_REPAIR_QUERY (R393). -/
def repairRecord (d : Dev) (g : Nat) : List Byte :=
  let c := chanAt d g
  natLe 8 (chStatReg d g) ++ (List.range 4).flatMap (fun k => natLe 2 (c.spares.getD k 0xFFFF)) ++
    (List.range 16).flatMap (fun b => natLe 1 (16 - tget 0 c.spareUsed b)) ++
    natLe 4 c.remaps.length ++ natLe 4 c.retired.length ++ List.replicate 24 0#8 ++
    c.remaps.flatMap (fun m => natLe 4 (m.1 + m.2.1 * 16 + m.2.2 * 65536)) ++ c.retired.flatMap (fun pg => natLe 2 pg)

/-- MEM_REPAIR_QUERY (R286, R393). -/
def execMemRepairQuery (ring : Nat) (pkt : Packet) (s : State) : Out :=
  onDev s (fun p => takePacket ring pkt (pkOpcode pkt == 0x70) (fun id d =>
    finish p.now id (
      let g := par pkt 0 2
      if g > 1023 || par pkt 0x10 4 < 5184 then (stBadParam, 0, d)
      else if stillRunning d then (stBusy, 0, d)
      else (stOk, 0, hostWrite (par pkt 8 8) (repairRecord d g) d))) p)

/-- What MEM_REPAIR_ROW and FUSEPROG share: remap within the limits, or retire (Table 11.10). -/
def repairRowNow (now g bank row : Nat) (remap : Bool) (d : Dev) : Option Dev :=
  if remap then (if canRemap (chanAt d g) bank row then some (startRemap now g bank row d) else none)
  else some (retirePage now g (row / 2) d)

/-- MEM_REPAIR_ROW's own checks and effect (R286). -/
def repairRowBody (p : Plat) (pkt : Packet) (d : Dev) : Nat × Nat × Dev :=
  let g := par pkt 0 2
  let op := par pkt 2 1
  let bank := par pkt 3 1
  let row := par pkt 4 2
  if g > 1023 || op > 1 || bank > 15 || row > 4095 then (stBadParam, 0, d)
  else if stillRunning d || !quadDrained d (quadOfChan g) then (stBusy, 0, d)
  else
    match repairRowNow p.now g bank row (op == 0) d with
    | some d' => (stOk, 0, d')
    | none => (stBadParam, 0, d)

/-- MEM_REPAIR_ROW with OP = REMAP, or an OP outside its values. -/
def execMemRepairRowRemap (ring : Nat) (pkt : Packet) (s : State) : Out :=
  onDev s (fun p => takePacket ring pkt (pkOpcode pkt == 0x71 && par pkt 2 1 != 1)
    (fun id d => finish p.now id (repairRowBody p pkt d)) p)

/-- MEM_REPAIR_ROW with OP = RETIRE. -/
def execMemRepairRowRetire (ring : Nat) (pkt : Packet) (s : State) : Out :=
  onDev s (fun p => takePacket ring pkt (pkOpcode pkt == 0x71 && par pkt 2 1 == 1)
    (fun id d => finish p.now id (repairRowBody p pkt d)) p)

/-- The channels a bit map of 128 bytes names. -/
def namedChans (pkt : Packet) : List Nat := bitsOf 1024 (par pkt 0 128)

/-- A RETRAIN trace record (Table 13.7). -/
def traceRetrain (cyc g : Nat) (unscheduled : Bool) (d : Dev) : Dev :=
  traceRec cyc 4 0x07 3 (dieOfChan g) (g + (if unscheduled then 65536 else 0)) d

/-- Start a retrain of a channel (R276). -/
def startRetrain (cyc g : Nat) (why : RetrainWhy) (d : Dev) : Dev :=
  traceRetrain cyc g (why == .hard) (modChan g (fun c => { c with retraining := some why }) d)

/-- Hold the ring for a long operation (R395). -/
def startLong (id : Nat) (op : LongOp) (d : Dev) : Dev := onHost (fun h => { h with longOp := some (id, op) }) d

/-- MEM_RETRAIN (R286): the named channels retrain in parallel; it ends when all have. -/
def execMemRetrain (ring : Nat) (pkt : Packet) (s : State) : Out :=
  onDev s (fun p => takePacket ring pkt (pkOpcode pkt == 0x72) (fun id d =>
    let l := namedChans pkt
    if stillRunning d then complete p.now id stBusy 0 d
    else if l.any (fun g => chanState d g == .mappedOut) then complete p.now id stBadParam 0 d
    else startLong id (.memRetrain l) (l.foldl (fun d g => startRetrain p.cyc g .command d) d)) p)

/-- MEM_BIST (R286): a destructive test; it ends with the channels zero-filled and retrained. -/
def execMemBist (ring : Nat) (pkt : Packet) (s : State) : Out :=
  onDev s (fun p => takePacket ring pkt (pkOpcode pkt == 0x73) (fun id d =>
    let l := namedChans pkt
    let force := par pkt 0x80 1
    if force > 1 then complete p.now id stBadParam 0 d
    else if stillRunning d || l.any (fun g => !quadDrained d (quadOfChan g)) then complete p.now id stBusy 0 d
    else if force == 0 && l.any (regionUses d) then complete p.now id stBadParam 0 d
    else startLong id (.memBist l) (l.foldl (fun d g => startRetrain p.cyc g .test d) d)) p)

/-- Steer a lane to a free spare lane; none when no spare is free (R276, R286). -/
def spareLane (g lane : Nat) (d : Dev) : Option Dev :=
  if (chanAt d g).spares.length ≥ 4 then none
  else some (modChan g (fun c => { c with spares := if c.spares.contains lane then c.spares else c.spares ++ [lane] }) d)

/-- Map out a FAILED channel that no valid region includes (R277). (DEDUCED: LOG 21.) -/
def mapOut (g : Nat) (d : Dev) : Option Dev :=
  if chanState d g == .failed && !regionUses d g then
    let cap := 2 ^ 27 - 65536 * (chanAt d g).retired.length
    some (onNear (fun n => { n with memCap := n.memCap - BitVec.ofNat 40 cap, memmapGen := n.memmapGen + 1#32,
                                    regionGen := n.regionGen + 1#32 })
      (modChan g (fun c => { c with state := .mappedOut }) d))
  else none

/-- MEM_REPAIR_LANE's own checks and effect (R286). -/
def repairLaneBody (pkt : Packet) (d : Dev) : Nat × Nat × Dev :=
  let g := par pkt 0 2
  let op := par pkt 2 1
  let lane := par pkt 4 2
  if g > 1023 || op > 1 || lane > 575 then (stBadParam, 0, d)
  else if stillRunning d || !quadDrained d (quadOfChan g) then (stBusy, 0, d)
  else
    match (if op = 0 then spareLane g lane d else mapOut g d) with
    | some d' => (stOk, 0, d')
    | none => (stBadParam, 0, d)

/-- MEM_REPAIR_LANE with OP = SPARE, or an OP outside its values. -/
def execMemRepairLaneSpare (ring : Nat) (pkt : Packet) (s : State) : Out :=
  onDev s (fun p => takePacket ring pkt (pkOpcode pkt == 0x74 && par pkt 2 1 != 1)
    (fun id d => finish p.now id (repairLaneBody pkt d)) p)

/-- MEM_REPAIR_LANE with OP = MAPOUT. -/
def execMemRepairLaneMapout (ring : Nat) (pkt : Packet) (s : State) : Out :=
  onDev s (fun p => takePacket ring pkt (pkOpcode pkt == 0x74 && par pkt 2 1 == 1)
    (fun id d => finish p.now id (repairLaneBody pkt d)) p)

/-- Write a channel's 128 MiB as zero with valid check bits (Table 11.9 step 6). -/
def zeroFill (g : Nat) (d : Dev) : Dev :=
  onNear (fun n => { n with mem := n.mem.filter (fun c => c.1 / 2 ^ 27 != g) })
    (modChan g (fun c => { c with poison := [], ce := [], scrubMark := [], scrubNow := [] }) d)

end Sys2Proof.Machine
end

