-- ==== Sys2Proof/Machine/Slots.lean ====
section
/-! DEFINITION. The firmware store (17 R430 to R439): images, slots, activation, rollback counters, key revocation, boot, and
the Numerics Identity (R28, R29, R437). -/

namespace Sys2Proof.Machine

/-- Change the firmware store. -/
def onFw (f : Fw → Fw) (d : Dev) : Dev := { d with fw := f d.fw }

/-! ### Images (R432, R433) -/

/-- A field of an image header. -/
def hdrField (h : List Byte) (off n : Nat) : Nat := pkField h off n

/-- COMPONENT, KEY_SLOT, SVN, MIN_SVN, REVOKE, LEVEL, BODY_LEN (Table 17.2). -/
def hdrComponent (h : List Byte) : Nat := hdrField h 6 1
def hdrKey (h : List Byte) : Nat := hdrField h 7 1
def hdrSvn (h : List Byte) : Nat := hdrField h 0xC 1
def hdrMinSvn (h : List Byte) : Nat := hdrField h 0xD 1
def hdrRevoke (h : List Byte) : Nat := hdrField h 0xE 1
def hdrLevel (h : List Byte) : Nat := hdrField h 0x10 4
def hdrBodyLen (h : List Byte) : Nat := hdrField h 0x14 4

/-- Slot size of a component (Table 17.3). -/
def slotSize : Nat → Nat
  | 0 => 4 * 2 ^ 20 | 1 => 2 * 2 ^ 20 | 2 => 2 ^ 20 | 3 => 2 * 2 ^ 20 | 4 => 2 * 2 ^ 20 | _ => 8 * 2 ^ 20

/-- Condition 1 of R433: every field within Table 17.2, every byte it does not list zero. -/
def hdrWell (h : List Byte) : Bool :=
  let c := hdrComponent h
  hdrField h 0 4 == 0x4D465A44 && hdrField h 4 2 == 1 && decide (c ≤ 5) && decide (hdrKey h ≤ 3) && decide (hdrSvn h ≤ 63) &&
    decide (hdrMinSvn h ≤ hdrSvn h) && decide (hdrRevoke h < 16) && hdrField h 0xF 1 == 0xA1 &&
    (!(c == 2 || c == 3) || hdrLevel h == 0) && (c != 5 || decide (hdrLevel h < 65536)) &&
    decide (1 ≤ hdrBodyLen h) && decide (hdrBodyLen h ≤ slotSize c) &&
    allZero (pkBytes h 0x38 0x48) && allZero (pkBytes h 0x380 0x80)

/-- Conditions 2, 3 and 5 of R433. -/
def hdrAuthentic (f : Fw) (h body : List Byte) : Bool :=
  let k := hdrKey h
  let modulus := pkBytes h 0x80 384
  Config.sha256 modulus == f.keyHash.getD k 0 && !f.keyRevoked.toNat.testBit k &&
    Config.pssVerify modulus (pkBytes h 0 0x200) (pkBytes h 0x200 384) &&
    (Config.sha256 body).toNat == hdrField h 0x18 32 && !(hdrRevoke h).testBit k

/-! ### Components, units, slots (R436) -/

/-- The component. -/
def compAt (f : Fw) (c : Nat) : FwComp := tget { slotA := {} } f.comp c

/-- Change a component. -/
def modComp (c : Nat) (g : FwComp → FwComp) (f : Fw) : Fw := { f with comp := tmod { slotA := {} } f.comp c g }

/-- Number of units: quadrants, engines, or the package. -/
def unitsOfComp (c : Nat) : Nat := if c = 2 then 4 else if c = 3 then 12 else 1

/-- A slot of a component: B when true. -/
def FwComp.slot (x : FwComp) (b : Bool) : FwSlot := if b then x.slotB else x.slotA

/-- Change a slot. -/
def FwComp.setSlot (b : Bool) (v : FwSlot) (x : FwComp) : FwComp := if b then { x with slotB := v } else { x with slotA := v }

/-- A unit runs slot B. -/
def FwComp.runsB (x : FwComp) (u : Nat) : Bool := x.activeB.toNat.testBit u

/-- Some unit of the component runs the slot. -/
def slotRuns (f : Fw) (c : Nat) (b : Bool) : Bool := (List.range (unitsOfComp c)).any (fun u => (compAt f c).runsB u == b)

/-- The slot that no unit runs (R441 step 1). -/
def freeSlot (f : Fw) (c : Nat) : Option Bool :=
  if !slotRuns f c true then some true else if !slotRuns f c false then some false else none

/-- The image a unit runs. -/
def activeHeader (f : Fw) (c u : Nat) : List Byte := ((compAt f c).slot ((compAt f c).runsB u)).header

/-- A key slot in the mask signs an image that is active in some unit (R435). -/
def revokeForbidden (f : Fw) (mask : Nat) : Bool :=
  (List.range 6).any (fun c => (List.range (unitsOfComp c)).any (fun u => mask.testBit (hdrKey (activeHeader f c u))))

/-- A slot after a rollback counter has risen: an image below it reads rollback-rejected (R434). (DEDUCED: LOG 72.) -/
def FwSlot.atRb (rb : Nat) (x : FwSlot) : FwSlot :=
  if x.state = .valid ∧ hdrSvn x.header < rb then { x with state := .rollback } else x

/-- RB[c] rises to the MIN_SVN of the image that runs in every unit; the other slot may fall to rollback-rejected (R434). -/
def raiseRb (c : Nat) (f : Fw) : Fw :=
  let x := compAt f c
  let b := x.runsB 0
  let m := hdrMinSvn (x.slot b).header
  if (List.range (unitsOfComp c)).all (fun u => x.runsB u == b) && decide (x.rb < m) then
    modComp c (fun x => { x.setSlot (!b) ((x.slot (!b)).atRb m) with rb := m }) f
  else f

/-- Burn key slots; every slot that no unit runs and that a revoked key signed reads invalid (R435). -/
def revokeKeys (mask : Nat) (f : Fw) : Fw :=
  let hit (c : Nat) (b : Bool) (x : FwSlot) : FwSlot :=
    if x.state != .empty && !slotRuns f c b && mask.testBit (hdrKey x.header) then { x with state := .invalid } else x
  { f with keyRevoked := f.keyRevoked ||| BitVec.ofNat 4 mask,
           comp := f.comp.map (fun e => (e.1, { e.2 with slotA := hit e.1 false e.2.slotA, slotB := hit e.1 true e.2.slotB })) }

/-! ### The Numerics Identity (R28, R29, R437) -/

/-- FW_NUM_LEVEL: the largest LEVEL among the active images of components 0, 1 and 4. -/
def numLevel (f : Fw) : Nat := max (hdrLevel (activeHeader f 0 0)) (max (hdrLevel (activeHeader f 1 0)) (hdrLevel (activeHeader f 4 0)))

/-- The NID that the active slots give. -/
def nidOf (f : Fw) : W64 :=
  BitVec.ofNat 64 (0xA101 * 2 ^ 48 + hdrLevel (activeHeader f 5 0) % 65536 * 2 ^ 32 + numLevel f)

/-- Recompute the NID; NID_CHANGED when it differs (R29). -/
def updateNid (now : Nat) (d : Dev) : Dev :=
  let n := nidOf d.fw
  if n = d.fw.nid then d
  else postEvent now 0x0011 (natLe 8 d.fw.nid.toNat ++ natLe 8 n.toNat) (onFw (fun f => { f with nid := n }) d)

/-- A slot becomes active in units of a component: FW_ACTIVATED once, RB, then the NID (R434, R437, R441). -/
def activateSlot (now c : Nat) (b : Bool) (units : Nat) (d : Dev) : Dev :=
  let set (x : FwComp) : FwComp :=
    { x.setSlot b { x.slot b with pending := false } with
      activeB := if b then x.activeB ||| BitVec.ofNat 12 units else x.activeB &&& ~~~(BitVec.ofNat 12 units) }
  updateNid now (postEvent now 0x0070 (natLe 1 c ++ natLe 1 (if b then 1 else 0)) (onFw (fun f => raiseRb c (modComp c set f)) d))

/-! ### Boot (R438, R439) -/

/-- One unit's fallback: an active slot that is not valid gives way to a valid other slot. -/
def bootUnit (now c : Nat) (d : Dev) (u : Nat) : Dev :=
  let x := compAt d.fw c
  let b := x.runsB u
  if (x.slot b).state != .valid && (x.slot (!b)).state == .valid then activateSlot now c (!b) (2 ^ u) d else d

/-- One component at boot: its pending slot becomes active when valid, and PEND_FAIL is set when it is not; then each unit's
active slot is verified. -/
def bootComp (now c : Nat) (d : Dev) : Dev :=
  let x := compAt d.fw c
  let pend (b : Bool) : Bool := (x.slot b).pending
  let try1 (b : Bool) (d : Dev) : Dev :=
    if !pend b then d
    else if (x.slot b).state == .valid then activateSlot now c b (2 ^ unitsOfComp c - 1) d
    else onFw (fun f => { modComp c (fun y => y.setSlot b { y.slot b with pending := false }) f with pendFail := true }) d
  (List.range (unitsOfComp c)).foldl (bootUnit now c) (try1 true (try1 false d))

/-- Some component has a unit without a valid active slot. -/
def noValidSlot (f : Fw) : Bool :=
  (List.range 6).any (fun c => (List.range (unitsOfComp c)).any (fun u => ((compAt f c).slot ((compAt f c).runsB u)).state != .valid))

/-- The boot ROM at power-up or a reset (R438, R439). Component 4 waits for a drain in flight. -/
def bootRom (now : Nat) (drain : Bool) (d : Dev) : Dev :=
  let d0 := onFw (fun f => { f with pendFail := false, bootWaits := false, oxbWaits := drain && ((compAt f 4).slotA.pending || (compAt f 4).slotB.pending) }) d
  let d1 := (if drain then [0, 1, 2, 3, 5] else [0, 1, 2, 3, 4, 5]).foldl (fun d c => bootComp now c d) d0
  onFw (fun f => { f with recovery := noValidSlot f }) d1

/-- A drain has ended: component 4 activates if a reset asked for it (Table 17.3), once no run is in progress (R337). -/
def oxbowBoot (now : Nat) (d : Dev) : Dev :=
  if d.fw.oxbWaits && !d.runs.any (·.started) then bootComp now 4 (onFw (fun f => { f with oxbWaits := false }) d) else d

/-! ### Registers (R442, R443) -/

/-- STATE of a slot. -/
def SlotState.code : SlotState → Nat
  | .empty => 0 | .valid => 1 | .invalid => 2 | .rollback => 3

/-- SEC_STAT. -/
def secStat (test : Bool) (f : Fw) : Nat :=
  (if f.recovery then 2 ^ 15 else 0) + (if test then 2 ^ 14 else 0) + (if f.pendFail then 2 ^ 13 else 0) +
    (if f.staged.isSome then 2 ^ 12 else 0) + f.keyRevoked.toNat * 2 ^ 8 + 1

/-- FW_SLOT[c]. -/
def fwSlotReg (x : FwComp) : Nat :=
  x.rb * 2 ^ 32 + x.activeB.toNat * 2 ^ 16 + (if x.slotB.pending then 32 else 0) + (if x.slotA.pending then 16 else 0) +
    x.slotB.state.code * 4 + x.slotA.state.code

/-- The units that run a slot, as in ACTIVE_B. -/
def runMask (c : Nat) (x : FwComp) (b : Bool) : Nat :=
  (List.range (unitsOfComp c)).foldl (fun a u => if x.runsB u == b then a + 2 ^ u else a) 0

/-- The firmware inventory: IDENTIFY bytes 0x200 to 0x4FF (R442). -/
def fwInventory (f : Fw) : List Byte :=
  (List.range 6).flatMap (fun c => [false, true].flatMap (fun b =>
    let x := (compAt f c).slot b
    (if x.state = .empty then List.replicate 56 0#8 else pkBytes x.header 0 56) ++ natLe 1 x.state.code ++
      natLe 1 (if x.pending then 1 else 0) ++ natLe 2 (runMask c (compAt f c) b) ++ natLe 4 0))

end Sys2Proof.Machine
end

