-- ==== Sys2Proof/Machine/Links.lean ====
section
/-! DEFINITION. The Thieret link below its tasks (12): transactions and flits, credits, acknowledgement and replay, port
states and events; and the failure-class events Oxbow counts (14 R361). -/

namespace Sys2Proof.Machine

/-! ### Fixed point and failure-class events (R361) -/

/-- 2^-(2^-i) as a fraction of 2^64, i from 1: repeated square roots of 2^127. -/
def halfPow : Nat → Nat
  | 0 => 2 ^ 63
  | n + 1 => isqrt (halfPow n * 2 ^ 64)

/-- 2^(-num/den) as a fraction of 2^64: the whole part shifts, 40 bits of the fraction multiply. -/
def exp2Neg (num den : Nat) : Nat :=
  let whole := num / den
  let frac := (num % den) * 2 ^ 40 / den
  let m := (List.range 40).foldl (fun a i => if frac.testBit (39 - i) then a * halfPow (i + 1) / 2 ^ 64 else a) (2 ^ 64)
  if whole > 256 then 0 else m >>> whole

/-- ln 2 as a fraction of 2^64. -/
def ln2Fix : Nat := 12786308645202655659

/-- λ decayed to a moment: λ * 2^(-Δt/H); ELAPSED ticks are 10 ns (R361). (DESIGN CHOICE: LOG 24.) -/
def lambdaNow (now : Nat) (o : Oxb) (h : Nat) : Nat :=
  o.lambda * exp2Neg (now - o.lambdaAt) (h * 100000000) / 2 ^ 64

/-- The policy in force names at least one pair (R359). -/
def policyOn (o : Oxb) : Option Policy :=
  match o.policy with | some q => if q.pairs.isEmpty then none else some q | none => none

/-- n failure-class events: OXB_EVENTS counts them; under a policy each adds ln 2 / H to λ (R359, R361). -/
def failureEvents (now n : Nat) (d : Dev) : Dev :=
  let o := { d.oxb with events := d.oxb.events + BitVec.ofNat 64 n }
  let o' := match policyOn o with
    | none => o
    | some q => { o with lambda := lambdaNow now o q.halfLife + n * (ln2Fix / q.halfLife), lambdaAt := now }
  { d with oxb := o' }

/-! ### Transactions (R303, Tables 12.7, 12.8) -/

/-- Credit class of a type: 0 REQ, 1 RSP, 2 MSG, 3 COLL; none for a reserved type. -/
def classOf : Nat → Option Nat
  | 0x01 | 0x02 | 0x03 | 0x04 | 0x05 => some 0
  | 0x10 | 0x11 => some 1
  | 0x08 => some 2
  | 0x09 => some 3
  | _ => none

/-- Bytes padded with zeros to a multiple of 16. -/
def pad16 (l : List Byte) : List Byte := l ++ List.replicate ((16 - l.length % 16) % 16) 0#8

/-- The bytes of a transaction. -/
def txnBytes (t : Txn) : List Byte :=
  natLe 16 (t.ttype * 2 ^ 120 + t.rtype * 2 ^ 116 + t.status * 2 ^ 112 + t.tag * 2 ^ 96 + t.len * 2 ^ 83 + t.attr * 2 ^ 64 +
    t.addr.toNat) ++ pad16 t.payload

/-- Credits a transaction takes (R301). -/
def txnCost (t : Txn) : Nat := (16 + t.payload.length + 15) / 16

/-- Payload bytes that follow a header: a READ's LEN bytes are only requested, an ACK has none. -/
def payloadLen (ttype len : Nat) : Nat := if ttype == 0x01 || ttype == 0x11 then 0 else len

/-- Read one transaction off a stream, with what is left. -/
def parseTxn (s : List Byte) : Option (Txn × List Byte) :=
  if s.length < 16 then none
  else
    let h := leNat (s.take 16)
    let f (hi lo : Nat) : Nat := h / 2 ^ lo % 2 ^ (hi + 1 - lo)
    let n := payloadLen (f 127 120) (f 95 83)
    let total := 16 + (n + 15) / 16 * 16
    if s.length < total then none
    else
      some ({ ttype := f 127 120, rtype := f 119 116, status := f 115 112, tag := f 111 96, len := f 95 83, attr := f 79 64,
              addr := BitVec.ofNat 64 (f 63 0), payload := (s.drop 16).take n }, s.drop total)

/-! ### Sending -/

/-- Change one entry of a list of credits. -/
def addAt (l : List Nat) (i n : Nat) : List Nat := l.set i (l.getD i 0 + n)

/-- Take one entry of a list of credits down. -/
def subAt (l : List Nat) (i n : Nat) : List Nat := l.set i (l.getD i 0 - n)

/-- The class of credits a flit returns, and how many: the lowest class that owes, up to 255. -/
def creditReturn (owed : List Nat) : Nat × Nat :=
  match (List.range 4).find? (fun c => owed.getD c 0 != 0) with
  | none => (0, 0)
  | some c => (c, min 255 (owed.getD c 0))

/-- The 256 bytes of a flit (R298, Table 12.6). -/
def flitBytes (ftype seq : Nat) (ack : Option Nat) (nak : Bool) (cls credits : Nat) (data : List Byte) : List Byte :=
  let hdr := ftype * 2 ^ 44 + seq * 2 ^ 32 + ack.getD 0 * 2 ^ 20 + (if ack.isSome then 2 ^ 19 else 0) +
    (if nak then 2 ^ 18 else 0) + cls * 2 ^ 16 + data.length * 2 ^ 8 + credits
  let body := natLe 6 hdr ++ data ++ List.replicate (242 - data.length) 0#8
  body ++ natLe 8 (crc64 body)

/-- Put a flit on the fiber: it carries the acknowledgement and some credits. -/
def putFlit (p ftype seq : Nat) (nak : Bool) (c : Nat × Nat) (data : List Byte) (now : Nat) (d : Dev) : Dev :=
  let x := portAt d p
  let d1 := modPort p (fun y => { y with sinceAck := 0, lastAck := now }) d
  { d1 with out := { d1.out with flits := d1.out.flits ++ [(p, flitBytes ftype seq x.lastGood nak c.1 c.2 data)] } }

/-- Take from what a port owes the credits that a flit returns. -/
def payCredits (p : Nat) (c : Nat × Nat) (d : Dev) : Dev := modPort p (fun y => { y with owed := subAt y.owed c.1 c.2 }) d

/-- Put a new flit on the fiber: it carries the acknowledgement and returns credits. -/
def emitFlit (p ftype seq : Nat) (nak : Bool) (data : List Byte) (now : Nat) (d : Dev) : Dev :=
  let c := creditReturn (portAt d p).owed
  putFlit p ftype seq nak c data now (payCredits p c d)

/-- Send one DATA flit: it gets the next SEQ and stays in the replay buffer until acknowledged (R299), with the credits it returns.
(DEDUCED: LOG 124.) -/
def sendData (p : Nat) (data : List Byte) (last : Bool) (now : Nat) (d : Dev) : Dev :=
  let seq := (portAt d p).nextSeq
  let c := creditReturn (portAt d p).owed
  emitFlit p 1 seq false data now
    (modPort p (fun y => { y with nextSeq := (seq + 1) % 4096, replayBuf := y.replayBuf ++ [⟨seq, data, now, last, c⟩] }) d)

/-- Cut bytes into flit payloads of at most 242 bytes, on fuel. -/
def cutFlits : Nat → List Byte → List (List Byte)
  | 0, _ => []
  | n + 1, l => if l.isEmpty then [] else l.take 242 :: cutFlits n (l.drop 242)

/-- Send the waiting flits while the replay buffer has room for 2,048, on fuel. -/
def drainFlits : Nat → Nat → Nat → Dev → Dev
  | 0, _, _, d => d
  | n + 1, p, now, d =>
    let x := portAt d p
    match x.txFlits with
    | [] => d
    | f :: fs =>
      if x.replayBuf.length ≥ 2048 || (x.retraining && !x.helloWait) then d
      else drainFlits n p now (sendData p f.1 f.2 now (modPort p (fun y => { y with txFlits := fs }) d))

/-- The transactions of a class that wait for credits. -/
def Port.tx (x : Port) (c : Nat) : List Txn :=
  match c with | 0 => x.txReq | 1 => x.txRsp | 2 => x.txMsg | _ => x.txColl

/-- Replace them. -/
def Port.setTx (x : Port) (c : Nat) (l : List Txn) : Port :=
  match c with
  | 0 => { x with txReq := l } | 1 => { x with txRsp := l } | 2 => { x with txMsg := l } | _ => { x with txColl := l }

/-- The flits of a transaction; the flit that carries the last byte of a message is marked (R321). -/
def txnFlits (t : Txn) : List (List Byte × Bool) :=
  let l := let b := txnBytes t; cutFlits (b.length / 242 + 1) b
  l.zipIdx.map (fun x => (x.1, t.ttype == 0x08 && t.attr.testBit 1 && x.2 == (15 + t.payload.length) / 242))

/-- Turn the transactions of a class into flits while credits last, on fuel. -/
def creditGo : Nat → Nat → Port → Port
  | 0, _, x => x
  | n + 1, c, x =>
    match x.tx c with
    | [] => x
    | t :: ts =>
      if txnCost t ≤ x.credits.getD c 0 then
        creditGo n c (({ x with credits := subAt x.credits c (txnCost t),
                                txFlits := x.txFlits ++ txnFlits t }).setTx c ts)
      else x

/-- MGMT subtype of a transaction. -/
def mgmtSub (t : Txn) : Nat := if t.ttype == 0x05 then t.attr % 256 else 0

/-- HELLO at the head of the REQ class enters the stream when its credits are held (R301): in step 7 of a retrain nothing else does. -/
def creditHello (x : Port) : Port :=
  match x.txReq with
  | t :: _ => if mgmtSub t = 1 then creditGo 1 0 x else x
  | [] => x

/-- Send what credits and the window allow; during a retrain nothing enters the stream but HELLO in step 7 (R300). -/
def pump (p now : Nat) (d : Dev) : Dev :=
  let d1 := modPort p (fun x =>
    if x.retraining then (if x.helloWait then creditHello x else x)
    else [1, 0, 2, 3].foldl (fun x c => creditGo ((x.tx c).length) c x) x) d
  drainFlits ((portAt d1 p).txFlits.length) p now d1

/-- Hand a transaction to a port (R301, R302). -/
def sendTxn (p now : Nat) (t : Txn) (d : Dev) : Dev :=
  match classOf t.ttype with
  | none => d
  | some c => pump p now (modPort p (fun x => x.setTx c (x.tx c ++ [t])) d)

/-- A MGMT transaction; its subtype fills ATTR [71:64], so bit 65 is the subtype's own (Tables 12.7, 12.10). -/
def mgmtTxn (sub : Nat) (payload : List Byte) (addr : Nat := 0) (tag : Nat := 0) : Txn :=
  { ttype := 0x05, tag := tag, len := payload.length, attr := sub, addr := BitVec.ofNat 64 addr,
    payload := payload }

/-- The first tag from one on that no outstanding request holds, on fuel (R304). -/
def freeTag : Nat → Nat → List Req → Nat
  | 0, tag, _ => tag
  | n + 1, tag, l => if l.any (fun q => q.tag == tag) then freeTag n ((tag + 1) % 65536) l else tag

/-- Issue a request that waits for a response: it takes a free tag (R304). -/
def sendReq (p now : Nat) (who : Requester) (off len far : Nat) (t : Txn) (d : Dev) : Dev :=
  let x := portAt d p
  let tag := freeTag x.pending.length x.nextTag x.pending
  sendTxn p now { t with tag := tag }
    (modPort p (fun y => { y with nextTag := (tag + 1) % 65536,
                                  pending := y.pending ++ [⟨tag, who, off, len, far, now⟩] }) d)

/-! ### Taking received transactions (R301) -/

/-- Give back the credits of a received transaction of a class. -/
def oweCredits (c : Nat) (t : Txn) (x : Port) : Port := { x with owed := addAt x.owed c (txnCost t) }

/-- Take the head of the REQ class. -/
def popReq (p : Nat) (t : Txn) (d : Dev) : Dev := modPort p (fun x => oweCredits 0 t { x with req := x.req.drop 1 }) d

/-- Take the head of the RSP class. -/
def popRsp (p : Nat) (t : Txn) (d : Dev) : Dev := modPort p (fun x => oweCredits 1 t { x with rsp := x.rsp.drop 1 }) d

/-- A step on the transaction at the head of a port's REQ class, when it is of the step's kind. -/
def onReq (p : Nat) (mine : Txn → Bool) (f : Plat → Txn → Dev → Dev) (pl : Plat) (d : Dev) : Dev :=
  match (portAt d p).req with
  | [] => d
  | t :: _ => if pl.alive && mine t then f pl t (popReq p t d) else d

/-- Answer a request (R306). -/
def respond (p now : Nat) (t : Txn) (ttype status : Nat) (payload : List Byte) (d : Dev) : Dev :=
  sendTxn p now { ttype := ttype, status := status, tag := t.tag, len := payload.length, payload := payload } d

/-! ### Port states and events -/

/-- The payload of PORT_UP and PORT_INCOMPATIBLE (Table 15.13). -/
def portPayload (p : Nat) (x : Port) : List Byte :=
  natLe 1 p ++ natLe 1 x.profile ++ natLe 1 (x.version.getD 15) ++ List.replicate 13 0#8 ++ x.partner

/-- The device's HELLO (R308). -/
def ownHello : List Byte :=
  [0#8, 2#8, 1#8, 0#8] ++ natLe 8 (0x7F + 2 ^ 8) ++ natLe 4 0 ++ natLe 32 Config.ownId.toNat

/-- Begin training: the link layer is set up anew, buffers are advertised, HELLO waits to go (Table 12.5). (DEDUCED: LOG 23.) -/
def startTraining (p now : Nat) (d : Dev) : Dev :=
  let x := portAt d p
  modPort p (fun _ => { state := .training, lightIn := true, lightRx := true, msgAckAt := x.msgAckAt, fecCor := x.fecCor, replays := x.replays,
                        retrains := x.retrains, owed := [4096, 4096, 65536, 65536], since := now,
                        helloSent := ownHello, txReq := [mgmtTxn 0x01 ownHello] }) d

/-- The payload words of a task descriptor. -/
def word (desc : List W64) (i : Nat) : W64 := desc.getD i 0#64

/-- KIND, SUB and SITE of a descriptor (Table 9.2). -/
def dKind (desc : List W64) : Nat := fld (word desc 0) 63 56
def dSub (desc : List W64) : Nat := fld (word desc 0) 55 48
def dSite (desc : List W64) : Nat := fld (word desc 0) 47 40

/-- The descriptor of a task of a graph. -/
def descOf (g : Graph) (t : Nat) : List W64 := g.tasks.getD t []

/-- A graph. -/
def graphAt (d : Dev) (h : Nat) : Graph := tget {} d.graphs h

/-- The ports of a COLL's NEXT and PREV sets, or the link port of a MOVE, that a task uses by its descriptor; far
traffic is told by its outstanding requests. -/
def usesPort (desc : List W64) (p : Nat) : Bool :=
  if dKind desc == 4 then (word desc 3).toNat.testBit p || (word desc 4).toNat.testBit p
  else if dKind desc == 3 then
    (fld (word desc 2) 63 60 == 3 || fld (word desc 2) 59 56 == 3) && fld (word desc 2) 49 44 == p
  else false

/-- The far DETAIL of R306. -/
def farDetail (p status : Nat) : Nat := 2 ^ 30 + p * 2 ^ 24 + status

/-- Change a task of the run of a handle. -/
def modTask (h t : Nat) (f : TaskRun → TaskRun) (d : Dev) : Dev :=
  { d with runs := d.runs.map (fun r => if r.started && r.handle == h then { r with tasks := tmod {} r.tasks t f } else r) }

/-- Give a task the status and DETAIL it will end with; the first given stands. -/
def setFate (st detail : Nat) (x : TaskRun) : TaskRun :=
  { x with work := { x.work with fate := match x.work.fate with | none => some (st, detail) | some y => some y } }

/-- The place of a port among those of a set. -/
def portPlace (set p : Nat) : Nat := ((List.range p).filter set.testBit).length

/-- A running task has traffic outstanding on a port: a request that waits for its response, a message it sends or waits for, segments of a
COLL that are queued there or that the rest of it sends or awaits there, segment k going by port k mod n (R314, R327). (DEDUCED:
LOG 125.) -/
def hasTraffic (x : Port) (h t : Nat) (desc : List W64) (w : Work) (p : Nat) : Bool :=
  x.pending.any (fun q => q.who == .task h t) ||
    (usesPort desc p && (dKind desc != 4 ||
      x.txColl.any (fun y => y.addr.toNat / 2 ^ 40 == fld (word desc 9) 23 0) ||
      (w.todo != 0 && [3, 4].any (fun i => (word desc i).toNat.testBit p && decide (portPlace (word desc i).toNat p < w.segs)))))

/-- Every running task that has traffic outstanding on a port will end with a status (R314). -/
def failTasks (p st : Nat) (d : Dev) : Dev :=
  let x := portAt d p
  { d with runs := d.runs.map (fun r =>
      if r.started then
        { r with tasks := r.tasks.map (fun e =>
            if e.2.st == .running && hasTraffic x r.handle e.1 (descOf (graphAt d r.handle) e.1) e.2.work p then
              (e.1, setFate st (farDetail p 0) e.2) else e) }
      else r) }

/-- Change Oxbow. -/
def onOxb (f : Oxb → Oxb) (d : Dev) : Dev := { d with oxb := f d.oxb }

/-- Change the snapshot in flight. -/
def modSnap (f : Snap → Snap) (d : Dev) : Dev := onOxb (fun o => { o with snap := o.snap.map f }) d

/-- Outstanding link requests of one requester are forgotten on every port. -/
def forget (w : Requester) (d : Dev) : Dev :=
  { d with links := { d.links with ports := d.links.ports.map (fun e =>
      (e.1, { e.2 with pending := e.2.pending.filter (fun q => q.who != w) })) } }

/-- The drain waits for nothing of its stage any more; commands already at a port still complete there (R367). -/
def dropStage (d : Dev) : Dev :=
  forget .oxbow (onOxb (fun o => { o with
    nvme := o.nvme.map (fun c => { c with drain := false }), snap := o.snap.map (fun s => { s with nvmeQ := [], acks := 0, txQ := [] }) }) d)

/-- The snapshot in flight fails with no path left (R367): OXBOW_DRAIN_FAILED; a waiting OXBOW_SNAPSHOT ends with SNAPSHOT_INVALID. One
that has committed only loses its verify block. -/
def drainFail (now : Nat) (d : Dev) : Dev :=
  match d.oxb.snap with
  | none => d
  | some s =>
    if s.committed then
      dropStage (modSnap (fun s => { s with stage := if s.stage = 5 then 6 else s.stage }) d)
    else
    oxbowBoot now (completeOpt now s.pkt stSnapshot 0
      (postEvent now 0x0051 (natLe 8 s.seq.toNat) (onOxb (fun o => { o with snap := none }) (dropStage d))))

/-- Change the restore in progress. (DEDUCED: LOG 55.) -/
def onRestore (f : Restore → Restore) (d : Dev) : Dev :=
  onHost (fun h => { h with longOp := match h.longOp with | some (i, .restore r) => some (i, .restore (f r)) | x => x }) d

/-- What waits for a port, or answers to it, on behalf of a peer's image is dropped with the port. -/
def dropPeer (p : Nat) (d : Dev) : Dev :=
  onOxb (fun o => { o with peerQ := o.peerQ.filter (fun x =>
    x.2.port != p && (match x.1 with | .peer a _ => a != p | .fetch a => a != p | _ => true)) }) d

/-- A port that loses its partner takes the drain and the restore that use it with it. -/
def oxbowLost (p now : Nat) (d0 : Dev) : Dev :=
  let d := dropPeer p d0
  let waits (w : Requester) : Bool := (portAt d p).pending.any (fun q => q.who == w)
  let d1 := if waits .oxbow || (match d.oxb.snap with
      | some s => s.txQ.any (fun q => q.port == p) || (s.stage == 1 && s.persist.any (fun q => q.port == p))
      | none => false)
    then drainFail now d else d
  let mine := match d.host.longOp with | some (_, .restore r) => r.txQ.any (fun q => q.port == p) | _ => false
  if waits .restore || mine then
    onRestore (fun r => { r with acks := 0, txQ := [], result := some (stLinkDown, 0) }) (forget .restore d1)
  else d1

/-- What a LINK_ATTACH that waits on a port ends with, and the end of its attestation. -/
def endAttest (p now st : Nat) (d : Dev) : Dev :=
  match (portAt d p).attest with
  | none => d
  | some a => completeOpt now a.pkt st 0 (modPort p (fun x => { x with attest := none }) d)

/-- A trace record of a port's retrain. -/
def tracePort (cyc p : Nat) (d : Dev) : Dev := traceRec cyc 4 0x07 4 (4 * (p / 4 / 3)) p d

/-- The accesses of a partner under way are not answered any more: its port is no longer ATTACHED. -/
def muteAccs (p : Nat) (d : Dev) : Dev :=
  onNear (fun n => { n with accs := n.accs.map (fun a => match a.who with | .partner q _ => if q = p then { a with txn := none } else a | _ => a) }) d

/-- The link is lost: DARK or FAILED, PORT_DOWN when it was UP, ATTACHED or INCOMPATIBLE, tasks get LINK_DOWN, a
LINK_ATTACH in progress ends with LINK_DOWN (R300, R311, R312, R314). -/
def linkLost (p now cause : Nat) (failed : Bool) (d : Dev) : Dev :=
  let x := portAt d p
  let was := x.state
  if was == .dark || was == .failed then d
  else
    let d1 := endAttest p now stLinkDown (oxbowLost p now (failTasks p stLinkDown (muteAccs p d)))
    let d2 := x.attachWait.foldl (fun d w => complete now w.1 stLinkDown 0 d) d1
    let d3 := modPort p (fun y => { state := if failed then .failed else .dark, lightIn := y.lightIn, lightRx := y.lightRx,
                                    fecCor := y.fecCor, replays := y.replays, retrains := y.retrains, since := now }) d2
    if was == .training then d3
    else
      let d4 := postEvent now 0x0032 (natLe 1 p ++ natLe 1 cause) d3
      if was == .attached then failureEvents now 1 d4 else d4

/-- A retrain in service begins (R300): SEQ and the replay buffer are kept. -/
def startPortRetrain (p now cyc : Nat) (d : Dev) : Dev :=
  let x := portAt d p
  if x.retraining || !(x.state == .up || x.state == .attached || x.state == .incompatible) then d
  else tracePort cyc p (modPort p (fun y =>
    { y with retraining := true, helloWait := false, since := now, retrains := satAdd 16 y.retrains 1, helloGot := [], uncorr := [],
             replayRun := 0 }) d)

/-! ### Receiving flits (R298 to R301) -/

/-- Sort a received transaction into its class; a reserved type is answered UNSUPPORTED (Table 12.9a). A port that is not ATTACHED carries
management transactions and nothing else (R293): anything else is discarded. (DEDUCED: LOG 123.) -/
def takeTxn (p now : Nat) (t : Txn) (d : Dev) : Dev :=
  if (portAt d p).state != .attached && t.ttype != 0x05 then
    match classOf t.ttype with
    | some c => modPort p (oweCredits c t) d
    | none => d
  else
  match classOf t.ttype with
  | some 0 => modPort p (fun x => { x with req := x.req ++ [t] }) d
  | some 1 => modPort p (fun x => { x with rsp := x.rsp ++ [t] }) d
  | some 2 => modPort p (fun x => { x with msg := x.msg ++ [t] }) d
  | some _ => modPort p (fun x => { x with coll := x.coll ++ [t] }) d
  | none => sendTxn p now { ttype := 0x11, tag := t.tag, status := 3 } d

/-- Take the whole transactions off the stream, on fuel. (DEDUCED: LOG 22.) -/
def streamGo : Nat → Nat → Nat → Dev → Dev
  | 0, _, _, d => d
  | n + 1, p, now, d =>
    match parseTxn (portAt d p).stream with
    | none => d
    | some (t, rest) => streamGo n p now (takeTxn p now t (modPort p (fun x => { x with stream := rest }) d))

/-- Resend every flit still in the replay buffer; the same SEQ replayed 8 times in a row starts a retrain
(R299, R300). -/
def replayAll (p now cyc : Nat) (d : Dev) : Dev :=
  let x := portAt d p
  match x.replayBuf with
  | [] => d
  | f :: _ =>
    let seq := f.seq
    let again := if x.replaySeq == some seq then x.replayRun + 1 else 1
    let d1 := modPort p (fun y =>
      { y with replaySeq := some seq, replayRun := again, replays := satAdd 16 y.replays x.replayBuf.length,
               replayBuf := y.replayBuf.map (fun f => { f with sent := now }) }) d
    let d2 := x.replayBuf.foldl (fun d f => putFlit p 1 f.seq false f.cred f.data now d) d1
    if again ≥ 8 then startPortRetrain p now cyc d2 else d2

/-- An ACKSEQ covers the flits of the replay buffer up to it. -/
def ackFlits (cyc seq : Nat) (x : Port) : Port :=
  match x.replayBuf.findIdx? (fun f => f.seq == seq) with
  | none => x
  | some i =>
    let n := ((x.replayBuf.take (i + 1)).filter (·.last)).length
    { x with replayBuf := x.replayBuf.drop (i + 1), msgAcked := x.msgAcked + n, msgAckAt := if n = 0 then x.msgAckAt else cyc,
             replaySeq := none, replayRun := 0 }

/-- A flit failed: it is discarded and NAK is sent once (R299). -/
def nakOnce (p now : Nat) (d : Dev) : Dev :=
  if (portAt d p).nakSent then d
  else emitFlit p 0 0 true [] now (modPort p (fun x => { x with nakSent := true }) d)

/-- The receiver acknowledges at least every 64 DATA flits (R299). -/
def ackDue (p now : Nat) (d : Dev) : Dev := if (portAt d p).sinceAck ≥ 64 then emitFlit p 0 0 false [] now d else d

/-- The DATA part of a good flit that follows no gap: in order it joins the stream, a duplicate is dropped. -/
def dataFlit (p now seq : Nat) (data : List Byte) (d : Dev) : Dev :=
  let x := portAt d p
  if seq = x.expSeq then
    let d1 := modPort p (fun y => { y with expSeq := (seq + 1) % 4096, lastGood := some seq, nakSent := false,
                                           sinceAck := y.sinceAck + 1, stream := y.stream ++ data }) d
    ackDue p now (streamGo ((portAt d1 p).stream.length / 16 + 1) p now d1)
  else emitFlit p 0 0 false [] now d

/-- The port exchanges flits: not in DARK and FAILED, nor in steps 3 to 6 of a retrain (R300). -/
def linkAlive (x : Port) : Bool := !(x.state == .dark || x.state == .failed) && !(x.retraining && !x.helloWait)

/-- The symbol errors an RS(544,514) codeword corrects (R295). -/
def fecBound : Nat := (544 - 514) / 2

/-- The active lane, 0 to 7, that a codeword's symbol is dealt to (R295). -/
def laneOfSymbol (i : Nat) : Nat := i % 8

/-- The lane that carries an active lane's symbols under a lane map (R297). -/
def laneCarrier (map : Option Nat) (lane : Nat) : Nat := if map = some lane then 8 else lane

/-- A lane carries symbols under a lane map: the idle lane 8 and a spared lane do not. -/
def laneInUse (map : Option Nat) (lane : Nat) : Bool := (List.range 8).any (fun i => laneCarrier map (laneOfSymbol i) == lane)

/-- A DATA flit that follows a gap in SEQ (R299). -/
def afterGap (x : Port) (seq : Nat) : Bool := seq != x.expSeq && decide (2048 < (x.expSeq + 4096 - seq) % 4096)

/-- A flit arrives. The codeword under way as it begins has so many symbol errors (0 where none is), those that begin within it these: up
to 15 FEC corrects, one with more fails every flit that touches it, and each counts with the flit it begins in (R295). A failed flit, or one behind a gap, is discarded whole (R299); a flit that was there before returns no credits again.
(DEDUCED: LOG 124.) -/
def receiveFlit (p : Nat) (flit : List Byte) (before : Nat) (errs : List Nat) (now cyc : Nat) (d : Dev) : Dev :=
  if !linkAlive (portAt d p) then d
  else
    let bad := (errs.filter (fun e => decide (fecBound < e))).length
    let d0 := modPort p (fun x => { x with
      fecCor := satAdd 32 x.fecCor (errs.filter (fun e => decide (0 < e) && decide (e ≤ fecBound))).length }) d
    if bad != 0 || fecBound < before then
      let d1 := nakOnce p now (modPort p (fun x =>
        { x with uncorr := x.uncorr.filter (fun t => decide (now < t + 100000)) ++ List.replicate bad now }) d0)
      if (portAt d1 p).uncorr.length > 16 then startPortRetrain p now cyc d1 else d1
    else if leNat ((flit.drop 248).take 8) != crc64 (flit.take 248) then nakOnce p now d0
    else
      let h := leNat (flit.take 6)
      let f (hi lo : Nat) : Nat := h / 2 ^ lo % 2 ^ (hi + 1 - lo)
      if f 47 44 = 1 && afterGap (portAt d p) (f 43 32) then nakOnce p now d0
      else
      let fresh := f 47 44 != 1 || f 43 32 == (portAt d p).expSeq
      let d1 := modPort p (fun x =>
        let y := if f 19 19 = 1 then ackFlits cyc (f 31 20) x else x
        { y with credits := addAt y.credits (f 17 16) (if fresh then f 7 0 else 0) }) d0
      let d2 := if f 18 18 = 1 then replayAll p now cyc d1 else d1
      let d3 := if f 47 44 = 1 then dataFlit p now (f 43 32) ((flit.drop 6).take (f 15 8)) d2 else d2
      pump p now d3

/-- FLIT_RECEIVE (R295, R298 to R301). -/
def execFlitReceive (p : Nat) (flit : List Byte) (before : Nat) (errs : List Nat) (s : State) : Out :=
  onDev s (fun pl d => if pl.alive && flit.length == 256 then receiveFlit p flit before errs pl.now pl.cyc d else d)

/-- ACK_TIMER (R299): 1 µs since the last acknowledgement with something to acknowledge or return. -/
def execAckTimer (p : Nat) (s : State) : Out :=
  onDev s (fun pl d =>
    let x := portAt d p
    if pl.alive && linkAlive x && decide (x.lastAck + 100 ≤ pl.now) && (x.sinceAck != 0 || x.owed.any (· != 0)) then
      emitFlit p 0 0 false [] pl.now d
    else d)

/-- REPLAY_TIMEOUT (R299): a flit has gone 20 µs without an acknowledgement. -/
def execReplayTimeout (p : Nat) (s : State) : Out :=
  onDev s (fun pl d =>
    let x := portAt d p
    if pl.alive && linkAlive x && !x.retraining && x.replayBuf.any (fun f => decide (f.sent + 2000 ≤ pl.now)) then
      replayAll p pl.now pl.cyc d
    else d)

/-! ### Training and loss -/

/-- LIGHT_DETECT (R293, R294): in DARK, what the laser input and the receive lanes show; with the laser input in range and light on at
least 8 lanes the port trains. The engine is powered and has not been stopped for heat (R424). -/
def execLightDetect (seen : PortLight) (s : State) : Out :=
  onDev s (fun pl d =>
    let p := seen.port
    if pl.alive && (portAt d p).state == .dark && pl.boot.engOn.toNat.testBit (p / 4) &&
        !pl.therm.offOut.toNat.testBit (p / 4) then
      (if seen.laser && seen.rx then startTraining p pl.now d
        else modPort p (fun y => { y with lightIn := seen.laser, lightRx := seen.rx }) d)
    else d)

/-- The profile of a HELLO's sender: LOOP for this part itself, PEER, MEMORY, none of them 0 (R310). -/
def helloProfile (hello : List Byte) : Nat :=
  let prof := (hello.getD 2 0#8).toNat
  if (hello.drop 16).take 32 == natLe 32 Config.ownId.toNat then 3 else if prof == 1 || prof == 2 then prof else 0

/-- The HELLO of a partner negotiates (R309, R310): agreed version, profile, usable capabilities; none when there is no
match. -/
def negotiate (hello : List Byte) : Option (Nat × Nat) :=
  let minv := (hello.getD 0 0#8).toNat
  let maxv := (hello.getD 1 0#8).toNat
  let v := min 2 maxv
  if v ≥ minv && helloProfile hello != 0 then some (v, helloProfile hello) else none

/-- The port takes what a HELLO told: PORT_CAP holds only features of the agreed version (R294). -/
def takeHello (hello : List Byte) (x : Port) : Port :=
  let y := { x with partner := (hello.drop 16).take 32, helloGot := hello }
  match negotiate hello with
  | none => { y with version := none, profile := helloProfile hello, capRed := 0, capPersist := false, capSparse := false }
  | some (v, prof) =>
    let cap := leNat ((hello.drop 4).take 8)
    { y with version := some v, profile := prof, capRed := if v ≥ 1 then BitVec.ofNat 7 cap else 0,
             capPersist := v ≥ 1 && cap.testBit 7, capSparse := v ≥ 2 && cap.testBit 8 }

/-- Training has passed and the partner's HELLO is here: UP, or INCOMPATIBLE (Table 12.5, steps 7 and 8). -/
def enterUp (p now : Nat) (d : Dev) : Dev :=
  let d1 := modPort p (fun x => { takeHello x.helloGot x with helloWait := false }) d
  let x := portAt d1 p
  if x.version.isSome then
    postEvent now 0x0030 (portPayload p x) (modPort p (fun y => { y with state := .up }) d1)
  else postEvent now 0x0031 (portPayload p x) (modPort p (fun y => { y with state := .incompatible }) d1)

/-- A laser input is out of its range (R290): LIGHT_IN clears, PORT_LASER_LOW, the port enters DARK. -/
def laserLow (p now : Nat) (d : Dev) : Dev :=
  modPort p (fun y => { y with lightIn := false, state := .dark }) (linkLost p now 0 false (postEvent now 0x0035 (natLe 1 p) d))

/-- The lane map of a direction, given its receive lanes below margin: none, or one active lane that lane 8 carries; with two or more
training fails (R297). -/
def laneMap (low : List Nat) : Option (Option Nat) :=
  match (List.range 9).filter low.contains with
  | [] => some none
  | [j] => some (if j < 8 then some j else none)
  | _ => none

/-- PORT_TRAINING_DONE (R296): steps 1 to 6 ended; with the partner's HELLO the port enters UP or INCOMPATIBLE, a failure
sends it to DARK or FAILED. -/
def execPortTrainingDone (p : Nat) (res : TrainResult) (s : State) : Out :=
  onDev s (fun pl d =>
    let x := portAt d p
    if !(pl.alive && x.state == .training) then d
    else
      match res with
      | .noLaser => laserLow p pl.now d
      | .noLight => modPort p (fun y => { y with lightRx := false }) (linkLost p pl.now 0 false d)
      | .failed => linkLost p pl.now 1 true d
      | .passed low tx =>
        match laneMap low with
        | none => linkLost p pl.now 1 true d
        | some rx =>
          if x.helloGot.isEmpty then modPort p (fun y => { y with rxSpare := rx, txSpare := tx, helloWait := true }) d
          else enterUp p pl.now (modPort p (fun y => { y with rxSpare := rx, txSpare := tx }) d))

/-- TRAINING_TIMEOUT (R296): 20 ms. -/
def execTrainingTimeout (p : Nat) (s : State) : Out :=
  onDev s (fun pl d =>
    let x := portAt d p
    if pl.alive && x.state == .training && decide (x.since + 2000000 ≤ pl.now) then linkLost p pl.now 1 true d else d)

/-- FAILED_RETRY_TIMER (R293): 100 ms after entering FAILED, with light the port trains again, without it is DARK; an
engine stopped for heat does not retrain (Table 16.5). -/
def execFailedRetryTimer (p : Nat) (light : Bool) (s : State) : Out :=
  onDev s (fun pl d =>
    let x := portAt d p
    if pl.alive && x.state == .failed && decide (x.since + 10000000 ≤ pl.now) && !pl.therm.offOut.toNat.testBit (p / 4) then
      (if light then startTraining p pl.now d else modPort p (fun y => { y with state := .dark, lightRx := false }) d)
    else d)

/-- LASER_INPUT_LOW (R290): LIGHT_IN clears, PORT_LASER_LOW, the port enters DARK. -/
def execLaserInputLow (p : Nat) (s : State) : Out :=
  onDev s (fun pl d =>
    if pl.alive && decide (p < 48) then laserLow p pl.now d else d)

/-- LIGHT_LOSS (R300): light absent for more than 1 ms. -/
def execLightLoss (p : Nat) (s : State) : Out :=
  onDev s (fun pl d =>
    let x := portAt d p
    if pl.alive && !(x.state == .dark || x.state == .failed) then
      modPort p (fun y => { y with lightRx := false }) (linkLost p pl.now 0 false d)
    else d)

/-- LANE_LOCK_LOSS (R300): a receive lane in use loses clock lock; the port retrains in service. -/
def execLaneLockLoss (p lane : Nat) (s : State) : Out :=
  onDev s (fun pl d => if pl.alive && laneInUse (portAt d p).rxSpare lane then startPortRetrain p pl.now pl.cyc d else d)

/-- RETRAIN_TIMEOUT (R300): a retrain not complete within 10 ms loses the link. -/
def execRetrainTimeout (p : Nat) (s : State) : Out :=
  onDev s (fun pl d =>
    let x := portAt d p
    if pl.alive && x.retraining && decide (x.since + 1000000 ≤ pl.now) then linkLost p pl.now 2 true d else d)

end Sys2Proof.Machine
end

