-- ==== Sys2Proof/Machine/Sluice.lean ====
section
/-! DEFINITION. Graphs, tasks and runs (09, 13): resources, order, dispatch, how a task ends, how a run stops. -/

namespace Sys2Proof.Machine

/-! ### Descriptors (R205 to R210) -/

/-- DECL. -/
def dDecl (desc : List W64) : Nat := fld (word desc 1) 47 0

/-- The rectangle of a TILE task: DIE0, NDIE, ROW0, NROWS, COL0, NCOLS (Table 9.4). -/
structure Rect where
  die0 : Nat
  ndie : Nat
  row0 : Nat
  nrows : Nat
  col0 : Nat
  ncols : Nat
deriving DecidableEq, Repr

/-- The tile set of a TILE descriptor. -/
def rectOf (desc : List W64) : Rect :=
  let w := word desc 3
  ⟨fld w 63 60, fld w 59 55, fld w 54 49, fld w 48 43, fld w 42 36, fld w 35 29⟩

/-- How many tiles a rectangle has. -/
def Rect.count (r : Rect) : Nat := r.ndie * r.nrows * r.ncols

/-- Die, row and column of tile index i (R206). -/
def Rect.at (r : Rect) (i : Nat) : Nat × Nat × Nat :=
  (r.die0 + i / (r.nrows * r.ncols), r.row0 + i / r.ncols % r.nrows, r.col0 + i % r.ncols)

/-- The logical tile number of tile index i (R12, R206). -/
def Rect.num (r : Rect) (i : Nat) : Nat :=
  let a := r.at i
  a.1 * 5000 + a.2.1 * 100 + a.2.2

/-- The rectangle holds a tile (R206). -/
def Rect.has (r : Rect) (die row col : Nat) : Bool :=
  decide (r.die0 ≤ die) && decide (die < r.die0 + r.ndie) && decide (r.row0 ≤ row) && decide (row < r.row0 + r.nrows) &&
    decide (r.col0 ≤ col) && decide (col < r.col0 + r.ncols)

/-- Two rectangles share a tile. -/
def Rect.meets (a b : Rect) : Bool :=
  windowsMeet a.die0 a.ndie b.die0 b.ndie && windowsMeet a.row0 a.nrows b.row0 b.nrows &&
    windowsMeet a.col0 a.ncols b.col0 b.ncols

/-- The site set of a task: dies, or 100 + q for hub q (R222). -/
def siteSet (desc : List W64) : List Nat :=
  if dKind desc == 1 then let r := rectOf desc; upFrom r.die0 r.ndie
  else if dKind desc == 2 then [dSite desc]
  else [100 + (dSite desc - 0x10)]

/-- Dispatch latency from p to t (R222): 2 cycles on one and the same die, else 9. -/
def lat (p t : List W64) : Nat :=
  if siteSet p == siteSet t && (siteSet p).length == 1 && decide ((siteSet p).headD 100 < 100) then 2 else 9

/-- The distinct predecessors of a task (R208). -/
def preds (g : Graph) (t : Nat) : List Nat := ((g.edges.filter (fun e => e.2 == t)).map (·.1)).eraseDups

/-- The successors of a task. -/
def succs (g : Graph) (t : Nat) : List Nat := ((g.edges.filter (fun e => e.1 == t)).map (·.2)).eraseDups

/-- Two tasks can never hold their resources together, move channels apart (R210, Table 9.3). -/
def conflict (a b : List W64) : Bool :=
  dKind a == dKind b &&
    match dKind a with
    | 1 => (rectOf a).meets (rectOf b)
    | 2 => dSite a == dSite b && dSub a == dSub b
    | 4 => dSite a == dSite b
    | _ => false

/-- An ingress point: BARRIER INGRESS, MARK SNAPSHOT, MARK MAINT (R216). -/
def isIngress (desc : List W64) : Bool :=
  (dKind desc == 6 && dSub desc == 1) || (dKind desc == 5 && (dSub desc == 0 || dSub desc == 3))

/-- A COLL uses a port. -/
def collUsesPort (desc : List W64) : Bool := fld (word desc 3) 47 0 != 0 || fld (word desc 4) 47 0 != 0

/-- A task that is untimed in Still mode (Table 9.7). -/
def isUntimed (desc : List W64) : Bool :=
  (dKind desc == 3 && (fld (word desc 2) 63 60 != 0 || fld (word desc 2) 59 56 != 0)) ||
    (dKind desc == 4 && collUsesPort desc)

/-- A timed task of a Still-mode run. -/
def isTimed (desc : List W64) : Bool := !isIngress desc && !isUntimed desc

/-! ### Runs -/

/-- The run in progress of a handle. -/
def runOf (d : Dev) (h : Nat) : Option Run := d.runs.find? (fun r => r.started && r.handle == h)

/-- Change the run in progress of a handle. -/
def modRun (h : Nat) (f : Run → Run) (d : Dev) : Dev :=
  { d with runs := d.runs.map (fun r => if r.started && r.handle == h then f r else r) }

/-- Change a graph. -/
def modGraph (h : Nat) (f : Graph → Graph) (d : Dev) : Dev := { d with graphs := tmod {} d.graphs h f }

/-- A task of a run. -/
def taskAt (r : Run) (t : Nat) : TaskRun := tget {} r.tasks t

/-- Task t of the run in progress of a handle. -/
def taskOf (d : Dev) (h t : Nat) : Option TaskRun := (runOf d h).map (fun r => taskAt r t)

/-- Run cycles since run cycle 0; they stop while the run is paused (R280, R334). -/
def runCycle (p : Plat) (r : Run) : Nat := (r.pausedAt.getD p.cyc) - r.cycle0 - r.slipPause

/-- The run is in Still mode. -/
def isStill (d : Dev) (r : Run) : Bool := (graphAt d r.handle).still

/-- A run in progress (R399): started, not ended. -/
def anyRun (d : Dev) : Bool := d.runs.any (·.started)

/-- The move channels of a hub that running MOVEs hold (R210). -/
def heldChannels (d : Dev) (site : Nat) : List Nat :=
  d.runs.flatMap (fun r => if r.started then
    (r.tasks.filter (fun e => e.2.st == .running && dKind (descOf (graphAt d r.handle) e.1) == 3 &&
      dSite (descOf (graphAt d r.handle) e.1) == site)).map (fun e => e.2.chan) else [])

/-- A move channel of a hub that no running MOVE of any run holds, lowest first (R210). -/
def freeChannel (d : Dev) (site : Nat) : Option Nat := (List.range 8).find? (fun c => !(heldChannels d site).contains c)

/-- How many move channels of a hub are free. -/
def freeCount (d : Dev) (site : Nat) : Nat := ((List.range 8).filter (fun c => !(heldChannels d site).contains c)).length

/-- The task's resources are free: no running task of its run holds one (no other run shares a die or a hub,
R214). -/
def resourcesFree (d : Dev) (r : Run) (g : Graph) (t : Nat) : Bool :=
  let desc := descOf g t
  !(r.tasks.any (fun e => e.2.st == .running && conflict desc (descOf g e.1))) &&
    (dKind desc != 3 || (freeChannel d (dSite desc)).isSome)

/-- Every predecessor has completed and its latency has passed (R209, R221, R222). -/
def predsDone (p : Plat) (r : Run) (g : Graph) (t : Nat) : Bool :=
  (preds g t).all (fun u => (taskAt r u).st == .ended &&
    decide ((taskAt r u).e + lat (descOf g u) (descOf g t) ≤ runCycle p r))

/-- The activity wave lets a TILE task go: cycle 768, and its highest row released (R215). -/
def waveBound (p : Plat) (r : Run) (desc : List W64) : Bool :=
  dKind desc != 1 ||
    (decide (768 ≤ runCycle p r) &&
      (!r.wave || decide ((rectOf desc).row0 + (rectOf desc).nrows ≤ r.rowsOut)))

/-- The segment of a task: the ingress points before it (R217). -/
def segmentOf (g : Graph) (t : Nat) : Nat :=
  ((List.range t).filter (fun u => isIngress (descOf g u))).length

/-- The run may dispatch (R224, R280). -/
def dispatching (r : Run) : Bool := r.started && !r.stopped && r.pausedAt.isNone

/-- A task of Flow mode is ready (R221). -/
def flowReady (p : Plat) (d : Dev) (r : Run) (g : Graph) (t : Nat) : Bool :=
  decide (t < g.tasks.length) && (taskAt r t).st == .waiting && predsDone p r g t && waveBound p r (descOf g t) &&
    resourcesFree d r g t

/-- Other tasks that are ready with t and would compete with it for one resource: tiles, an engine, a collective engine, or a move
channel of its hub (R210, R221). -/
def readyWith (p : Plat) (d : Dev) (r : Run) (g : Graph) (t : Nat) : List Nat :=
  let desc := descOf g t
  (List.range g.tasks.length).filter (fun u => u != t && flowReady p d r g u &&
    (conflict desc (descOf g u) || (dKind desc == 3 && dKind (descOf g u) == 3 && dSite desc == dSite (descOf g u))))

/-- How many tasks of those can hold their resource beside each other: the free move channels of a hub, else one. -/
def placesFor (d : Dev) (desc : List W64) : Nat := if dKind desc == 3 then freeCount d (dSite desc) else 1

/-- Tasks with which t competes for one resource, did it go now: for MOVEs, those that want the hub's last free move channel (R221). -/
def rivals (p : Plat) (d : Dev) (r : Run) (g : Graph) (t : Nat) : List Nat :=
  if placesFor d (descOf g t) ≤ 1 then readyWith p d r g t else []

/-- The Sluice dispatches task t now: in Flow mode when it is ready and the lower-numbered ready tasks that compete with it leave it a
place (R221); in Still mode at its segment start plus its scheduled offset (R219), an ingress point once every predecessor has
completed (R209, R217). (DEDUCED: LOG 122.) -/
def mayDispatch (p : Plat) (d : Dev) (r : Run) (g : Graph) (t : Nat) : Bool :=
  dispatching r && decide (t < g.tasks.length) && (taskAt r t).st == .waiting &&
    if g.still then
      segmentOf g t == r.segment && resourcesFree d r g t && waveBound p r (descOf g t) &&
        (preds g t).all (fun u => (taskAt r u).st == .ended) &&
        (isIngress (descOf g t) || runCycle p r == r.segStart + g.starts.getD t 0)
    else flowReady p d r g t && decide (((readyWith p d r g t).filter (fun u => decide (u < t))).length < placesFor d (descOf g t))

/-- The die in whose ring a task's hub records: hub q writes to the ring of die 4q (R351). -/
def dieOfTask (desc : List W64) : Nat :=
  let x := (siteSet desc).headD 0
  4 * ((if x ≥ 100 then x - 100 else x / 4) % 4)

/-- Trace a record of the Sluice (R351). -/
def traceSluice (p : Plat) (desc : List W64) (cls code payload : Nat) (d : Dev) : Dev :=
  traceRec p.cyc cls code 0 (dieOfTask desc) payload d

/-- Mark a task dispatched, with the tie counted when it won one (R221, R339), and its trace record. -/
def dispatchTask (p : Plat) (h t : Nat) (d : Dev) : Dev :=
  match runOf d h with
  | none => d
  | some r =>
    let g := graphAt d h
    let desc := descOf g t
    let tie := !g.still && !(rivals p d r g t).isEmpty
    let ch := if dKind desc == 3 then (freeChannel d (dSite desc)).getD 0 else 0
    let d1 := modTask h t (fun x => { x with st := .running, s := runCycle p r, chan := ch }) d
    let d2 := if tie then
        traceChoice p.cyc (dieOfTask desc) 0 0 0 t
          (modRun h (fun r => { r with tdcSluice := r.tdcSluice + 1 })
            { d1 with obs := { d1.obs with tdcSluice := satAdd 64 d1.obs.tdcSluice 1 } })
      else d1
    traceSluice p desc 0 0x01 (t + h * 2 ^ 20) d2

/-- Run a step of task t of handle h when the Sluice may dispatch it and its descriptor is of the step's kind. -/
def dispatchIf (h t : Nat) (kind : List W64 → Bool) (f : Plat → Run → Graph → List W64 → Dev → Dev) (p : Plat) (d : Dev) :
    Dev :=
  match runOf d h with
  | none => d
  | some r =>
    let g := graphAt d h
    let desc := descOf g t
    if p.alive && kind desc && mayDispatch p d r g t then f p r g desc (dispatchTask p h t d) else d

/-- A step on a running task of handle h. -/
def onRunning (h t : Nat) (kind : List W64 → Bool) (f : Plat → Run → Graph → List W64 → TaskRun → Dev → Dev) (p : Plat)
    (d : Dev) : Dev :=
  match runOf d h with
  | none => d
  | some r =>
    let g := graphAt d h
    let desc := descOf g t
    if p.alive && kind desc && (taskAt r t).st == .running && r.pausedAt.isNone then f p r g desc (taskAt r t) d else d

/-! ### How a task ends (R223, R224, R220) -/

/-- Statuses marked fatal (Table 9.10). -/
def isFatal (st : Nat) : Bool :=
  !(st == stOk || st == stOkFlags || st == stMiss || st == stSkew)

/-- The tiles that run, or ran, a TILE task, by physical number. -/
def tilesOf (d : Dev) (h t : Nat) : List (Nat × Tile) :=
  d.tiles.filter (fun e => e.2.handle == h && e.2.task == t && e.2.phase != .idle)

/-- The lowest number of some. -/
def lowest (l : List Nat) : Option Nat := l.foldl (fun a n => some (match a with | none => n | some m => min m n)) none

/-- DETAIL of a TILE task in which a tile stopped at an uncorrectable error, of its own or of the near tier (Table 6.6). -/
def memStop (ts : List Tile) : Option Nat :=
  lowest ((ts.filter (fun t => t.phase == .stopped .uncorrectable)).map (·.number) ++ ts.filterMap (·.nearErr))

/-- The flags of a TILE task: those of all its tiles (R149). -/
def tilesFlags (ts : List Tile) : Flags := ts.foldl (fun a t => a ||| t.tflags) fNone

/-- A TILE task takes over the digests of its tiles as they stand (R345). -/
def gatherTiles (h t : Nat) (d : Dev) : Dev :=
  let digs := (tilesOf d h t).foldl (fun m e => tins m e.2.index (BitVec.ofNat 64 e.2.crc)) []
  modTask h t (fun x => { x with tileDig := digs }) d

/-- Mark a tile failed: TILE_FAILED, and a failure-class event (R17, R361). (DEDUCED: LOG 33.) -/
def markTile (now cause k : Nat) (d : Dev) : Dev :=
  if d.geom.failed.contains k then d
  else failureEvents now 1 (markFailed now cause (k / 5100) (k % 5100 / 102) (k % 102) d)

/-- The tiles of a run's tasks let go of them, however the task ended: a tile that stopped at an uncorrectable error is marked failed
(R16, R17, R104). -/
def freeTiles (p : Plat) (h : Nat) (keep : Nat → Bool) (d : Dev) : Dev :=
  let mine (e : Nat × Tile) : Bool := e.2.handle == h && e.2.phase != .idle && !keep e.2.task
  let bad := (d.tiles.filter (fun e => mine e && e.2.phase == .stopped .uncorrectable)).map (·.1)
  let d1 := { d with tiles := d.tiles.map (fun e =>
      if mine e then
        (e.1, { e.2 with phase := .idle, passA := [], passB := [], dma := [], drains := [], held := [], flights := [],
                         jobs := [], bankAge := [], lastRan := some p.cyc }) else e) }
  bad.foldl (fun d k => markTile p.now 0 k d) d1

/-- The outstanding requests of a run's stopped tasks are forgotten: what they bring is delivered nowhere (R314). -/
def dropRequests (h : Nat) (gone : Nat → Bool) (d : Dev) : Dev :=
  dropAsks h gone { d with links := { d.links with ports := d.links.ports.map (fun e =>
      (e.1, { e.2 with pending := e.2.pending.filter (fun q =>
        match q.who with | .task h' t => !(h' == h && gone t) | _ => true) })) } }

/-- COLL_CANCEL goes out on the NEXT and PREV ports of a COLL that ends with a fatal status or is stopped (R327). -/
def sendCancel (now : Nat) (desc : List W64) (d : Dev) : Dev :=
  if dKind desc != 4 then d
  else
    let ps := bitsOf 48 (fld (word desc 3) 47 0 ||| fld (word desc 4) 47 0)
    ps.foldl (fun d p => if (portAt d p).state == .attached then
      sendTxn p now (mgmtTxn 0x06 (natLe 3 (fld (word desc 9) 23 0))) d else d) d

/-- The digest a task ends with (R345): its stream so far, then the task flags in 4 bytes; 0 for MARK and BARRIER. -/
def endDigest (desc : List W64) (x : TaskRun) (flags : Nat) : Nat :=
  match dKind desc with
  | 5 => 0
  | 6 => 0
  | 1 => crcFrom (crc64 (x.tileDig.flatMap (fun e => natLe 8 e.2.toNat))) (natLe 4 flags)
  | 2 => crcFrom x.work.crc (natLe 4 flags)
  | _ => crcFrom (crc64 (x.work.pieces.flatMap (·.2))) (natLe 4 flags)

/-- The tiles of the TILE tasks among some (R347, R348). -/
def tileCount (l : List (List W64)) : Nat := l.foldl (fun a w => if dKind w = 1 then a + (rectOf w).count else a) 0

/-- Change the lock-step progress of a run. -/
def modLock (h : Nat) (f : Lock → Lock) (d : Dev) : Dev := modRun h (fun r => { r with lock := r.lock.map f }) d

/-- The 16 bytes of a task's LS_DIGEST entry (Table 13.6). -/
def lsEntry (r : Run) (t : Nat) : List Byte :=
  let x := taskAt r t
  natLe 4 t ++ natLe 2 x.status ++ natLe 2 0 ++ natLe 8 x.digest.toNat

/-- Send the entries not yet sent, in batches of at most 256, on fuel. -/
def flushGo : Nat → Nat → Nat → Dev → Dev
  | 0, _, _, d => d
  | f + 1, now, h, d =>
    match runOf d h with
    | none => d
    | some r =>
      match r.lock with
      | none => d
      | some l =>
        if l.unsent.isEmpty then d
        else
          let b := l.unsent.take 256
          flushGo f now h (sendTxn d.obs.ls.port now (mgmtTxn 0x12 (b.flatMap (lsEntry r)))
            (modLock h (fun l => { l with unsent := l.unsent.drop 256, sent := l.sent + b.length }) d))

/-- Send the pending entries (R348). -/
def flushEntries (now h : Nat) (d : Dev) : Dev :=
  match runOf d h with
  | none => d
  | some r => flushGo ((r.lock.map (fun l => l.unsent.length / 256 + 1)).getD 0) now h d

/-- A task of a lock-step run completed (R348): its entry is recorded, its tile digests are written to the digest area, and 256
pending entries are sent. -/
def lockEntry (now h t : Nat) (d : Dev) : Dev :=
  match runOf d h with
  | none => d
  | some r =>
    match r.lock with
    | none => d
    | some l =>
      let g := graphAt d h
      let d1 := modLock h (fun l => { l with unsent := l.unsent ++ [t], heard := now }) d
      let d2 := if dKind (descOf g t) = 1 then
          (taskAt r t).tileDig.foldl (fun d e => nearWrite (d.obs.ls.dbase + 8 * (tileCount (g.tasks.take t) + e.1)) (natLe 8 e.2.toNat) d) d1
        else d1
      if l.unsent.length + 1 ≥ 256 then flushEntries now h d2 else d2

/-- End a task of itself with a status and DETAIL in run cycle e. A fatal status stops dispatch (R224); a
MEM_UNCORRECTABLE ending is a failure-class event (R361). -/
def endTaskAt (p : Plat) (h t e st detail flags : Nat) (d : Dev) : Dev :=
  match runOf d h with
  | none => d
  | some _ =>
    let desc := descOf (graphAt d h) t
    let d1 := modTask h t (fun x => { x with st := .ended, e := e, status := st, detail := detail,
                                             digest := BitVec.ofNat 64 (endDigest desc x flags) }) d
    let d2 := lockEntry p.now h t (traceSluice p desc 0 0x02 (t + h * 2 ^ 20 + st * 2 ^ 32) d1)
    let d3 := if isFatal st then sendCancel p.now desc (modRun h (fun r => { r with stopped := true }) d2) else d2
    dropAsks h (fun u => u == t) (if st = stMem then failureEvents p.now 1 d3 else d3)

/-- End a task of itself in the present cycle. -/
def endTask (p : Plat) (h t st detail flags : Nat) (d : Dev) : Dev :=
  match runOf d h with
  | none => d
  | some r => endTaskAt p h t (runCycle p r) st detail flags d

/-! ### The writes of engines (R247, R248, R345) -/

/-- Writes of an engine that follow one another in address are one run of output bytes. -/
def joinPuts (l : List Put) : List (Nat × List Byte) :=
  l.foldl (fun a q =>
    match a.getLast? with
    | some x => if x.1 + x.2.length = q.addr then a.dropLast ++ [(x.1, x.2 ++ q.data)] else a ++ [(q.addr, q.data)]
    | none => [(q.addr, q.data)]) []

/-- Bytes cut into pieces of some lengths, the last taking what is left: destination, LEN, bytes sent of each (R345). -/
def cutRecords : List Nat → Nat → List Byte → List Byte
  | [], a, b => if b.isEmpty then [] else natLe 8 a ++ natLe 8 b.length ++ b
  | n :: ns, a, b =>
    if n = 0 || b.length ≤ n then cutRecords ns a b
    else natLe 8 a ++ natLe 8 n ++ b.take n ++ cutRecords ns (a + n) (b.drop n)

/-- The digest stream of an engine's writes (R345), those of SCATTER-ADD in ascending row. (DESIGN CHOICE: LOG 13.) -/
def engineStream (desc : List W64) (l : List Put) : List Byte :=
  let mode := fld (word desc 2) 63 60
  let l1 := if dSub desc = 1 ∧ mode = 1 then l.mergeSort (fun a b => decide (a.addr ≤ b.addr)) else l
  (joinPuts l1).flatMap (fun x => cutRecords (Config.engineCuts (dSub desc) mode x.1 x.2.length) x.1 x.2)

/-- What the writes of an engine do: the device, the flags and the poisoned elements of its reduce-writes, the ranges its plain writes
cover. -/
structure PutRes where
  dev : Dev
  flags : Flags := 0
  bad : List (Nat × Nat × Nat) := []
  spans : List (Nat × Nat) := []
deriving DecidableEq, Repr

/-- One write of an engine. -/
def doPut (p : Plat) (still : Bool) (hint h : Nat) (x : PutRes) (q : Put) : PutRes :=
  match q.rt with
  | none => { x with dev := writePieces hint still q.addr q.data x.dev, spans := joinSpan q.addr q.data.length x.spans }
  | some rt =>
    let r := reduceWrite p 1 hint rt still (some h) q.addr q.data x.dev
    { x with dev := r.1, flags := x.flags ||| r.2.flags, bad := x.bad ++ r.2.bad }

/-- Make writes of an ENGINE task: its flags, the lowest DETAIL of all errors it met (R248, R273), its digest stream. -/
def makePuts (p : Plat) (h t : Nat) (l : List Put) (d : Dev) : Dev :=
  let g := graphAt d h
  let desc := descOf g t
  let r := l.foldl (doPut p g.still (fld (word desc 2) 47 46) h) { dev := d }
  let fate (f : Option (Nat × Nat)) : Option (Nat × Nat) :=
    match lowDetail r.bad with
    | none => f
    | some v => some (stMem, match f with | some (s, u) => if s = stMem then min u v else v | none => v)
  modTask h t (fun x => { x with work := { x.work with
    flags := x.work.flags ||| r.flags, puts := [], crc := crc64 (engineStream desc l), fate := fate x.work.fate } })
    (sealWrites p.cyc r.spans r.dev)

/-- An ENGINE task is stopped from outside, or at its limit: how many of its writes it has made the spec does not say. (DESIGN CHOICE:
LOG 121.) -/
def cutPuts (p : Plat) (h t : Nat) (d : Dev) : Dev :=
  match taskOf d h t with
  | none => d
  | some x =>
    if x.work.puts.isEmpty then d
    else let k := freeVal 64 d; makePuts p h t (x.work.puts.take k.1.toNat) k.2

/-- End a task before its tiles have all reached their end, with the digests and flags of what they did (R343, R345); one in which a
tile has stopped at an uncorrectable error ends with MEM_UNCORRECTABLE (R104). (DEDUCED: LOG 120.) -/
def cutTask (p : Plat) (h t st detail : Nat) (d : Dev) : Dev :=
  let ts := (tilesOf d h t).map (·.2)
  let d1 := gatherTiles h t (cutPuts p h t d)
  let fl := (match taskOf d1 h t with | some x => x.work.flags | none => fNone) ||| tilesFlags ts |>.toNat
  match memStop ts with
  | some v => endTask p h t stMem v fl d1
  | none => endTask p h t st detail fl d1

/-- Stop the running tasks that `which` tells of a run from outside (R220, R225, R226): STATE 2, after a power failure with
POWER_FAIL_ABORT (R370); a TILE task in which a tile has stopped at an uncorrectable error ends of itself with MEM_UNCORRECTABLE
(R104, R225). (DEDUCED: LOG 43, LOG 120.) -/
def stopTasks (p : Plat) (h st : Nat) (which : Nat → Bool) (d : Dev) : Dev :=
  match runOf d h with
  | none => d
  | some r =>
    let g := graphAt d h
    let running := (r.tasks.map (·.1)).filter (fun t => (taskAt r t).st == .running && which t)
    let d1 := running.foldl (fun d t =>
      if (memStop ((tilesOf d h t).map (·.2))).isSome then cutTask p h t stMem 0 d
      else sendCancel p.now (descOf g t) (modTask h t (fun x => { x with st := .stopped, status := st }) (cutPuts p h t d))) d
    dropRequests h (fun t => running.contains t) (freeTiles p h (fun t => !which t) d1)

/-- Everything of a run that still runs. -/
def everyTask : Nat → Bool := fun _ => true

/-- The run breaks with STILL_BREAK on task t in run cycle e (R220): the task ends so, everything else of the run stops. -/
def breakRun (p : Plat) (h t detail : Nat) (d : Dev) : Dev :=
  stopTasks p h 0 everyTask (modRun h (fun r => { r with broken := true, stopped := true })
    (freeTiles p h (fun u => u != t) (cutTask p h t stBreak detail d)))

/-- The lowest logical number among the tiles of a TILE task that were not at their end before a run cycle; 0 for other kinds. -/
def lateTile (d : Dev) (r : Run) (h t due : Nat) : Nat :=
  (lowest (((tilesOf d h t).filter (fun e => decide (due ≤ e.2.endCycle - r.cycle0 - r.slipPause))).map (·.2.number))).getD 0

/-- End a task that ran, with its completion cycle E: in Still mode a timed task that does not complete in S + DECL breaks the run
(R220); one that ends with MEM_UNCORRECTABLE or at dispatch is exempt. -/
def finishTaskAt (p : Plat) (h t e st detail flags : Nat) (d : Dev) : Dev :=
  match runOf d h with
  | none => d
  | some r =>
    let g := graphAt d h
    let desc := descOf g t
    let x := taskAt r t
    let due := x.s + dDecl desc
    if g.still && isTimed desc && dDecl desc != 0 && st != stMem && !x.work.atDispatch && e != due then
      breakRun p h t (if e < due then due - e else 2 ^ 31 + lateTile d r h t due) d
    else endTaskAt p h t e st detail flags d

/-- End a task that ran in the present cycle. -/
def finishTask (p : Plat) (h t st detail flags : Nat) (d : Dev) : Dev :=
  match runOf d h with
  | none => d
  | some r => finishTaskAt p h t (runCycle p r) st detail flags d

/-- Give a task its end at dispatch (R223): it transfers nothing and holds its resources for one cycle. -/
def failAtDispatch (h t st detail : Nat) (d : Dev) : Dev :=
  modTask h t (fun x => { x with work := { x.work with fate := some (st, detail), atDispatch := true } }) d

/-- OK_WITH_FLAGS when a flag of the mask is set, else OK (R248, R271, R329). -/
def flagStatus (mask f : Flags) : Nat := if (f &&& mask) != 0#9 then stOkFlags else stOk

/-- The graphs that use a quadrant: hub q in QUAD_MASK or one of its dies in DIE_MASK (R399). -/
def involves (g : Graph) (q : Nat) : Bool :=
  g.quadMask.toNat.testBit q || (List.range 4).any (fun j => g.dieMask.toNat.testBit (4 * q + j))

/-- A quadrant of the graph's resource set is draining or drained, or a die of it is unavailable (R214). -/
def resourceGone (d : Dev) (g : Graph) : Bool :=
  (List.range 4).any (fun q => involves g q && ((quadAt d q).state == .draining || (quadAt d q).state == .drained)) ||
    (g.dieMask &&& ~~~ d.geom.dieAvail) != 0#16

/-- A task stops in the cycle after an abort: every kind but MOVE and COLL, which stop after transfer units (R226). -/
def stopsNext (g : Graph) (t : Nat) : Bool := dKind (descOf g t) != 3 && dKind (descOf g t) != 4

/-- The tasks of aborted runs stop whose cycle has come (R226). -/
def abortsLand (p : Plat) (d : Dev) : Dev :=
  d.runs.foldl (fun d r =>
    if r.started && (match r.stopAt with | some c => decide (c ≤ p.cyc) | none => false) then
      stopTasks p r.handle 0 (stopsNext (graphAt d r.handle)) (modRun r.handle (fun r => { r with stopAt := none }) d)
    else d) d

end Sys2Proof.Machine
end

