-- ==== Sys2Proof/Machine/TileOps.lean ====
section
/-! DEFINITION. What every tile instruction shares (04, 08): the tile's memories with their check bits, interlocks, issue,
neighbours, stopping. -/

namespace Sys2Proof.Machine

/-- A tile by its physical number. -/
def tileAt (d : Dev) (k : Nat) : Tile := tget {} d.tiles k

/-- Change a tile. -/
def modTile (k : Nat) (f : Tile → Tile) (d : Dev) : Dev := { d with tiles := tmod {} d.tiles k f }

/-- The NCW of the tile's task. -/
def Tile.n (t : Tile) : Ncw := ncwOf t.ncw

/-! ### Local SRAM (R191, R103) -/

/-- A little-endian number in local SRAM. -/
def Tile.rd (t : Tile) (a n : Nat) : Nat := readLe t.sram a n

/-- A read of a range meets an uncorrectable word. -/
def Tile.badRead (t : Tile) (a n : Nat) : Bool := !t.sram2.isEmpty && (wordsOf a n).any t.sram2.contains

/-- A write of a range meets an uncorrectable word it does not replace whole. -/
def Tile.badWrite (t : Tile) (a n : Nat) : Bool :=
  !t.sram2.isEmpty && (wordsOf a n).any (fun w => t.sram2.contains w && !(decide (a ≤ 8 * w) && decide (8 * w + 8 ≤ a + n)))

/-- Corrected words of a read are counted (R103). -/
def Tile.countRead (a n : Nat) (t : Tile) : Tile :=
  if t.sram1.isEmpty then t
  else { t with corrected := satAdd 64 t.corrected ((wordsOf a n).filter t.sram1.contains).length }

/-- Write bytes: words written whole lose their errors, words written in part their single-bit errors, which the merge corrects
and counts; a word with an uncorrectable error written in part stays (R103). -/
def Tile.wr (a : Nat) (bs : List Byte) (t : Tile) : Tile :=
  if t.sram1.isEmpty && t.sram2.isEmpty then { t with sram := writeBytes t.sram a bs }
  else
    let ws := wordsOf a bs.length
    let whole (w : Nat) : Bool := decide (a ≤ 8 * w) && decide (8 * w + 8 ≤ a + bs.length)
    let kept (w : Nat) : Bool := t.sram2.contains w && !whole w
    let m := (List.range bs.length).foldl (fun m i =>
      if kept ((a + i) / 8) then m else writeByte m (a + i) (bs.getD i 0#8)) t.sram
    { t with corrected := satAdd 64 t.corrected (ws.filter (fun w => t.sram1.contains w && !whole w)).length,
             sram := m, sram1 := t.sram1.filter (fun w => !ws.contains w),
             sram2 := t.sram2.filter (fun w => !(ws.contains w && whole w)) }

/-- Write a little-endian number. -/
def Tile.wrLe (a n v : Nat) (t : Tile) : Tile := t.wr a (natLe n v)

/-! ### Accumulator slots (R95) -/

/-- The number of a slot's 128 bits in a cell. -/
def slotKey (arr slot cell : Nat) : Nat := (arr * 16 + slot) * 64 + cell

/-- The field of a slot of w bits in a cell (w = 0: the FP32 register). -/
def Tile.slotGet (t : Tile) (w arr slot cell : Nat) : Nat :=
  if w ≤ 128 then (tget 0#128 t.acc (slotKey arr slot cell)).toNat
  else (List.range (w / 128)).foldl (fun a i => a + (tget 0#128 t.acc (slotKey arr (slot + i) cell)).toNat * 2 ^ (128 * i)) 0

/-- The words of accumulator memory that a slot of w bits has in a cell. -/
def slotWords (w arr slot cell : Nat) : List Nat :=
  (List.range (if w ≤ 128 then 1 else w / 128)).map (fun i => slotKey arr (slot + i) cell)

/-- Write the field of a slot; the words it replaces lose their errors (R103). -/
def Tile.slotSet (w arr slot cell v : Nat) (t : Tile) : Tile :=
  let n := if w ≤ 128 then 1 else w / 128
  let clean (l : List Nat) : List Nat := if l.isEmpty then l else l.filter (fun x => !(slotWords w arr slot cell).contains x)
  { t with acc := (List.range n).foldl (fun m i =>
             tset 0#128 m (slotKey arr (slot + i) cell) (BitVec.ofNat 128 (v / 2 ^ (128 * i)))) t.acc,
           acc1 := clean t.acc1, acc2 := clean t.acc2 }

/-- A read of a slot in some cells meets an uncorrectable word (R104). -/
def slotBad (t : Tile) (w arr slot : Nat) (cells : List Nat) : Bool :=
  !t.acc2.isEmpty && cells.any (fun c => (slotWords w arr slot c).any t.acc2.contains)

/-- Corrected words of a read of a slot in some cells are counted (R103). -/
def Tile.countSlot (w arr slot : Nat) (cells : List Nat) (t : Tile) : Tile :=
  if t.acc1.isEmpty then t
  else { t with corrected := satAdd 64 t.corrected ((cells.flatMap (slotWords w arr slot)).filter t.acc1.contains).length }

/-- The 64 cells of an array. -/
def allCells : List Nat := List.range 64

/-- The pattern a slot takes when it becomes NaR, or the canonical NaN in FP32 form. -/
def narField (w : Nat) : Nat := if w = 0 then nanBits .fp32 else 2 ^ (w - 1)

/-- A slot's field is NaR or NaN. -/
def isNarField (w v : Nat) : Bool := if w = 0 then numNar (decode .fp32 true v) else v == 2 ^ (w - 1)

/-- Exponent of a quire's least significant weight (R37). -/
def quireLsb (w : Nat) : Int := if w = 128 then -48 else if w = 256 then -112 else -240

/-- The value of a slot's field with its anchor (R66); FP32 form has none. -/
def fieldValue (w v : Nat) (anchor : Int) : Num :=
  if w = 0 then decode .fp32 true v
  else if isNarField w v then .nar
  else numOfInt false (signedField w v) (quireLsb w + anchor)

/-- The anchor of a slot. -/
def Tile.anchorOf (t : Tile) (arr slot : Nat) : Int := tget 0 t.anchor (arr * 16 + slot)

/-- Cut a value m * 2^e at weight 2^q, toward -infinity; whether a bit was lost (R67 case 2). -/
def floorAt (m e q : Int) : Int × Bool :=
  if q ≤ e then (m * 2 ^ (e - q).toNat, false)
  else
    let k := 2 ^ (q - e).toNat
    (m / k, m % k != 0)

/-- Add a finite value to a quire field of w bits with an anchor: R67, R38. A NaR field stays and raises nothing (R114). -/
def quireAdd (w : Nat) (anchor : Int) (field : Nat) (v : Int × Int) : Nat × Flags :=
  if isNarField w field then (field, fNone)
  else
    let c := floorAt v.1 v.2 (quireLsb w + anchor)
    let r := quireSum w field (intBits w c.1)
    let big := c.1 ≥ (2 ^ (w - 1) : Int) ∨ c.1 < -(2 ^ (w - 1) : Int)
    let x := signedField w field + c.1
    let out := x ≤ -(2 ^ (w - 1) : Int) ∨ x ≥ (2 ^ (w - 1) : Int)
    let fl := flagIf c.2 (fUnderflow ||| fInexact)
    if big ∨ intBits w c.1 = 2 ^ (w - 1) then
      (if out then (narField w, fl ||| fQuireOvf) else (intBits w x, fl))
    else (r.1, fl ||| r.2)

/-- Make a field NaR for a non-finite value; INVALID for an infinity unless it is NaR already (R39, R114). -/
def quireExc (w field : Nat) (inf : Bool) : Nat × Flags :=
  if isNarField w field then (field, fNone) else (narField w, flagIf inf fInvalid)

/-! ### Passes and interlocks (R97, R194) -/

/-- The passes of an array. -/
def Tile.passes (t : Tile) (arr : Nat) : List Pass := if arr = 0 then t.passA else t.passB

/-- Replace the passes of an array. -/
def Tile.setPasses (arr : Nat) (l : List Pass) (t : Tile) : Tile := if arr = 0 then { t with passA := l } else { t with passB := l }

/-- Groups of a pass. -/
def Pass.groups (q : Pass) (n : Ncw) : Nat := q.kcnt / n.glen

/-- The LUT of an array. -/
def Tile.lut (t : Tile) (arr : Nat) : Lut := if arr = 0 then t.lutA else t.lutB

/-- Change the LUT of an array. -/
def Tile.setLut (arr : Nat) (l : Lut) (t : Tile) : Tile := if arr = 0 then { t with lutA := l } else { t with lutB := l }

/-- Two ranges share a byte. -/
def rangesMeet (a b : Nat × Nat) : Bool := decide (a.1 < b.1 + b.2) && decide (b.1 < a.1 + a.2)

/-- The ranges of its own SRAM that a pass reads: its streams' and its bias vector. -/
def passReads (n : Ncw) (q : Pass) : List (Nat × Nat) :=
  let side (s : Side) (d : Option DataStream) (c : Option ScaleStream) : List (Nat × Nat) :=
    match d with
    | none => []
    | some x => (if x.src = 0 then dataRanges s.fmt x q.kcnt else []) ++
        (match c with | some y => if y.src = 0 then scaleRanges s y x q.kcnt else [] | none => [])
  side n.a q.dA q.sA ++ side n.b q.dB q.sB ++ q.biasAt.toList

/-- The ranges of instructions whose last write is still to come in a cycle. -/
def flightAccess (cyc : Nat) (l : List Flight) : List Access :=
  (l.filter (fun f => decide (cyc ≤ f.last))).flatMap (fun f => f.acc.map (fun a => ⟨a.1, a.2.1, a.2.2, 1⟩))

/-- What the running instructions of a tile read and write in a cycle: passes, DRAINs, and what has issued and not yet made
its last write. -/
def runningAccess (cyc : Nat) (t : Tile) : List Access :=
  let n := t.n
  ((t.passA ++ t.passB).flatMap (passReads n)).map (fun r => ⟨false, r.1, r.2, 1⟩) ++
    t.drains.flatMap (fun x => accesses n x.regs x.ws) ++ flightAccess cyc t.flights

/-- An instruction's ranges meet one of an earlier instruction still running, one of the two writing (R194). (DEDUCED: LOG 99.) -/
def rangeConflict (cyc : Nat) (t : Tile) (l : List Access) : Bool :=
  (runningAccess cyc t).any (fun x => l.any (fun y => (x.wr || y.wr) && rangesMeet (x.addr, x.len) (y.addr, y.len)))

/-- An instruction waits for the ranges of earlier ones (R194); a DMA's are not recorded, so it waits only for DRAINs
that write what it sends (R147). -/
def mustWait (cyc : Nat) (t : Tile) (ws : List W64) (l : List Access) : Bool :=
  if opOf (wd ws 0) = 0x90 then
    (t.drains.flatMap (fun x => accesses t.n x.regs x.ws) ++
        flightAccess cyc (t.flights.filter (fun f => f.unit == 6 || f.unit == 7))).any (fun x =>
      x.wr && l.any (fun y => !y.wr && rangesMeet (x.addr, x.len) (y.addr, y.len)))
  else rangeConflict cyc t l

/-- What of some ranges a flight records. -/
def flightRanges (l : List Access) : List (Bool × Nat × Nat) := l.map (fun a => (a.wr, a.addr, a.len))

/-- Record that something runs on a unit until a cycle; what has made its last write is dropped. -/
def Tile.fly (cyc unit last : Nat) (l : List Access) (t : Tile) : Tile :=
  { t with flights := t.flights.filter (fun f => decide (cyc ≤ f.last)) ++ [⟨unit, last, flightRanges l⟩] }

/-- Nothing on the units asked for is still to write in a cycle. -/
def landed (cyc : Nat) (units : Nat → Bool) (t : Tile) : Bool :=
  t.flights.all (fun f => !units f.unit || decide (f.last < cyc))

/-! ### When slots are final (R97, R99, R154, R184) -/

/-- Number of a slot index. -/
def slotNo (arr slot : Nat) : Nat := arr * 16 + slot

/-- The latest of what is kept for the n indices from a slot. -/
def slotTime (t : Tile) (arr slot n : Nat) : SlotTime :=
  (upFrom slot n).foldl (fun a i =>
    let x := tget {} t.slotTimes (slotNo arr i)
    { first := max a.first x.first, last := max a.last x.last, qop := max a.qop x.qop, row := max a.row x.row,
      mma := max a.mma x.mma, init := max a.init x.init, write := max a.write x.write }) {}

/-- Change what is kept for the n indices from a slot. -/
def Tile.onSlots (arr slot n : Nat) (f : SlotTime → SlotTime) (t : Tile) : Tile :=
  { t with slotTimes := (upFrom slot n).foldl (fun m i => tmod {} m (slotNo arr i) f) t.slotTimes }

/-- A pass with its first anti-diagonal final at the end of a cycle leaves its slot final 14 cycles later (R100). -/
def slotByPass (f : Nat) (x : SlotTime) : SlotTime :=
  { x with first := f, last := f + 14, qop := max x.qop (f + 7), row := max x.row (f + 15) }

/-- A slot written row by row or as a whole, final from `first` to `last`, its rows read by a QOP from `qop`. -/
def slotWritten (first last qop mma : Nat) (x : SlotTime) : SlotTime :=
  { x with first := first, last := last, qop := max x.qop qop, row := max x.row (last + 1), mma := max x.mma mma }

/-- A slot read up to a cycle: an MMA that initialises it issues afterwards. -/
def slotRead (last : Nat) (x : SlotTime) : SlotTime := { x with init := max x.init (last + 1) }

/-- A DRAIN of a slot is accepted: what waits for it issues afterwards (R147). -/
def slotAccepted (cyc : Nat) (x : SlotTime) : SlotTime :=
  { x with write := max x.write (cyc + 1), init := max x.init (cyc + 1) }

/-- What a QOP, ROW.RESCALE or ROW.DIV that issues in a cycle leaves on its slots. -/
def slotsIssue (cyc : Nat) (ws : List W64) (t : Tile) : Tile :=
  let w := wd ws 0
  let w1 := wd ws 1
  let n := t.n
  let read := cyc + (if qopWide n w then 15 else 8)
  match opOf w with
  | 0x40 =>
    match qSub w with
    | 0 => ((t.onSlots (qArrS w) (qSlotS w) n.span (slotRead read)).onSlots (qArrD w) (qSlotD w) n.span
        (fun x => slotRead read (slotWritten (cyc + 2) (cyc + 9) cyc 0 x)))
    | 1 => t.onSlots (qArrD w) (qSlotD w) n.span (fun x => slotRead read (slotWritten (cyc + 2) (cyc + 9) cyc 0 x))
    | 2 =>
      let l := cyc + (qopTime n ws).2
      t.onSlots (qArrD w) (qSlotD w) n.span (fun x => slotRead read (slotWritten (l - 7) l cyc 0 x))
    | _ => t.onSlots (qArrD w) (qSlotD w) n.span (slotRead read)
  | 0x70 =>
    let l := cyc + (rowTime ws).1 + (rowTime ws).2
    let on (k : Nat) (f : SlotTime → SlotTime) : Tile :=
      ([0, 1].filter (fun a => (rMask w1).testBit a)).foldl (fun t a => t.onSlots a (rSlot w1) k f) t
    if rOp w = 3 then on (rCount w1) (slotWritten l l l (l + 1))
    else if rOp w = 4 then on n.span (slotRead (cyc + 8)) else t
  | _ => t

/-- Slot indices that two uses share. -/
def slotsMeet (a an b bn : Nat) : Bool := windowsMeet a an b bn

/-- A pass into the slots is unfinished. -/
def slotInPass (t : Tile) (arr slot cnt : Nat) : Bool := (t.passes arr).any (fun q => slotsMeet q.slot t.n.span slot cnt)

/-- A DRAIN of the slots is not yet accepted. -/
def slotInDrain (t : Tile) (arr slot cnt : Nat) : Bool :=
  t.drains.any (fun x => drArr (wd x.ws 0) == arr && slotsMeet (drSlot (wd x.ws 0)) t.n.span slot cnt)

/-- The slots a QOP names: its destination, and the source of a QADD. -/
def qopSlots (w : W64) : List (Nat × Nat) := (qArrD w, qSlotD w) :: (if qSub w = 0 then [(qArrS w, qSlotS w)] else [])

/-- A QOP names slots of these. -/
def qopNames (n : Ncw) (w : W64) (arr slot cnt : Nat) : Bool :=
  (qopSlots w).any (fun x => x.1 == arr && slotsMeet x.2 n.span slot cnt)

/-- A QOP that names the slots has yet to act on some cells. -/
def slotHeld (t : Tile) (arr slot cnt : Nat) : Bool := t.held.any (fun h => qopNames t.n (wd h.ws 0) arr slot cnt)

/-- Nothing earlier is still to write the slots. -/
def slotIdle (t : Tile) (arr slot cnt : Nat) : Bool := !slotInPass t arr slot cnt && !slotHeld t arr slot cnt

/-- The slots are free for an instruction that writes them. -/
def slotFree (t : Tile) (arr slot cnt : Nat) : Bool := slotIdle t arr slot cnt && !slotInDrain t arr slot cnt

/-! ### Issue (R172) -/

/-- The words from the next instruction on. -/
def Tile.cur (t : Tile) : List W64 := t.store.drop t.pc

/-- The run of a tile is in progress and not paused. -/
def tileRuns (d : Dev) (t : Tile) : Bool :=
  match runOf d t.handle with | none => false | some r => r.pausedAt.isNone

/-- A tile's sequencer may issue now. -/
def mayIssue (p : Plat) (d : Dev) (t : Tile) : Bool :=
  p.alive && t.phase == .running && decide (t.notBefore ≤ p.cyc) && decide (t.pc < t.store.length) && tileRuns d t

/-- Count in a 32-bit saturating counter of the tile (R341). -/
def Tile.count (i n : Nat) (t : Tile) : Tile := { t with cnt := t.cnt.set i (satAdd 32 (t.cnt.getD i 0) n) }

/-- The tile after an instruction of n words issued: the sequencer moves on, ISSUE counts. -/
def issued (cyc n : Nat) (t : Tile) : Tile :=
  let nx := seqNext (wd t.cur 0) n t.pc t.loops
  { t.count 0 1 with pc := nx.1, loops := nx.2, notBefore := cyc + 1, lastIssue := some cyc }

/-- A tile stops before its END (R104, R254, R82): the passes, DRAINs and QOPs it has issued go no further. (DEDUCED: LOG 26,
LOG 117.) -/
def Tile.stop (why : StopWhy) (cyc : Nat) (t : Tile) : Tile :=
  { t with phase := .stopped why, passA := [], passB := [], drains := [], held := [], flights := [],
           jobs := t.jobs.filter (fun j => j.unit == 9), bankAge := [], endCycle := cyc }

/-- An MMA whose stream comes from a neighbour (R181). -/
def fromNeighbour (t : Tile) (ws : List W64) : Bool :=
  let w := wd ws 0
  (opOf w == 0x20 || opOf w == 0x21) &&
    [0, 1].any (fun s =>
      let f := tget {} t.feed (feederKey (mmaArr w) s)
      (match f.data with | some x => x.src != 0 | none => false) ||
        ((t.n.side s).scaled && match f.scale with | some y => y.src != 0 | none => false))

/-- The cycle in which an instruction must be able to issue to issue in this one: an MMA with a neighbour's stream issues one
cycle later than it otherwise could (R181). -/
def issueCycle (cyc : Nat) (t : Tile) (ws : List W64) : Nat := if fromNeighbour t ws then cyc - 1 else cyc

/-- The units of an instruction accept it (R195). -/
def unitsFree (cyc : Nat) (t : Tile) (ws : List W64) : Bool :=
  (unitUse t.n ws).all (fun u => decide (tget 0 t.unitFree u.1 ≤ cyc))

/-- Something uses the banks from now on. -/
def Tile.addJob (j : Job) (t : Tile) : Tile := if j.todo.isEmpty then t else { t with jobs := t.jobs ++ [j] }

/-- The job of an instruction that issues in a cycle (R192). -/
def jobOf (cyc : Nat) (n : Ncw) (r : Table Nat) (ws : List W64) : Job :=
  { rank := (sramRank (wd ws 0)).1, unit := (sramRank (wd ws 0)).2,
    todo := (sramBatches n r ws).map (fun b => (cyc + b.1, b.2)) }

/-- An instruction that issues occupies its units and its ranges (R194, R195), and from the next cycle on asks the banks for its words
(R192). -/
def occupy (cyc : Nat) (ws : List W64) (l : List Access) (t : Tile) : Tile :=
  let n := t.n
  let t1 := slotsIssue cyc ws { t.addJob (jobOf cyc n t.regs ws) with
    unitFree := (unitUse n ws).foldl (fun m u => tset 0 m u.1 (cyc + u.2)) t.unitFree }
  match lastWrite n ws with
  | none => t1
  | some x => t1.fly cyc x.1 (cyc + x.2) l

/-- The words of a running instruction's words in the store are sound (R170). -/
def fetchBad (t : Tile) (n : Nat) : Bool := !t.store2.isEmpty && (upFrom t.pc n).any t.store2.contains

/-- What an instruction reads, or writes in part, meets an uncorrectable word (R103, R104). What a DRAIN writes is checked as it
writes it. -/
def rangesBad (t : Tile) (ws : List W64) : Bool :=
  (pieces t.n t.regs ws).any (fun a =>
    if a.wr then opOf (wd ws 0) != 0x30 && t.badWrite a.addr a.len else t.badRead a.addr a.len)

/-- The words of the instruction a tile issues next. -/
def Tile.word (t : Tile) : List W64 := t.cur.take ((opWords (opOf (wd t.cur 0))).getD 1)

/-- Corrected words of a fetch of n words are counted (R103, R170). -/
def Tile.countFetch (n : Nat) (t : Tile) : Tile :=
  if t.store1.isEmpty then t
  else { t with corrected := satAdd 64 t.corrected ((upFrom t.pc n).filter t.store1.contains).length }

/-- A tile just after its next instruction issued: corrected words of its fetch and its reads are counted, the sequencer has moved on,
units and ranges are taken. -/
def afterIssue (cyc : Nat) (t : Tile) : Tile :=
  let len := (opWords (opOf (wd t.cur 0))).getD 1
  occupy cyc t.word (accesses t.n t.regs t.cur) (issued cyc len
    ((pieces t.n t.regs t.cur).foldl (fun t a => if a.wr then t else t.countRead a.addr a.len) (t.countFetch len)))

/-- Issue the next instruction of a tile when it is one that `mine` knows, its unit accepts it, its interlocks are clear (`clear`,
given the cycle to judge them in) and no earlier instruction conflicts with its ranges: check bits are met (R103, R104), the
sequencer moves on, units and ranges are taken, and `f` is the instruction's effect on the device, the tile's physical number and
the words given. -/
def issueDev (tile : Nat) (mine : List W64 → Bool) (clear : Nat → Dev → Tile → List W64 → Bool)
    (f : Plat → Nat → List W64 → Dev → Dev) (p : Plat) (d : Dev) : Dev :=
  match tileOf d.geom tile with
  | none => d
  | some k =>
    let t := tileAt d k
    let ws := t.cur
    let len := (opWords (opOf (wd ws 0))).getD 1
    let c := issueCycle p.cyc t ws
    if !mayIssue p d t || decide (c < t.notBefore) || !mine ws then d
    else if fetchBad t len then modTile k (Tile.stop .uncorrectable p.cyc) d
    else
      let acc := accesses t.n t.regs ws
      if !unitsFree c t ws || !clear c d t ws || mustWait c t ws acc then d
      else if rangesBad t ws then
        modTile k (fun t => (issued p.cyc len t).stop .uncorrectable p.cyc) d
      else f p k t.word (modTile k (afterIssue p.cyc) d)

/-- The next instruction of logical tile `tile`, physical tile `k`, is one that `mine` knows and issues in this cycle (R172, R194, R195),
and nothing it fetches or touches holds an uncorrectable error (R103, R104, R170). -/
def issuesNow (s : State) (tile k : Nat) (mine : List W64 → Bool) (clear : Nat → Dev → Tile → List W64 → Bool) : Prop :=
  let t := tileAt s.dev k
  let ws := t.cur
  let c := issueCycle s.plat.cyc t ws
  tileOf s.dev.geom tile = some k ∧ mayIssue s.plat s.dev t = true ∧ t.notBefore ≤ c ∧ mine ws = true ∧
    fetchBad t ((opWords (opOf (wd ws 0))).getD 1) = false ∧ unitsFree c t ws = true ∧ clear c s.dev t ws = true ∧
    mustWait c t ws (accesses t.n t.regs ws) = false ∧ rangesBad t ws = false

/-- Issue an instruction whose effect is on its own tile alone; it is given the address registers as they stood. -/
def issueTile (tile : Nat) (mine : List W64 → Bool) (clear : Nat → Tile → List W64 → Bool)
    (f : Plat → List W64 → Tile → Tile) (s : State) : Out :=
  onDev s (issueDev tile mine (fun cyc _ t ws => clear cyc t ws) (fun p k ws d => modTile k (f p ws) d))

/-- No interlock of its own. -/
def noWait : Nat → Tile → List W64 → Bool := fun _ _ _ => true

/-! ### Neighbours (R465) -/

/-- The logical position next to one in a direction (1 north, 2 east, 3 south, 4 west). -/
def stepDir (row col dir : Nat) : Option (Nat × Nat) :=
  match dir with
  | 1 => if row = 0 then none else some (row - 1, col)
  | 2 => some (row, col + 1)
  | 3 => some (row + 1, col)
  | 4 => if col = 0 then none else some (row, col - 1)
  | _ => none

/-- The physical number of a tile's neighbour in a direction, if it is in the task's tile set. -/
def neighbour (d : Dev) (t : Tile) (dir : Nat) : Option Nat :=
  let rect := rectOf (descOf (graphAt d t.handle) t.task)
  let die := t.number / 5000
  match stepDir (t.number % 5000 / 100) (t.number % 100) dir with
  | none => none
  | some (row, col) => if rect.has die row col then tileOf d.geom (die * 5000 + row * 100 + col) else none

/-- Nothing a tile issued is still held by an array, the conversion unit, the DMA engine or a LUT loader. -/
def idleUnits (t : Tile) : Bool :=
  t.passA.isEmpty && t.passB.isEmpty && t.drains.isEmpty && t.dma.isEmpty && t.lutA.st != .loading && t.lutB.st != .loading

/-- Everything a tile issued completed before a cycle (R196 FENCE, R174). -/
def allDone (cyc : Nat) (t : Tile) : Bool := idleUnits t && landed cyc (fun _ => true) t

end Sys2Proof.Machine
end

