-- ==== Sys2Proof/Machine/Arrays.lean ====
section
/-! DEFINITION. The matrix arrays (03, 04, 05): feeder streams, passes, groups, the chunk register and the quire, null
passes, LUT banks. -/

namespace Sys2Proof.Machine

/-! ### What feeders read (R178 to R181, R84, R85) -/

/-- The physical tile whose SRAM a stream of tile k reads: its own, a neighbour's, none where the neighbour is absent (R181, R465). -/
def streamOwner (d : Dev) (k : Nat) (t : Tile) (src : Nat) : Option Nat := if src = 0 then some k else neighbour d t src

/-- The memory a stream reads: the tile's own, a neighbour's, or none where the neighbour is absent (R465). -/
def streamMem (d : Dev) (t : Tile) (src : Nat) : Option Mem :=
  if src = 0 then some t.sram else (neighbour d t src).map (fun k => (tileAt d k).sram)

/-- The pattern of element k of the pass on line l. -/
def lineElem (m : Option Mem) (fmt : Nat) (x : DataStream) (l k : Nat) : Nat :=
  match m with
  | none => 0
  | some mem =>
    let i := x.pos + k
    if isCode fmt then (readByte mem (x.addr + 8 * x.stride * l + i / 2)).toNat / 16 ^ (i % 2) % 16
    else
      let e := elemBytes fmt
      readLe mem (if x.trans then x.addr + 8 * x.stride * i + e * l else x.addr + 8 * x.stride * l + e * i) e

/-- A scale entry as met: its tag differs from the expected one, SCALE field, ZP field (Table 3.3). -/
structure Entry where
  bad : Bool
  scale : Nat
  zp : Nat
deriving DecidableEq, Repr

/-- Read an entry at an address with its expected tag; the zero entry of an absent neighbour matches (R465). -/
def readEntry (m : Option Mem) (blk addr tag : Nat) : Entry :=
  match m with
  | none => ⟨false, 0, 0⟩
  | some mem =>
    let v := readLe mem addr (entryBytes blk)
    if entryBytes blk = 4 then ⟨v / 2 ^ 28 % 16 != tag % 16, v % 65536, v / 65536 % 256⟩
    else ⟨v / 4096 % 16 != tag % 16, v % 256, 0⟩

/-- The entry of line l at pass element k, along K (R84, R179). -/
def entryK (m : Option Mem) (s : Side) (x : DataStream) (c : ScaleStream) (l k : Nat) : Entry :=
  let b := blockSize s.blk
  let k0 := x.koff + x.pos
  let ka := k0 + k
  readEntry m s.blk (scaleAddrK s.blk c l (c.entry b k0 ka)) ((x.oidx + l) * c.stride + ka / b)

/-- The entry of line l along the output dimension. -/
def entryO (m : Option Mem) (s : Side) (x : DataStream) (c : ScaleStream) (l : Nat) : Entry :=
  readEntry m s.blk (scaleAddrO s.blk c x.oidx l) ((x.oidx + l) / blockSize s.blk)

/-- What one side brings to a cell for a group: values in order, flags the feeder raised, a tag mismatch, the along-K
scale. -/
structure SideGroup where
  vals : List Num
  flags : Flags
  bad : Bool
  scale : Int
deriving DecidableEq, Repr

/-- The table lane l uses in group g of a pass (R80). -/
def laneTable (q : Pass) (l g : Nat) : LaneTable :=
  (((tget [] q.tabs l).filter (fun x => decide (x.group ≤ g))).getLast?).getD ⟨0, [], 0, false, false⟩

/-- High and low piece of an element (R127, R128). -/
def splitPieces (x : Num) : Num × Num × Flags :=
  match x with
  | .fin s m e =>
    let E := lead m e
    if E > 60 then (.fin s (2 ^ 14 - 1) 47, .zero s, fOverflow ||| fInexact)
    else if E < -60 then (.zero s, .zero s, fUnderflow ||| fInexact)
    else
      let c := cutAt m e (E - 13)
      let h := if stepUp .rne s (c.1 % 2 == 1) c.2 then c.1 + 1 else c.1
      let hv := Num.fin s h (E - 13)
      (hv, (numAdd false x (numMinus hv)).1, fNone)
  | _ => (x, .zero false, fNone)

/-- What a stream of a pass holds, as a memory; none for an absent neighbour. -/
def Pass.memOf (q : Pass) (stream : Nat) : Option Mem :=
  let h := tget {} q.got stream
  if h.absent then none else some h.mem

/-- The code of element k of group g on line l of the code operand (R78). -/
def codeAt (n : Ncw) (q : Pass) (side l g k : Nat) : Nat :=
  match (if side = 0 then q.dA else q.dB) with
  | none => 0
  | some x => lineElem (q.memOf (2 * side)) (n.side side).fmt x l (g * n.glen + k)

/-- One side of a group of a pass on line l, from what its feeder holds (R50, R65, R72, R78, R193); in a multipass task the feeder
splits its elements (R128). -/
def sideGroup (n : Ncw) (q : Pass) (side l g : Nat) : SideGroup :=
  let s := n.side side
  let outs := if side = 0 then q.outA else q.outB
  match (if side = 0 then q.dA else q.dB) with
  | none => ⟨[], fNone, false, 0⟩
  | some x =>
    let m := q.memOf (2 * side)
    let tab := laneTable q l g
    let zp : Int := if s.blk ≥ 9 then (outs.getD l (false, 0)).2 else 0
    let one (k : Nat) : Num × Flags :=
      let p := lineElem m s.fmt x l (g * n.glen + k)
      if isCode s.fmt then decodeIn n.subflush (fmtOf tab.fmt) tab.sign (tab.bytes.getD p 0#8).toNat
      else if s.blk ≥ 9 then (numOfInt false (decodeInt 8 s.sign p - zp) 0, fNone)
      else decodeIn n.subflush (fmtOf s.fmt) s.sign p
    let vs := (List.range n.glen).map one
    let fl := vs.foldl (fun a v => a ||| v.2 ||| (if n.passes = 0 then fNone else (splitPieces v.1).2.2)) fNone
    match (if side = 0 then q.sA else q.sB) with
    | none => ⟨vs.map (·.1), fl, false, 0⟩
    | some c =>
      if s.dirOut then ⟨vs.map (·.1), fl, (outs.getD l (false, 0)).1, 0⟩
      else
        let e := entryK (q.memOf (2 * side + 1)) s x c l (g * n.glen)
        ⟨vs.map (·.1), fl, e.bad, signedField 8 e.scale⟩

/-! ### What feeders ask the banks for (R193) -/

/-- The words that hold the elements of group g of a data stream. -/
def dataWords (n : Ncw) (s : Side) (x : DataStream) (g : Nat) : List Nat :=
  let bits := fmtBits (fmtOf s.fmt)
  let e := max 1 (bits / 8)
  ((List.range 8).flatMap (fun l => (List.range n.glen).flatMap (fun k =>
    let pos := x.pos + g * n.glen + k
    wordsOf (if x.trans then x.addr + 8 * x.stride * pos + e * l else x.addr + 8 * x.stride * l + bits * pos / 8) e))).eraseDups

/-- The words that hold the entries of group g of a scale stream; along-output entries are read with group 0. -/
def scaleWords (n : Ncw) (s : Side) (x : DataStream) (c : ScaleStream) (g : Nat) : List Nat :=
  let k0 := x.koff + x.pos
  ((List.range 8).flatMap (fun l =>
    if s.dirOut then (if g = 0 then wordsOf (scaleAddrO s.blk c x.oidx l) (entryBytes s.blk) else [])
    else wordsOf (scaleAddrK s.blk c l (c.entry (blockSize s.blk) k0 (k0 + g * n.glen))) (entryBytes s.blk))).eraseDups

/-- The words of group g that the feeders of a pass do not hold yet: stream, source, words. -/
def feedNeeds (n : Ncw) (q : Pass) (g : Nat) : List (Nat × Nat × List Nat) :=
  let side (i : Nat) (dx : Option DataStream) (cx : Option ScaleStream) : List (Nat × Nat × List Nat) :=
    match dx with
    | none => []
    | some x => (2 * i, x.src, dataWords n (n.side i) x g) ::
        (match cx with | none => [] | some c => [(2 * i + 1, c.src, scaleWords n (n.side i) x c g)])
  (side 0 q.dA q.sA ++ side 1 q.dB q.sB).filterMap (fun e =>
    let h := tget {} q.got e.1
    let ws := e.2.2.filter (fun w => !h.words.contains w)
    if h.absent || ws.isEmpty then none else some (e.1, e.2.1, ws))

/-! ### Group sums (R106, R118, R127 to R129) -/

/-- The products of one element pair: one on the native path, piece products of a multipass task (Table 5.9). -/
def pairProducts (passes : Nat) (a b : Num) : List (Num × Flags) :=
  if passes = 0 then [numMul a b]
  else
    let x := splitPieces a
    let y := splitPieces b
    let hh := numMul x.1 y.1
    if !numFinite a || !numFinite b then [hh]
    else
      [hh] ++ (if passes ≥ 2 then [numMul x.1 y.2.1, numMul x.2.1 y.1] else []) ++
        (if passes = 3 then [numMul x.2.1 y.2.1] else [])

/-- The exact sum of a group's products (R106) with the exceptional classes of Table 5.4; an exact zero is -0 only when every
product is -0 (R116). -/
def groupSum (ps : List (Num × Flags)) : Num × Flags :=
  let fl := ps.foldl (fun a v => a ||| v.2) fNone
  let both := flagIf (ps.any (fun v => v.1 == .inf false) && ps.any (fun v => v.1 == .inf true)) fInvalid
  if ps.any (fun v => numNar v.1) then (.nar, fl ||| both)
  else if both != fNone then (.nar, fl ||| both)
  else if ps.any (fun v => v.1 == .inf false) then (.inf false, fl)
  else if ps.any (fun v => v.1 == .inf true) then (.inf true, fl)
  else
    let s := sumDy (ps.map (fun v => numDyadic v.1))
    (numOfInt (ps.all (fun v => v.1 == .zero true)) s.1 s.2, fl)

/-! ### The FP32 accumulator, the chunk register, the quire (R109 to R118) -/

/-- FP32 mode: the register after a group sum (R115, R116, R118). -/
def fp32Add (o : RndOpts) (old : Nat) (g : Num) : Nat × Flags :=
  let a := decode .fp32 true old
  if numNar a then (nanBits .fp32, fNone)
  else
    let x := numAdd false a g
    let r := roundTo .fp32 true o false x.1
    (r.1, r.2 ||| x.2)

/-- The chunk register of a cell: value, groups in it, exceptional mark. -/
structure ChunkReg where
  val : Int × Int
  cnt : Nat
  exc : Bool
deriving DecidableEq, Repr

/-- lead of a signed dyadic. -/
def leadDy (x : Int × Int) : Int := lead x.1.natAbs x.2

/-- The chunk register after a finite group sum (R109). -/
def chunkAdd (c g : Int × Int) : (Int × Int) × Flags :=
  if g.1 = 0 then (c, fNone)
  else
    let e := if c.1 = 0 then leadDy g else max (leadDy g) (leadDy c)
    let q := e - 37
    let x := if c.1 = 0 then (0, false) else floorAt c.1 c.2 q
    let y := floorAt g.1 g.2 q
    ((x.1 + y.1, q), flagIf (x.2 || y.2) fInexact)

/-- A cell's slot and chunk register after a scaled group sum, `last` at a chunk boundary (R67, R110, R113, R118). A slot
that is NaR or NaN stays so and raises nothing (R85, R114). -/
def accumulate (n : Ncw) (anchor : Int) (field : Nat) (c : ChunkReg) (g : Num) (last : Bool) : Nat × ChunkReg × Flags :=
  let w := n.qwidth
  let empty : ChunkReg := ⟨(0, 0), 0, false⟩
  if isNarField w field then (field, if last then empty else c, fNone)
  else if w = 0 then let r := fp32Add n.opts field g; (r.1, empty, r.2)
  else if n.mode = 2 then
    if numFinite g then let r := quireAdd w anchor field (numDyadic g); (r.1, empty, r.2)
    else let r := quireExc w field (!numNar g); (r.1, empty, r.2)
  else
    let c1 : ChunkReg × Flags :=
      if numFinite g then let r := chunkAdd c.val (numDyadic g); ({ c with val := r.1 }, r.2)
      else ({ c with exc := true }, flagIf (!numNar g) fInvalid)
    if last then
      if c1.1.exc then (narField w, empty, c1.2)
      else let r := quireAdd w anchor field c1.1.val; (r.1, empty, r.2 ||| c1.2)
    else (field, c1.1, c1.2)

/-- The slot's starting value: zero, or the bias preload (R98, R182). -/
def slotStart (n : Ncw) (anchor : Int) (bias : Option (Nat × Nat × List Nat)) (i j : Nat) : Nat × Flags :=
  match bias with
  | none => (0, fNone)
  | some (pre, fmt, pats) =>
    let x := decodeIn n.subflush (fmtOf fmt) true (pats.getD (if pre = 1 then j else i) 0)
    if n.qwidth = 0 then
      let r := fp32Add n.opts 0 x.1
      (r.1, r.2 ||| x.2)
    else if numFinite x.1 then let r := quireAdd n.qwidth anchor 0 (numDyadic x.1); (r.1, r.2 ||| x.2)
    else let r := quireExc n.qwidth 0 (!numNar x.1); (r.1, r.2 ||| x.2)

/-- An initialising pass gives its slot its starting value in cell (i, j) (R98, R182); it has done so at most once. -/
def initCell (arr i j : Nat) (q : Pass) (t : Tile) : Pass × Tile :=
  let n := t.n
  let cell := 8 * i + j
  if !q.init || q.inited.contains cell then (q, t)
  else
    let x := slotStart n q.anchor q.bias i j
    let t1 := t.slotSet n.qwidth arr q.slot cell x.1
    ({ q with inited := q.inited ++ [cell] },
      raiseT x.2 { t1 with longCnt := tset 0 t1.longCnt (slotKey arr q.slot cell) 0 })

/-- One group of a pass in cell (i, j), whose slot has its starting value: the tile after it. -/
def cellGroup (t : Tile) (arr : Nat) (q : Pass) (i j g : Nat) : Tile :=
  let n := t.n
  let w := n.qwidth
  let cell := 8 * i + j
  let st := t.slotGet w arr q.slot cell
  let a := sideGroup n q 0 i g
  let b := sideGroup n q 1 j g
  let cnt := tget 0 t.longCnt (slotKey arr q.slot cell) + 1
  let ck := tget (0, 0, 0, false) t.chunk (arr * 64 + cell)
  let c : ChunkReg := if g = 0 then ⟨(0, 0), 0, false⟩ else ⟨(ck.1, ck.2.1), ck.2.2.1, ck.2.2.2⟩
  let last := (g + 1) % n.chunkLen == 0 || g + 1 == q.groups n
  let fin (v : Nat) (c : ChunkReg) (f : Flags) : Tile :=
    let t1 := t.slotSet w arr q.slot cell v
    { t1 with longCnt := tset 0 t1.longCnt (slotKey arr q.slot cell) cnt,
              chunk := tset (0, 0, 0, false) t1.chunk (arr * 64 + cell) (c.val.1, c.val.2, c.cnt, c.exc),
              tflags := t1.tflags ||| f ||| a.flags ||| b.flags ||| flagIf (w == 0 && decide (cnt > 65536)) fLongsum }
  if a.bad || b.bad then fin (narField w) ⟨(0, 0), 0, false⟩ fSkew
  else if isNarField w st then fin st ⟨(0, 0), 0, false⟩ fNone
  else
    let gs := groupSum ((a.vals.zip b.vals).flatMap (fun x => pairProducts n.passes x.1 x.2))
    let r := accumulate n q.anchor st c (numScale (a.scale + b.scale) gs.1) last
    fin r.1 r.2.1 (r.2.2 ||| gs.2)

/-! ### FEED, FEEDS, MMA -/

/-- FEED (R178, R180): it waits while the pending register holds a stream that no MMA has consumed. -/
def execFeed (tile : Nat) (s : State) : Out :=
  issueTile tile (fun ws => opOf (wd ws 0) == 0x10)
    (fun _ t ws => (tget {} t.feed (feederKey (feedArr (wd ws 0)) (feedSide (wd ws 0)))).pendD.isNone)
    (fun _ ws t => { t with feed := tmod {} t.feed (feederKey (feedArr (wd ws 0)) (feedSide (wd ws 0)))
                                      (fun x => { x with pendD := some (feedStream t.regs ws) }) }) s

/-- FEEDS (R179, R180). -/
def execFeeds (tile : Nat) (s : State) : Out :=
  issueTile tile (fun ws => opOf (wd ws 0) == 0x11)
    (fun _ t ws => (tget {} t.feed (feederKey (feedArr (wd ws 0)) (feedSide (wd ws 0)))).pendS.isNone)
    (fun _ ws t => { t with feed := tmod {} t.feed (feederKey (feedArr (wd ws 0)) (feedSide (wd ws 0)))
                                      (fun x => { x with pendS := some (feedsStream t.regs (wd ws 0)) }) }) s

/-- Which operand holds 4-bit codes: 0 A, 1 B; none on another path. -/
def codeSide (n : Ncw) : Option Nat := if isCode n.a.fmt then some 0 else if isCode n.b.fmt then some 1 else none

/-- The table a lane reads now. -/
def laneNow (x : Lut) (l group : Nat) : LaneTable :=
  let one := x.lanes.toNat.testBit l
  let b := if one then x.bank1 else x.bank0
  ⟨group, (List.range 16).map (fun c => b.bytes.getD (16 * l + c) 0#8), b.fmt, b.sign, one⟩

/-- The ranges an MMA's streams read of the tile's own SRAM. -/
def streamAccess (t : Tile) (w : W64) (s : Nat) : List Access :=
  let n := t.n
  let f := tget {} t.feed (feederKey (mmaArr w) s)
  (match f.data with
    | none => []
    | some x => ((if x.src = 0 then dataRanges (n.side s).fmt x (mmaKcnt w) else []) ++
        (if (n.side s).scaled then match f.scale with
          | some y => if y.src = 0 then scaleRanges (n.side s) y x (mmaKcnt w) else []
          | none => [] else [])).map (fun r => ⟨false, r.1, r.2, 1⟩))

/-- An MMA may issue: the LUT is not LOADING when it reads codes (R81), its slot is free of a ROW.RESCALE (R154), and when it
initialises the slot, of unaccepted DRAINs (R97, R147) and of earlier reads (R184); its streams are there. (DEDUCED: LOG 103.) -/
def mmaClear (cyc : Nat) (_d : Dev) (t : Tile) (ws : List W64) : Bool :=
  let w := wd ws 0
  let n := t.n
  let arr := mmaArr w
  let x := slotTime t arr (mmaSlot w) n.span
  let there (s : Nat) : Bool := (tget {} t.feed (feederKey arr s)).data.isSome
  ((codeSide n).isNone || (t.lut arr).st == .settled || ((t.lut arr).st == .pending && decide ((t.lut arr).since ≤ cyc))) &&
    decide (x.mma ≤ cyc) && (!mmaInit w || (decide (x.init ≤ cyc) && !slotInDrain t arr (mmaSlot w) n.span)) &&
    there 0 && there 1 &&
    !rangeConflict cyc t (streamAccess t w 0 ++ streamAccess t w 1)

/-- DRAINs and QOPs of the slots that have not ended, by their CYCLE of issue. -/
def slotUsers (t : Tile) (arr slot : Nat) : List Nat :=
  let n := t.n
  (t.drains.filter (fun x => drArr (wd x.ws 0) == arr && slotsMeet (drSlot (wd x.ws 0)) n.span slot n.span)).map (·.issue) ++
    (t.held.filter (fun h => qopNames n (wd h.ws 0) arr slot n.span)).map (·.issue)

/-- Issue a pass (R91, R179, R180): its streams are taken, its slot gets anchor and along-output entries when it initialises. -/
def issuePass (p : Plat) (k : Nat) (ws : List W64) (d : Dev) : Dev :=
  let t := tileAt d k
  let w := wd ws 0
  let w1 := wd ws 1
  let n := t.n
  let arr := mmaArr w
  let slot := mmaSlot w
  let init := mmaInit w
  let fa := tget {} t.feed (feederKey arr 0)
  let fb := tget {} t.feed (feederKey arr 1)
  let scale (s : Side) (f : Feeder) : Option ScaleStream := if s.scaled then f.scale else none
  let outs (s : Side) (f : Feeder) : List Entry :=
    match f.data, scale s f with
    | some x, some c => if s.dirOut then (List.range 8).map (fun l => entryO (streamMem d t c.src) s x c l) else []
    | _, _ => []
  let oa := outs n.a fa
  let ob := outs n.b fb
  let zps (s : Side) (l : List Entry) : List (Bool × Int) := l.map (fun e => (e.bad, decodeInt 8 s.sign e.zp))
  let key := arr * 16 + slot
  let anchor := if init then signed9 (fld w 46 38) else t.anchorOf arr slot
  let be := elemBytes (fld w1 61 58)
  let ba := localAddr t.regs w (fld w1 57 40)
  let biased := opOf w == 0x21
  let x := t.lut arr
  let gone (i : Nat) (src : Option Nat) : Table Held :=
    if (match src with | none => true | some c => (streamOwner d k t c).isSome) then [] else [(i, { absent := true })]
  let q : Pass :=
    { slot := slot, init := init, anchor := anchor,
      bias := if biased then some (fld w1 63 62, fld w1 61 58, (List.range 8).map (fun i => t.rd (ba + be * i) be)) else none,
      biasAt := if biased then some (ba, 8 * be) else none, kcnt := mmaKcnt w, dA := fa.data, dB := fb.data,
      sA := scale n.a fa, sB := scale n.b fb, outA := zps n.a oa, outB := zps n.b ob, issue := p.cyc,
      got := gone 0 (fa.data.map (·.src)) ++ gone 1 ((scale n.a fa).map (·.src)) ++ gone 2 (fb.data.map (·.src)) ++
        gone 3 ((scale n.b fb).map (·.src)),
      tabs := if (codeSide n).isSome then (List.range 8).map (fun l => (l, [laneNow x l 0])) else [],
      after := slotUsers t arr slot }
  let facts (l : List Entry) : List (Option Nat) := l.map (fun e => some e.scale)
  modTile k (fun t =>
    let t1 := { t.setPasses arr (t.passes arr ++ [q]) with gated := t.gated &&& ~~~(BitVec.ofNat 2 (2 ^ arr)) }
    let t2 := { t1 with feed := takeStreams n t1.feed arr (mmaKcnt w) }
    if init then { t2 with anchor := tset 0 t2.anchor key anchor, factA := tset [] t2.factA key (facts oa),
                           factB := tset [] t2.factB key (facts ob) } else t2) d

/-- MMA (R91). -/
def execMma (tile : Nat) (s : State) : Out :=
  onDev s (issueDev tile (fun ws => opOf (wd ws 0) == 0x20) mmaClear issuePass)

/-- MMA.B (R182): a pass that initialises its slot with a bias vector. -/
def execMmaB (tile : Nat) (s : State) : Out :=
  onDev s (issueDev tile (fun ws => opOf (wd ws 0) == 0x21) mmaClear (fun p k ws d => issuePass p k ws d))

/-! ### GROUP_ADD, NULL_PASS -/

/-- Stamp one of BUSY_A, BUSY_B, NULL_A, NULL_B (0 to 3) once a cycle (R341). -/
def Tile.stamp (i cyc : Nat) (t : Tile) : Tile :=
  if t.cntAt.getD i none == some cyc then t
  else { t.count (i + 1) 1 with cntAt := t.cntAt.set i (some cyc) }

/-- One halt cycle of an array: its passes in progress move one cycle later, and the halt counts (R193). -/
def haltCycle (cyc arr : Nat) (t : Tile) : Tile :=
  let h := t.haltRun.getD arr (0, 0)
  let t1 := (t.count 5 1).setPasses arr ((t.passes arr).map (fun q => { q with issue := q.issue + 1 }))
  { t1 with haltRun := t1.haltRun.set arr (h.1 + 1, cyc), unitFree := tmod 0 t1.unitFree (4 + arr) (· + 1) }

/-- The first pass of an array that has a group left in a cell, with its place. -/
def passOfCell (n : Ncw) (cell : Nat) : List Pass → Option (Nat × Pass)
  | [] => none
  | q :: qs =>
    if tget 0 q.done cell < q.groups n then some (0, q) else (passOfCell n cell qs).map (fun x => (x.1 + 1, x.2))

/-- A pass has added every group in every cell. -/
def Pass.finished (q : Pass) (n : Ncw) : Bool := (List.range 64).all (fun c => tget 0 q.done c == q.groups n)

/-- The LUT entries that a cell's line reads in a group hold a parity error, or the slot an uncorrectable word (R104); what feeders read
of SRAM is met as they read it. -/
def groupBad (t : Tile) (arr : Nat) (q : Pass) (i j g : Nat) : Bool :=
  let n := t.n
  (!t.lut2.isEmpty && match codeSide n with
    | none => false
    | some s =>
      let l := if s = 0 then i else j
      let bank := if (laneTable q l g).bank then 1 else 0
      (List.range n.glen).any (fun k => t.lut2.contains ((arr * 2 + bank) * 128 + 16 * l + codeAt n q s l g k))) ||
    (!(q.init && g == 0) && slotBad t n.qwidth arr q.slot [8 * i + j])

/-- CYCLE at the end of which the first cell of a pass's slot is final (R100). -/
def Pass.final (q : Pass) (n : Ncw) : Nat := q.issue + 4 + q.groups n * n.period

/-- DRAINs that issued before a pass keep the time from which their slot was final without it (R97). -/
def keepFinal (q : Pass) (t : Tile) : Tile :=
  { t with drains := t.drains.map (fun x =>
      if q.after.contains x.issue && x.fin.isNone then
        let y := slotTime t (drArr (wd x.ws 0)) (drSlot (wd x.ws 0)) t.n.span
        { x with fin := some (y.first, y.last) }
      else x) }

/-- DRAINs that issued before a pass keep a cell's field as it stands before the pass adds to it (R97). -/
def keepField (q : Pass) (cell : Nat) (t : Tile) : Tile :=
  { t with drains := t.drains.map (fun x =>
      if q.after.contains x.issue && !x.kept.any (fun e => e.1 == cell) then
        { x with kept := tins x.kept cell (t.slotGet t.n.qwidth (drArr (wd x.ws 0)) (drSlot (wd x.ws 0)) cell) }
      else x) }

/-- Passes that have added every group leave the array; each still runs until its slot is final in every cell (R100). -/
def endPasses (cyc arr : Nat) (t : Tile) : Tile :=
  let n := t.n
  ((t.passes arr).filter (fun q => q.finished n)).foldl (fun t q =>
      ((keepFinal q t).fly cyc 8 (q.final n + 14) ((passReads n q).map (fun r => ⟨false, r.1, r.2, 1⟩))).onSlots arr q.slot n.span
        (slotByPass (q.final n)))
    (t.setPasses arr ((t.passes arr).filter (fun q => !q.finished n)))

/-! ### Quire operations, cell by cell (R184) -/

/-- Change the quire field of some cells of a slot, gathering flags. -/
def mapCells (cells : List Nat) (arr slot : Nat) (f : Nat → Nat → Nat × Flags) (t : Tile) : Tile :=
  let w := t.n.qwidth
  cells.foldl (fun t c =>
    let r := f c (t.slotGet w arr slot c)
    raiseT r.2 (t.slotSet w arr slot c r.1)) t

/-- Shift a quire field right, toward -infinity (R67 case 2); NaR stays. -/
def shiftField (w amt v : Nat) : Nat × Flags :=
  if isNarField w v then (v, fNone)
  else
    let c := floorAt (signedField w v) 0 amt
    (intBits w c.1, flagIf c.2 (fUnderflow ||| fInexact))

/-- The quire32 image of a field's real value (WIDEN). -/
def widen (w v : Nat) : Nat :=
  if isNarField w v then 2 ^ 511 else intBits 512 (signedField w v * 2 ^ (quireLsb w + 240).toNat)

/-- What QADD makes of the field v of a cell (R69, R38). -/
def qaddField (w : W64) (t : Tile) (c v : Nat) : Nat × Flags :=
  let q := t.n.qwidth
  if isNarField q v then (v, fNone) else quireSum q v (t.slotGet q (qArrS w) (qSlotS w) c)

/-- What QLD loads into a cell. -/
def qldField (regs : Table Nat) (w : W64) (t : Tile) (c : Nat) : Nat × Flags :=
  let q := t.n.qwidth / 8
  (t.rd (localAddr regs w (fld w 26 9) + q * c) q, fNone)

/-- QADD, QSHR and QLD on some cells of their destination. -/
def qopCells (cells : List Nat) (regs : Table Nat) (w : W64) (t : Tile) : Tile :=
  mapCells cells (qArrD w) (qSlotD w) (fun c v =>
    if qSub w = 0 then qaddField w t c v else if qSub w = 1 then shiftField t.n.qwidth (qAmt w) v else qldField regs w t c) t

/-- QST of 64 fields. -/
def qstWrite (regs : Table Nat) (w : W64) (field : Nat → Nat) (t : Tile) : Tile :=
  let q := t.n.qwidth
  t.wr (localAddr regs w (fld w 26 9)) ((List.range 64).flatMap (fun c =>
    if qBit w then natLe 64 (widen q (field c)) else natLe (q / 8) (field c)))

/-- QRND of 64 fields with their slot's anchor: each value rounded once. -/
def qrndWrite (regs : Table Nat) (w : W64) (anchor : Int) (field : Nat → Nat) (t : Tile) : Tile :=
  let q := t.n.qwidth
  let f := fmtOf (qFmt w)
  let rs := (List.range 64).map (fun c => roundTo f (qBit w) t.n.opts false (fieldValue q (field c) anchor))
  raiseT (rs.foldl (fun x r => x ||| r.2) fNone)
    (t.wr (localAddr regs w (fld w 26 9)) (rs.flatMap (fun r => natLe (fmtBytes f) r.1)))

/-- A cell of a slot the QOP names still has a group of an earlier pass to come, or an earlier QOP; `mine` tells the passes that
issued after it. -/
def qopWaits (mine : Pass → Bool) (held : List HeldQop) (t : Tile) (w : W64) (c : Nat) : Bool :=
  let n := t.n
  (qopSlots w).any (fun x => (t.passes x.1).any (fun q =>
      !mine q && slotsMeet q.slot n.span x.2 n.span && decide (tget 0 q.done c < q.groups n))) ||
    held.any (fun h => h.left.contains c)

/-- The cells a QOP that issues now cannot act on yet. -/
def qopLeft (t : Tile) (w : W64) : List Nat := (List.range 64).filter (fun c => qopWaits (fun _ => false) t.held t w c)

/-- A held QOP acts on a cell: QADD, QSHR and QLD change its field, QST and QRND take it. -/
def heldCell (h : HeldQop) (c : Nat) (t : Tile) : HeldQop × Tile :=
  let w := wd h.ws 0
  let h1 := { h with left := h.left.filter (fun x => x != c) }
  if qSub w ≤ 2 then (h1, qopCells [c] h.regs w t)
  else ({ h1 with fields := tins h.fields c (t.slotGet t.n.qwidth (qArrD w) (qSlotD w) c) }, t)

/-- A held QOP has acted on every cell: QST and QRND store what they took. -/
def heldEnd (h : HeldQop) (t : Tile) : Tile :=
  let w := wd h.ws 0
  let field (c : Nat) : Nat := tget 0 h.fields c
  if qSub w = 3 then qstWrite h.regs w field t else if qSub w = 4 then qrndWrite h.regs w h.anchor field t else t

/-- Held QOPs act on a cell in which what they waited for has ended, in their order (R184). -/
def runHeld (cell : Nat) (t : Tile) : Tile :=
  t.held.foldl (fun t h =>
    if h.left.contains cell && !qopWaits (fun q => q.after.contains h.issue) t.held t (wd h.ws 0) cell then
      let x := heldCell h cell { t with held := [] }
      if x.1.left.isEmpty then { heldEnd x.1 x.2 with held := t.held } else { x.2 with held := t.held ++ [x.1] }
    else { t with held := t.held ++ [h] }) { t with held := [] }

/-- The first pass of an array gives its slot its starting value in a cell, unless a QOP that was before it is still to act there. -/
def initAt (arr i j ix : Nat) (t : Tile) : Tile :=
  match (t.passes arr)[ix]? with
  | none => t
  | some q =>
    if t.held.any (fun h => q.after.contains h.issue && h.left.contains (8 * i + j)) then t
    else let x := initCell arr i j q t; x.2.setPasses arr ((t.passes arr).set ix x.1)

/-- One group in one cell, the next of the cell's pass, once both feeders have read it (R91, R193): with a pass's last group the token passes, and the cell
initialises the slot of the next pass (R98). -/
def groupStep (p : Plat) (arr i j group : Nat) (t : Tile) : Tile :=
  let n := t.n
  let cell := 8 * i + j
  match passOfCell n cell (t.passes arr) with
  | none => t
  | some (ix, q) =>
    let g := tget 0 q.done cell
    if g ≠ group || p.cyc < q.issue + 2 + i + j + g * n.period || q.read ≤ g ||
        t.held.any (fun h => q.after.contains h.issue && h.left.contains cell) then t
    else if groupBad t arr q i j g then t.stop .uncorrectable p.cyc
    else
      let x := initCell arr i j q (if g = 0 then keepField q cell t else t)
      let t1 := cellGroup (x.2.countSlot n.qwidth arr q.slot [cell]) arr x.1 i j g
      let t2 := t1.setPasses arr ((t1.passes arr).set ix { x.1 with done := tset 0 q.done cell (g + 1) })
      let t3 := if g + 1 = q.groups n then initAt arr i j (ix + 1) t2 else t2
      (runHeld cell (endPasses p.cyc arr t3)).stamp arr p.cyc

/-- GROUP_ADD (R106): one group of its pass, by its number, in cell (i, j) of an array. -/
def execGroupAdd (tile arr i j group : Nat) (s : State) : Out :=
  onDev s (fun p d =>
    match tileOf d.geom tile with
    | none => d
    | some k =>
      let t := tileAt d k
      if !p.alive || !tileRuns d t || !(t.phase == .running || t.phase == .ended) then d
      else modTile k (groupStep p arr i j group) d)

/-- NULL_PASS (R101, R417): under a power class without gating, or while it waits for its grant, an array without a pass runs null passes
while its tile's task is in progress; only its busy counter moves. -/
def execNullPass (tile arr : Nat) (s : State) : Out :=
  onDev s (fun p d =>
    match tileOf d.geom tile with
    | none => d
    | some k =>
      let t := tileAt d k
      if p.alive && tileRuns d t && t.phase != .idle && (t.passes arr).isEmpty && !t.gated.toNat.testBit arr then
        modTile k (Tile.stamp (arr + 2) p.cyc) d else d)

/-! ### LUT banks (R77 to R82) -/

/-- The banks of an array are SETTLED in a cycle. -/
def Lut.settledAt (cyc : Nat) (x : Lut) : Bool := x.st == .settled && decide (x.since ≤ cyc)

/-- The cycle in which a tile's next instruction reached its sequencer (R82). -/
def Tile.reached (t : Tile) : Nat := match t.lastIssue with | none => t.first | some c => c + 1

/-- A LUT instruction of a Flow-mode run reached the sequencer while its array's banks were not SETTLED (R82). -/
def reloadRefused (p : Plat) (d : Dev) (t : Tile) : Bool :=
  p.alive && t.phase == .running && decide (t.pc < t.store.length) && tileRuns d t && opOf (wd t.cur 0) == 0x80 &&
    !(graphAt d t.handle).still && decide (t.reached ≤ p.cyc) && !(t.lut (fld (wd t.cur 0) 52 52)).settledAt t.reached &&
    !fetchBad t 1

/-- LUT (R79, R82): loads the inactive bank of an array; where its banks were LOADING or PENDING as it reached the sequencer it stalls in
Still mode and ends the task in Flow mode. -/
def execLut (tile : Nat) (s : State) : Out :=
  onDev s (fun p d =>
    match tileOf d.geom tile with
    | none => d
    | some k =>
      if reloadRefused p d (tileAt d k) then modTile k (Tile.stop .reloadPending p.cyc) d
      else
        issueDev tile (fun ws => opOf (wd ws 0) == 0x80)
          (fun cyc _ t ws => (t.lut (fld (wd ws 0) 52 52)).settledAt cyc)
          (fun p k ws d =>
            let w := wd ws 0
            let arr := fld w 52 52
            modTile k (fun t =>
              let x := t.lut arr
              let b : LutBank := { bytes := readBytes t.sram (localAddr t.regs w (fld w 46 29)) 128, fmt := fld w 51 48, sign := bit w 47 }
              let to1 := x.lanes == 0#8
              let x1 := if to1 then { x with bank1 := b } else { x with bank0 := b }
              { t.setLut arr { x1 with st := .loading, since := p.cyc, target := to1 } with
                lut2 := t.lut2.filter (fun y => y / 128 != arr * 2 + (if to1 then 1 else 0)) }) d) p d)

/-- LUT_WRITE_COMPLETE (R79): 8 cycles after issue the banks become PENDING. -/
def execLutWriteComplete (tile arr : Nat) (s : State) : Out :=
  onDev s (fun p d =>
    match tileOf d.geom tile with
    | none => d
    | some k =>
      let x := (tileAt d k).lut arr
      if p.alive && tileRuns d (tileAt d k) && x.st == .loading && decide (x.since + 8 ≤ p.cyc) then
        modTile k (fun t => t.setLut arr { x with st := .pending, since := x.since + 9 }) d
      else d)

/-- The cycle in which the feeder releases group 0 of a pass to a lane (R80). -/
def laneFirst (q : Pass) (lane : Nat) : Nat := q.issue + 1 + lane

/-- A group of a pass starts a block of the code operand (R80). -/
def blockStarts (n : Ncw) (q : Pass) (g : Nat) : Bool :=
  let s := if isCode n.a.fmt then n.a else n.b
  let k := match (if isCode n.a.fmt then q.dA else q.dB) with | some x => x.koff + x.pos + g * n.glen | none => g * n.glen
  s.scaled && !s.dirOut && k % blockSize s.blk == 0

/-- The cycle in which a lane swaps after a write that was complete in the cycle before `since`: its next block boundary in the code pass
in which it stood, or the end of its part of that pass; at once where it stood in none (R80). -/
def swapCycle (n : Ncw) (lane since : Nat) (ps : List Pass) : Nat :=
  match (if (codeSide n).isNone then none else
      ps.find? (fun q => decide (laneFirst q lane < since) && decide (since ≤ laneFirst q lane + q.groups n * n.period))) with
  | none => since
  | some q =>
    let f := laneFirst q lane
    let g0 := (since - 1 - f) / n.period + 1
    match (upFrom g0 (q.groups n - g0)).find? (blockStarts n q) with
    | some g => f + g * n.period
    | none => f + q.groups n * n.period

/-- The first group of a pass that a lane reads with the table it swapped to in a cycle. -/
def swapGroup (n : Ncw) (lane at_ : Nat) (q : Pass) : Nat :=
  if at_ ≤ laneFirst q lane then 0 else min (q.groups n) (cdiv (at_ - laneFirst q lane) n.period)

/-- LANE_SWAP (R80): a lane reads the new bank from its next block boundary, or the end of its part of the pass; the banks settle in
the cycle after the last lane swapped. -/
def execLaneSwap (tile arr lane : Nat) (s : State) : Out :=
  onDev s (fun p d =>
    match tileOf d.geom tile with
    | none => d
    | some k =>
      let t := tileAt d k
      let n := t.n
      let x := t.lut arr
      let at_ := swapCycle n lane x.since (t.passes arr)
      if !(p.alive && tileRuns d t && x.st == .pending && decide (x.since ≤ p.cyc) && x.lanes.toNat.testBit lane != x.target &&
          decide (at_ ≤ p.cyc)) then d
      else
        let lanes := if x.target then x.lanes ||| BitVec.ofNat 8 (2 ^ lane) else x.lanes &&& ~~~(BitVec.ofNat 8 (2 ^ lane))
        let all := lanes == (if x.target then 0xFF#8 else 0#8)
        let x1 := { x with lanes := lanes, st := if all then .settled else .pending, since := if all then p.cyc + 1 else x.since }
        let upd (q : Pass) : Pass :=
          let g := swapGroup n lane at_ q
          let old := (tget [] q.tabs lane).filter (fun y => decide (y.group < g))
          { q with tabs := tins q.tabs lane (old ++ [laneNow x1 lane g]) }
        modTile k (fun t => (t.setLut arr x1).setPasses arr ((t.passes arr).map upd)) d)

end Sys2Proof.Machine
end

