-- ==== Sys2Proof/Machine/Convert.lean ====
section
/-! DEFINITION. The conversion unit (06): scale, bias, clip, one rounding, statistics, scale misses and their retry; and the
quire operations (08 R184). -/

namespace Sys2Proof.Machine

/-! ### Steps 1 to 3 (R132 to R134) -/

/-- The factor of one along-output entry: none, a power of two, or the posit16 SCALE (R71, R74). -/
def entryFactor (s : Side) (e : Option Nat) : Option Num :=
  match e with
  | none => none
  | some v => some (if s.blk ≥ 9 then decode .posit16 true v else .fin false 1 (signedField 8 v))

/-- Multiply a value by a factor: a scale acts on finite values only, zero stays zero of its sign, a NaR scale makes NaR, no flag (R70,
R71, R74). A quire source has no negative zero. -/
def scaleStep (quire : Bool) (x : Num) (f : Option Num) : Num :=
  match f with
  | none => x
  | some g =>
    if numNar x || numNar g then .nar
    else
      match x with
      | .inf s => .inf s
      | .zero s => .zero s
      | _ => match (numMul x g).1 with | .zero s => .zero (s && !quire) | y => y

/-- The value of a slot's field in cell (i, j) times the along-output factor the slot carries (R132 step 1). -/
def scaledField (t : Tile) (arr slot i j field : Nat) : Num :=
  let n := t.n
  let key := arr * 16 + slot
  let v := fieldValue n.qwidth field (t.anchorOf arr slot)
  let q := n.qwidth != 0
  scaleStep q (scaleStep q v (entryFactor n.a ((tget [] t.factA key).getD i none)))
    (entryFactor n.b ((tget [] t.factB key).getD j none))

/-- That value of the field the cell holds. -/
def scaledValue (t : Tile) (arr slot i j : Nat) : Num :=
  scaledField t arr slot i j (t.slotGet t.n.qwidth arr slot (8 * i + j))

/-- The field a DRAIN converts: the cell's, or the one kept before a later pass went on (R97). -/
def drainField (t : Tile) (x : Drain) (c : Nat) : Nat :=
  let w := wd x.ws 0
  tget (t.slotGet t.n.qwidth (drArr w) (drSlot w) c) x.kept c

/-- Clip (R134). -/
def clipTo (lo hi : Nat) (x : Num) : Num :=
  let l := decode .fp32 true lo
  let h := decode .fp32 true hi
  if numNar x then x else if numCmp x l == .lt then l else if numCmp x h == .gt then h else x

/-- x of output (i, j) and the flags of its formation. -/
def drainX (t : Tile) (x : Drain) (i j : Nat) : Num × Flags :=
  let w := wd x.ws 0
  let w1 := wd x.ws 1
  let v := scaledField t (drArr w) (drSlot w) i j (drainField t x (8 * i + j))
  let b : Num × Flags :=
    if drBias w = 0 then (v, fNone)
    else
      let e := elemBytes (fld w 43 40)
      let a := localAddr x.regs w (fld (wd x.ws 2) 63 46)
      let z := decodeIn t.n.subflush (fmtOf (fld w 43 40)) true (t.rd (a + e * (if drBias w = 1 then j else i)) e)
      let s := numAdd false v z.1
      (s.1, s.2 ||| z.2)
  (if bit w 39 then clipTo (fld w1 63 32) (fld w1 31 0) b.1 else b.1, b.2)

/-! ### Step 4 and misses (R75, R132, R141) -/

/-- One converted output: pattern, flags, counted as missed, its value for the histogram. -/
structure Output where
  bits : Nat
  flags : Flags
  missed : Bool
  val : Num
deriving DecidableEq, Repr

/-- A power-of-two output scale. -/
def convertPow2 (n : Ncw) (osign : Bool) (osc : Int) (x : Num) : Output :=
  let f := fmtOf n.fmtOut
  let xs := numScale osc x
  let r := roundTo f osign n.opts false xs
  let y := decode f osign r.1
  let mx := maxFinite f osign
  let big := Num.fin false mx.1 mx.2
  let live := match x with | .fin _ _ _ => true | _ => false
  let zero := match y with | .zero _ => true | _ => false
  let miss := live && ((r.2 &&& fOverflow) != 0#9 || zero ||
    (numFinite y && numCmp (numAbs y) big == .eq && numCmp (numAbs xs) big == .gt) ||
    (isPosit f && (r.2 &&& fUnderflow) != 0#9))
  ⟨r.1, r.2, miss, y⟩

/-- |x| / |S| rounded to an integer, ties away from zero, and whether it was inexact. -/
def quotAway (m : Nat) (e : Int) (s : Nat) (f : Int) : Nat × Bool :=
  let num := m * 2 ^ (e - f).toNat
  let den := s * 2 ^ (f - e).toNat
  ((2 * num + den) / (2 * den), num % den != 0)

/-- An asymmetric int8 output (R75); INEXACT wherever the code's value is not x: with S zero every code is worth 0, with S NaR NaR.
The code z of a finite non-zero x counts as missed (R141). -/
def convertAsym (osign : Bool) (sraw zraw : Nat) (x : Num) : Output :=
  let z := decodeInt 8 osign zraw
  let g := intRange .int8 osign
  let out (c : Int) (fl : Flags) (miss : Bool) : Output := ⟨intBits 8 c, fl, miss, numOfInt false (c - z) 0⟩
  match decode .posit16 true sraw, x with
  | .fin sn sm se, .fin xn m e =>
    let q := quotAway m e sm se
    let c0 := (if sn != xn then -(q.1 : Int) else (q.1 : Int)) + z
    let c := max g.1 (min g.2 c0)
    out c (flagIf (c != c0) fOverflow ||| flagIf (q.2 || c != c0) fInexact) (c != c0 || c == z)
  | .fin _ _ _, .zero _ => out z fNone false
  | .fin _ _ _, .inf s => out (if s then g.1 else g.2) (fInvalid ||| fInexact) false
  | .zero _, .zero _ => out z fInvalid false
  | .nar, .nar => out z fInvalid false
  | _, y => out z (fInvalid ||| fInexact) (match y with | .fin _ _ _ => true | _ => false)

/-- A whole conversion of the 64 values with an output exponent. -/
def convertAll (t : Tile) (x : Drain) (osc : Int) (xs : List Num) : List Output :=
  let w := wd x.ws 0
  let w3 := wd x.ws 3
  xs.map (fun v => if bit w 46 then convertAsym (bit w 47) (fld w3 45 30) (fld w3 29 22) v
    else convertPow2 t.n (bit w 47) osc v)

/-- Lt of Table 6.4. -/
def retryTop (f : Nat) (sg : Bool) : Int :=
  match fmtOf f with
  | .posit8 | .posit16 | .posit32 => 0
  | .e4m3 => 7 | .e5m2 => 14 | .fp16 => 14 | .bf16 => 126 | .fp32 => 126
  | .int8 => if sg then 5 else 6
  | _ => 29

/-- OSCALE' of R144. -/
def retryScale (n : Ncw) (osign : Bool) (osc : Int) (m : Num) : Int :=
  match m with
  | .fin _ k e => max (-128) (min 127 (retryTop n.fmtOut osign - lead k e))
  | _ => osc

/-- The 64 outputs' places. -/
def cells64 : List (Nat × Nat) := (List.range 64).map (fun c => (c / 8, c % 8))

/-- The histogram word of an output (Table 6.2). -/
def histWord (y : Num) : Nat :=
  match y with
  | .nar => 65
  | .inf _ => 63
  | .zero _ => 64
  | .fin _ m e => (max 0 (min 63 (lead m e + 32))).toNat

/-- A maximum stored as FP32, a tiny one as zero under SUBFLUSH (R137, R50 item 2). (DEDUCED: LOG 115.) -/
def storeMax (n : Ncw) (m : Num) : Nat := (roundTo .fp32 true { subflush := n.subflush } false m).1

/-- Max of magnitudes (R53, R54). -/
def maxAbs (l : List Num) : Num := l.foldl (fun a x => numMax a (numAbs x)) (.zero false)

/-- OSCALE of a DRAIN. -/
def drScale (x : Drain) : Int := signedField 8 (fld (wd x.ws 0) 36 29)

/-- The values x a DRAIN has taken, in the order of the cells, and the flags of forming them. -/
def drainXs (x : Drain) : List Num × Flags :=
  (cells64.map (fun c => match x.xs.find? (fun e => e.1 == 8 * c.1 + c.2) with | some e => e.2.1 | none => .nar),
    x.xs.foldl (fun a e => a ||| e.2.2) fNone)

/-- Address of output (i, j) of a DRAIN (R183). -/
def outAddr (t : Tile) (x : Drain) (i j : Nat) : Nat :=
  localAddr x.regs (wd x.ws 0) (fld (wd x.ws 0) 28 11) + 8 * fld (wd x.ws 2) 11 0 * i + elemBytes t.n.fmtOut * j

/-- The pieces of SRAM in which a DRAIN's outputs of some cells of one row or diagonal stand (R183): a row of 8 is one piece. -/
def outPieces (t : Tile) (x : Drain) (cells : List (Nat × Nat)) : List (Nat × List (Nat × Nat)) :=
  match cells with
  | [] => []
  | c :: _ =>
    if cells.length = 8 && cells.all (fun y => y.1 == c.1) then [(outAddr t x c.1 0, cells)]
    else cells.map (fun y => (outAddr t x y.1 y.2, [y]))

/-- Write the outputs of some cells (R99, R183). -/
def writeOutputs (x : Drain) (cells : List (Nat × Nat)) (os : List Output) (t : Tile) : Tile :=
  let s := elemBytes t.n.fmtOut
  (outPieces t x cells).foldl (fun t e =>
    t.wr e.1 (e.2.flatMap (fun c => natLe s (match os[8 * c.1 + c.2]? with | some o => o.bits | none => 0)))) t

/-- A write of outputs meets an uncorrectable word that it replaces in part (R103, R104). -/
def outputsBad (t : Tile) (x : Drain) (cells : List (Nat × Nat)) : Bool :=
  (outPieces t x cells).any (fun e => t.badWrite e.1 (elemBytes t.n.fmtOut * e.2.length))

/-- The write of a DRAIN's scale entry or block maxima meets one. -/
def tailBad (t : Tile) (x : Drain) : Bool :=
  let w := wd x.ws 0
  (bit w 38 && t.badWrite (localAddr x.regs w (fld (wd x.ws 2) 45 28)) 2) ||
    (t.n.rmax && t.badWrite (localAddr x.regs w (fld (wd x.ws 3) 63 46)) 32)

/-- RMAX after a DRAIN (R137). (DEDUCED: LOG 32.) -/
def updateRmax (xs : List Num) (t : Tile) : Tile :=
  if t.n.rmax then { t with rmax := BitVec.ofNat 32 (storeMax t.n (numMax (decode .fp32 true t.rmax.toNat) (maxAbs xs))) } else t

/-- The scale entry and the block maxima are written in the cycle after acceptance and in the next, and complete in the cycle after that
(R136, R137, R147). -/
def drainTail (cyc : Nat) (x : Drain) (t : Tile) : Tile :=
  let w := wd x.ws 0
  let t0 := t.fly cyc 6 cyc [⟨true, localAddr x.regs w (fld w 28 11), 56 * fld (wd x.ws 2) 11 0 + 8 * elemBytes t.n.fmtOut, 1⟩]
  let t1 := if bit w 38 then t0.fly cyc 7 (cyc + 2) [⟨true, localAddr x.regs w (fld (wd x.ws 2) 45 28), 2, 1⟩] else t0
  let t2 := if t.n.rmax then t1.fly cyc 7 (cyc + 3) [⟨true, localAddr x.regs w (fld (wd x.ws 3) 63 46), 32, 1⟩] else t1
  let job : Job := { rank := 0, unit := 7, todo :=
    (if bit w 38 then [(cyc + 1, wordsOf (localAddr x.regs w (fld (wd x.ws 2) 45 28)) 2)] else []) ++
      (if t.n.rmax then [(cyc + 2, wordsOf (localAddr x.regs w (fld (wd x.ws 3) 63 46)) 32)] else []) }
  (t2.addJob job).onSlots (drArr w) (drSlot w) t.n.span (slotAccepted cyc)

/-- Accept a conversion whose outputs stand in SRAM: histogram, flags, scale entry, block maxima (R136 to R138, R145). -/
def acceptDrain (cyc : Nat) (x : Drain) (osc : Int) (xs : List Num) (os : List Output) (fl : Flags) (t : Tile) : Tile :=
  let w := wd x.ws 0
  let w2 := wd x.ws 2
  let n := t.n
  let t2 := if n.hist then { t with hist := os.foldl (fun h o => tmod 0#32 h (histWord o.val) (fun c => satAdd 32 c 1)) t.hist } else t
  let t3 := raiseT (fl ||| os.foldl (fun a o => a ||| o.flags) fNone) t2
  let t4 := if bit w 38 then
      let e : Int := if osc = -128 then 127 else -osc
      raiseT (flagIf (osc == -128) fOverflow)
        (t3.wrLe (localAddr x.regs w (fld w2 45 28)) 2 (intBits 8 e + fld w2 27 12 % 16 * 4096))
    else t3
  drainTail cyc x <| if n.rmax then
    let ms := (List.range 8).flatMap (fun r =>
      natLe 4 (storeMax n (maxAbs ((List.range 8).map (fun k => xs.getD (if bit w 37 then 8 * k + r else 8 * r + k) .nar)))))
    t4.wr (localAddr x.regs w (fld (wd x.ws 3) 63 46)) ms
  else t4

/-- T of R142. -/
def Ncw.threshold (n : Ncw) : Nat := 2 ^ n.miss

/-- How many outputs were missed. -/
def missCount (os : List Output) : Nat := (os.filter (·.missed)).length

/-- The DRAINs of a tile without one. -/
def otherDrains (t : Tile) (x : Drain) : List Drain := t.drains.filter (fun y => y.issue != x.issue)

/-- Change a DRAIN of a tile. -/
def Tile.onDrain (x : Drain) (f : Drain → Drain) (t : Tile) : Tile :=
  { t with drains := t.drains.map (fun y => if y.issue = x.issue then f y else y) }

/-! ### When a DRAIN takes and writes its outputs (R97, R99, R100, R146) -/

/-- How a DRAIN goes over its outputs: the CYCLE in which it takes the first, in chained form 15 anti-diagonals, in settled form 8
rows. -/
structure DrainPlan where
  lo : Nat
  steps : Nat
deriving DecidableEq, Repr

/-- The passes into a DRAIN's slot that issued before it and are unfinished (R97). -/
def drainPasses (t : Tile) (x : Drain) : List Pass :=
  let w := wd x.ws 0
  (t.passes (drArr w)).filter (fun q => slotsMeet q.slot t.n.span (drSlot w) t.n.span && !q.after.contains x.issue)

/-- Chained form when it issued before its slot was final in every cell, else settled form (R99). A chained DRAIN that issues after
some diagonals are final takes diagonal d in the (d + 1)-th cycle after its issue. (DESIGN CHOICE: LOG 118.) -/
def drainPlan (t : Tile) (x : Drain) : DrainPlan :=
  let w := wd x.ws 0
  let n := t.n
  let f : Nat × Nat :=
    match x.fin with
    | some y => y
    | none =>
      let y := slotTime t (drArr w) (drSlot w) n.span
      match (drainPasses t x).getLast? with
      | some q => (max (q.final n) y.first, max (q.final n + 14) y.last)
      | none => (y.first, y.last)
  if x.issue > f.2 then ⟨x.issue + 1, 8⟩ else ⟨max f.1 x.issue + 1, 15⟩

/-- The cells of step k. -/
def stepCells (y : DrainPlan) (k : Nat) : List (Nat × Nat) :=
  if y.steps = 8 then (List.range 8).map (fun j => (k, j)) else cells64.filter (fun c => c.1 + c.2 == k)

/-- CYCLE in which a DRAIN takes step k; a retry before it may hold it (R146). -/
def Drain.input (x : Drain) (y : DrainPlan) (k : Nat) : Nat :=
  match x.stall with
  | some (from_, at_) => if from_ ≤ k then at_ + (k - from_) else y.lo + k
  | none => y.lo + k

/-- L: the CYCLE in which a DRAIN's first pass writes its last output, 3 cycles after it took it (R99, R146). -/
def drainLast (t : Tile) (x : Drain) : Nat := let y := drainPlan t x; x.input y (y.steps - 1) + 3

/-- The input cycles a DRAIN keeps the conversion unit for; a second pass keeps it until its acceptance (R99, R146). -/
def drainWindow (still : Bool) (t : Tile) (x : Drain) : Nat × Nat :=
  let y := drainPlan t x
  (x.input y 0, if x.again.isSome || (still && t.n.policy == 2) then drainLast t x + 16 else x.input y (y.steps - 1))

/-- A DRAIN may issue: its input cycles overlap none of an earlier DRAIN's (R99). -/
def drainClear (cyc : Nat) (d : Dev) (t : Tile) (ws : List W64) : Bool :=
  let still := (graphAt d t.handle).still
  let a := drainWindow still t { ws := ws, regs := t.regs, issue := cyc }
  t.drains.all (fun x => let b := drainWindow still t x; decide (b.2 < a.1) || decide (a.2 < b.1))

/-- A cell's field is what a DRAIN converts: every earlier MMA into the slot has added its last group there (R97), and an earlier QOP has
changed it (R184). -/
def cellReady (t : Tile) (x : Drain) (c : Nat) : Bool :=
  let w := wd x.ws 0
  (drainPasses t x).all (fun q => tget 0 q.done c == q.groups t.n) &&
    t.held.all (fun h => decide (x.issue ≤ h.issue) || 2 < qSub (wd h.ws 0) || qArrD (wd h.ws 0) != drArr w ||
      !slotsMeet (qSlotD (wd h.ws 0)) t.n.span (drSlot w) t.n.span || !h.left.contains c)

/-- A DRAIN takes the outputs of its next step, unless a slot it reads is uncorrectable (R104). -/
def takeStep (cyc : Nat) (x : Drain) (t : Tile) : Tile :=
  let w := wd x.ws 0
  let cs := stepCells (drainPlan t x) x.taken
  let ks := cs.map (fun c => 8 * c.1 + c.2)
  if slotBad t t.n.qwidth (drArr w) (drSlot w) ks then t.stop .uncorrectable cyc
  else
    (t.countSlot t.n.qwidth (drArr w) (drSlot w) ks).onDrain x (fun y =>
      { y with taken := y.taken + 1, xs := y.xs ++ cs.map (fun c => (8 * c.1 + c.2, drainX t x c.1 c.2)) })

/-- The retry of a DRAIN occupies the conversion unit until CYCLE last + 16: a DRAIN behind it that has not taken all its outputs by
`last` goes on afterwards (R146). -/
def stallBehind (x : Drain) (last : Nat) (t : Tile) : Tile :=
  { t with drains := t.drains.map (fun y =>
      let p := drainPlan t y
      match (List.range p.steps).find? (fun k => decide (last < y.input p k)) with
      | some k => if x.issue < y.issue then { y with stall := some (k, last + 17) } else y
      | none => y) }

/-- The end of a DRAIN's first pass in cycle L: it is accepted, or left for its converting pass (R143, R144, R146). -/
def firstEnd (still : Bool) (last : Nat) (x : Drain) (t : Tile) : Tile :=
  let n := t.n
  let w := wd x.ws 0
  let v := drainXs x
  let os := convertAll t x (drScale x) v.1
  let missed := n.policy != 0 && decide (missCount os > n.threshold)
  let t1 := updateRmax v.1 t
  let t2 := if missed then { t1 with smiss := satAdd 16 t1.smiss 1 } else t1
  if n.policy = 2 && (still || missed) then
    let osc' := if missed then retryScale n (bit w 47) (drScale x) (maxAbs v.1) else drScale x
    let t3 := t2.onDrain x (fun y => { y with again := some osc' })
    if still then t3 else stallBehind x last t3
  else if tailBad t x then t.stop .uncorrectable last
  else
    { acceptDrain last x (drScale x) v.1 os (v.2 ||| flagIf (missed && n.policy == 1) fScaleMiss) t2 with
      drains := otherDrains t x }

/-- A DRAIN writes the outputs of its next step, a measuring pass nothing; the last ends the first pass. -/
def writeStep (cyc : Nat) (still : Bool) (x : Drain) (t : Tile) : Tile :=
  let y := drainPlan t x
  let cs := stepCells y x.wrote
  let measure := still && t.n.policy == 2
  let ends := x.wrote + 1 == y.steps
  if !measure && outputsBad t x cs then t.stop .uncorrectable cyc
  else
    let t1 := if measure then t else writeOutputs x cs (convertAll t x (drScale x) (drainXs x).1) t
    let t2 := t1.onDrain x (fun y => { y with wrote := y.wrote + 1 })
    if ends then firstEnd still (drainLast t x) x t2 else t2

/-- What a DRAIN of a tile has due in a cycle: the next outputs it writes, or takes. -/
def drainStep (cyc : Nat) (still : Bool) (t : Tile) (x : Drain) : Option Tile :=
  let y := drainPlan t x
  if x.wrote < x.taken && decide (x.input y x.wrote + 3 ≤ cyc) then some (writeStep cyc still x t)
  else if x.taken < y.steps && decide (x.input y x.taken ≤ cyc) &&
      (stepCells y x.taken).all (fun c => cellReady t x (8 * c.1 + c.2)) then some (takeStep cyc x t)
  else none

/-- Everything DRAINs have due in a cycle, in order, on fuel. -/
def drainGo : Nat → Nat → Bool → Tile → Tile
  | 0, _, _, t => t
  | f + 1, cyc, still, t =>
    match t.drains.findSome? (drainStep cyc still t) with
    | none => t
    | some u => drainGo f cyc still u

/-- A DRAIN has something due. -/
def drainDue (cyc : Nat) (still : Bool) (t : Tile) : Bool := (t.drains.findSome? (drainStep cyc still t)).isSome

/-- DRAIN (R99, R132): what the tile's DRAINs have due in this cycle is taken and written; where nothing is, the next instruction issues
when it is a DRAIN. -/
def execDrain (tile : Nat) (s : State) : Out :=
  onDev s (fun p d =>
    match tileOf d.geom tile with
    | none => d
    | some k =>
      let t := tileAt d k
      let still := (graphAt d t.handle).still
      if !p.alive || !tileRuns d t || !(t.phase == .running || t.phase == .ended) then d
      else if drainDue p.cyc still t then modTile k (drainGo (30 * t.drains.length) p.cyc still) d
      else
        issueDev tile (fun ws => opOf (wd ws 0) == 0x30) drainClear
          (fun p k ws d => modTile k (fun t =>
            { t with drains := t.drains ++ [{ ws := ws, regs := t.regs, issue := p.cyc }] }) d) p d)

/-- A DRAIN's converting pass has a row due: row i is written in cycle L + 9 + i (R146). -/
def retryDue (cyc : Nat) (t : Tile) (x : Drain) : Bool :=
  x.again.isSome && decide (x.rows < 8) && decide (drainLast t x + 9 + x.rows ≤ cyc)

/-- The converting pass writes a row; the last accepts the DRAIN in cycle L + 16 (R144 to R146). -/
def retryStep (cyc : Nat) (x : Drain) (t : Tile) : Tile :=
  let osc := x.again.getD 0
  let v := drainXs x
  let os := convertAll t x osc v.1
  let cs := (List.range 8).map (fun j => (x.rows, j))
  if outputsBad t x cs || (x.rows == 7 && tailBad t x) then t.stop .uncorrectable cyc
  else
    let t1 := (writeOutputs x cs os t).onDrain x (fun y => { y with rows := y.rows + 1 })
    if x.rows = 7 then
      { acceptDrain (drainLast t x + 16) x osc v.1 os (v.2 ||| flagIf (decide (missCount os > t.n.threshold)) fScaleMiss) t1 with
        drains := otherDrains t x }
    else t1

/-- The rows of a converting pass that are due, on fuel. -/
def retryGo : Nat → Nat → Tile → Tile
  | 0, _, t => t
  | f + 1, cyc, t => match t.drains.find? (retryDue cyc t) with | none => t | some x => retryGo f cyc (retryStep cyc x t)

/-- DRAIN_RETRY (R146): what the converting passes of the tile's DRAINs have due; 16 cycles after its first pass a DRAIN is accepted. -/
def execDrainRetry (tile : Nat) (s : State) : Out :=
  onDev s (fun p d =>
    match tileOf d.geom tile with
    | none => d
    | some k =>
      let t := tileAt d k
      if !p.alive || !tileRuns d t || !(t.phase == .running || t.phase == .ended) then d
      else modTile k (retryGo (8 * t.drains.length) p.cyc) d)

/-- The words that the conversion unit writes in a cycle (R99, R146). -/
def convWords (cyc : Nat) (still : Bool) (t : Tile) : List Nat :=
  (t.drains.flatMap (fun x =>
    let y := drainPlan t x
    let first := (List.range y.steps).filter (fun k => x.input y k + 3 == cyc && !(still && t.n.policy == 2))
    let again := (List.range 8).filter (fun i => x.again.isSome && drainLast t x + 9 + i == cyc)
    ((first.map (stepCells y)) ++ again.map (fun i => (List.range 8).map (fun j => (i, j)))).flatMap (fun cs =>
      (outPieces t x cs).flatMap (fun e => wordsOf e.1 (elemBytes t.n.fmtOut * e.2.length))))).eraseDups

/-! ### Quire operations (R184) -/

/-- The next instruction is a QOP of a sub-operation. -/
def isQop (sub : Nat) (ws : List W64) : Bool := opOf (wd ws 0) == 0x40 && qSub (wd ws 0) == sub

/-- The rows of the slots a QOP names are final by the cycles in which it reads them, row i in issue + 1 + i or later; a QOP that writes
its slot waits for the DRAINs that read it (R97, R184). (DEDUCED: LOG 102.) -/
def qopClear (cyc : Nat) (t : Tile) (ws : List W64) : Bool :=
  let w := wd ws 0
  let n := t.n
  (qopSlots w).all (fun x => decide ((slotTime t x.1 x.2 n.span).qop ≤ cyc) &&
      (t.passes x.1).all (fun q => !slotsMeet q.slot n.span x.2 n.span || decide (q.final n + 7 ≤ cyc))) &&
    (decide (2 < qSub w) ||
      (!slotInDrain t (qArrD w) (qSlotD w) n.span && decide ((slotTime t (qArrD w) (qSlotD w) n.span).write ≤ cyc)))

/-- A slot that a QOP reads has an uncorrectable error (R104). -/
def qopBad (t : Tile) (ws : List W64) : Bool :=
  let w := wd ws 0
  (qSub w != 2 && slotBad t t.n.qwidth (qArrD w) (qSlotD w) allCells) ||
    (qSub w == 0 && slotBad t t.n.qwidth (qArrS w) (qSlotS w) allCells)

/-- Corrected words of the slots a QOP reads are counted (R103). -/
def qopCount (w : W64) (t : Tile) : Tile :=
  let t1 := if qSub w = 2 then t else t.countSlot t.n.qwidth (qArrD w) (qSlotD w) allCells
  if qSub w = 0 then t1.countSlot t.n.qwidth (qArrS w) (qSlotS w) allCells else t1

/-- A QOP is held for the cells it cannot act on yet (R184). -/
def holdQop (cyc : Nat) (ws : List W64) (left : List Nat) (t0 t : Tile) : Tile :=
  let w := wd ws 0
  if left.isEmpty then t
  else
    let free := (List.range 64).filter (fun c => !left.contains c)
    { t with held := t.held ++ [{ ws := ws, regs := t0.regs, issue := cyc, anchor := t0.anchorOf (qArrD w) (qSlotD w), left := left,
                                  fields := if qSub w ≤ 2 then [] else
                                    free.map (fun c => (c, t0.slotGet t0.n.qwidth (qArrD w) (qSlotD w) c)) }] }

/-- A QOP that issues, unless it reads an uncorrectable slot: its effect on the cells whose earlier passes have ended; it is held for
the others. -/
def qopIssue (tile sub : Nat) (f : Table Nat → List W64 → List Nat → Tile → Tile) (s : State) : Out :=
  issueTile tile (isQop sub) qopClear (fun p ws t =>
    if qopBad t ws then t.stop .uncorrectable p.cyc
    else
      let left := qopLeft t (wd ws 0)
      holdQop p.cyc ws left t (f t.regs ws ((List.range 64).filter (fun c => !left.contains c)) (qopCount (wd ws 0) t))) s

/-- QADD (R69, R38). -/
def execQadd (tile : Nat) (s : State) : Out :=
  qopIssue tile 0 (fun regs ws cells t => qopCells cells regs (wd ws 0) t) s

/-- QSHR. -/
def execQshr (tile : Nat) (s : State) : Out :=
  qopIssue tile 1 (fun regs ws cells t => qopCells cells regs (wd ws 0) t) s

/-- QLD: loads the slot, sets its anchor, drops its along-output factor. -/
def execQld (tile : Nat) (s : State) : Out :=
  qopIssue tile 2 (fun regs ws cells t =>
    let w := wd ws 0
    let key := qArrD w * 16 + qSlotD w
    let t1 := qopCells cells regs w t
    { t1 with anchor := tset 0 t1.anchor key (signed9 (qAmt w)), factA := tdel t1.factA key, factB := tdel t1.factB key }) s

/-- QST: stores the slot once it has read every cell. -/
def execQst (tile : Nat) (s : State) : Out :=
  qopIssue tile 3 (fun regs ws cells t =>
    let w := wd ws 0
    if cells.length = 64 then qstWrite regs w (fun c => t.slotGet t.n.qwidth (qArrD w) (qSlotD w) c) t else t) s

/-- QRND: each cell's value rounded once, stored once it has read every cell. -/
def execQrnd (tile : Nat) (s : State) : Out :=
  qopIssue tile 4 (fun regs ws cells t =>
    let w := wd ws 0
    if cells.length = 64 then
      qrndWrite regs w (t.anchorOf (qArrD w) (qSlotD w)) (fun c => t.slotGet t.n.qwidth (qArrD w) (qSlotD w) c) t
    else t) s

end Sys2Proof.Machine
end

