-- ==== Sys2Proof/Machine/Special.lean ====
section
/-! DEFINITION. The special-function unit (07 R163 to R169): special inputs, exact results, and results within the bound of
Table 7.6. -/

namespace Sys2Proof.Machine

/-! ### Fixed point: an integer v stands for v * 2^-fxP -/

/-- Fraction bits of the evaluation. -/
def fxP : Nat := 1000

/-- One. -/
def fxOne : Int := 2 ^ fxP

/-- Product. -/
def fxMul (a b : Int) : Int := a * b / fxOne

/-- Quotient. -/
def fxDiv (a b : Int) : Int := if b = 0 then 0 else a * fxOne / b

/-- A dyadic m * 2^e, bits below 2^-fxP cut. -/
def fxOf (m : Int) (e : Int) : Int := if e + fxP ≥ 0 then m * 2 ^ (e + fxP).toNat else m / 2 ^ (-(e + fxP)).toNat

/-- Sum of a series on fuel: from a term and its number, the next term. -/
def fxSeries (next : Int → Nat → Int) : Nat → Int → Nat → Int
  | 0, _, _ => 0
  | k + 1, t, n => if t = 0 then 0 else t + fxSeries next k (next t n) (n + 1)

/-- e^r for |r| at most 1. -/
def fxExp (r : Int) : Int := fxSeries (fun t n => fxMul t r / (n + 1)) 400 fxOne 0

/-- Sum of z^(2k+1) / (2k+1), with sign -1 to the k where `alt` (atan), else atanh. -/
def fxOdd (alt : Bool) (z : Int) : Nat → Int → Nat → Int
  | 0, _, _ => 0
  | k + 1, p, n =>
    if p = 0 then 0
    else
      let q := p / (2 * n + 1)
      (if alt && n % 2 == 1 then -q else q) + fxOdd alt z k (fxMul p (fxMul z z)) (n + 1)

/-- atanh z for |z| at most 1/3. -/
def fxAtanh (z : Int) : Int := fxOdd false z 700 z 0

/-- ln 2. -/
def fxLn2 : Int := 2 * fxAtanh (fxOne / 3)

/-- pi, by Machin's formula. -/
def fxPi : Int := 4 * (4 * fxOdd true (fxOne / 5) 700 (fxOne / 5) 0 - fxOdd true (fxOne / 239) 700 (fxOne / 239) 0)

/-- e^-y for y at least 0. -/
def fxExpNeg (y : Int) : Int :=
  let k := y / fxLn2
  fxExp (-(y - k * fxLn2)) / 2 ^ k.toNat

/-- sin r and cos r for |r| below 1. -/
def fxSinCos (r : Int) : Int × Int :=
  let r2 := fxMul r r
  let s := fxSeries (fun t n => -(fxMul t r2) / ((2 * n + 2) * (2 * n + 3) : Nat)) 400 r 0
  let c := fxSeries (fun t n => -(fxMul t r2) / ((2 * n + 1) * (2 * n + 2) : Nat)) 400 fxOne 0
  (s, c)

/-- A fixed-point value as a number. -/
def fxNum (v : Int) : Num := numOfInt false v (-(fxP : Int))

/-! ### Exact or sufficiently exact results of finite non-zero inputs -/

/-- 2^x; x beyond any format's range is cut to a power no format holds. -/
def sfuExp2 (m e : Int) : Num :=
  let n0 := if e ≥ 0 then (if lead m.natAbs e > 20 then (if m < 0 then -5000 else 5000) else m * 2 ^ e.toNat) else m / 2 ^ (-e).toNat
  let n := max (-5000) (min 5000 n0)
  if n ≠ n0 then .fin false 1 n
  else
    let f := if e ≥ 0 then 0 else fxOf (m - n * 2 ^ (-e).toNat) e
    .fin false (fxExp (fxMul f fxLn2)).toNat (n - fxP)

/-- log2 x for x > 0. -/
def sfuLog2 (m : Nat) (e : Int) : Num :=
  let k := lead m e
  let f := fxOf m (-(Nat.log2 m : Int))
  fxNum (k * fxOne + fxDiv (2 * fxAtanh (fxDiv (f - fxOne) (f + fxOne))) fxLn2)

/-- 1/sqrt x for x > 0. -/
def sfuRsqrt (m : Nat) (e : Int) : Num :=
  let par := (e % 2).toNat
  let n := m * 2 ^ par
  let sh := Nat.log2 n + 600
  let r := isqrt (2 ^ (2 * sh) / n)
  if r * r * n = 2 ^ (2 * sh) then .fin false r (-(sh : Int) - (e - par) / 2)
  else .fin false (2 * r + 1) (-(sh : Int) - (e - par) / 2 - 1)

/-- |x| in fixed point, at most c. -/
def fxAbsMin (m : Nat) (e : Int) (c : Nat) : Int := if lead m e > 20 then c * fxOne else min (fxOf m e) (c * fxOne)

/-- tanh |x|. -/
def sfuTanh (m : Nat) (e : Int) : Num :=
  let t := fxExpNeg (2 * fxAbsMin m e 250)
  fxNum (fxDiv (fxOne - t) (fxOne + t))

/-- 1/(1 + e^-x). -/
def sfuSigmoid (neg : Bool) (m : Nat) (e : Int) : Num :=
  let t := fxExpNeg (fxAbsMin m e 400)
  fxNum (fxDiv (if neg then t else fxOne) (fxOne + t))

/-- Phi(-|x|) for |x| at most 16; beyond, a value that is not zero. -/
def fxPhiNeg (m : Nat) (e : Int) : Int :=
  let y := fxAbsMin m e 17
  if y > 16 * fxOne then fxOne / 2 ^ 190
  else
    let y2 := fxMul y y
    let s := fxSeries (fun t n => fxMul t y2 / ((2 * n + 3 : Nat) : Int)) 2500 y 0
    let root := (isqrt ((2 * fxPi).toNat * fxOne.toNat) : Int)
    fxOne / 2 - fxMul (fxDiv (fxExpNeg (y2 / 2)) root) s

/-- x * Phi(x); below -16 a value under every one that a format holds. -/
def sfuGelu (neg : Bool) (m : Nat) (e : Int) : Num :=
  let p := fxPhiNeg m e
  if neg && fxAbsMin m e 17 > 16 * fxOne then .fin true 1 (-400)
  else (numMul (.fin neg m e) (fxNum (if neg then p else fxOne - p))).1

/-- sin x and cos x, the argument reduced exactly (R163). -/
def sfuSinCos (neg : Bool) (m : Nat) (e : Int) : Num × Num :=
  let x := fxOf m e
  let h := fxPi / 2
  let k := (2 * x + h) / (2 * h)
  let sc := fxSinCos (x - k * h)
  let q := k % 4
  let sn := if q = 0 then sc.1 else if q = 1 then sc.2 else if q = 2 then -sc.1 else -sc.2
  let cs := if q = 0 then sc.2 else if q = 1 then -sc.1 else if q = 2 then -sc.2 else sc.1
  (fxNum (if neg then -sn else sn), fxNum cs)

/-- The result of a function at a finite non-zero input (Table 7.5). -/
def sfuFinite (fn : Nat) (neg : Bool) (m : Nat) (e : Int) : Num :=
  let sm : Int := if neg then -(m : Int) else m
  match fn with
  | 0x0 => sfuExp2 sm e
  | 0x1 => if m = 2 ^ Nat.log2 m then numOfInt false (lead m e) 0 else sfuLog2 m e
  | 0x2 => let q := quotDy 1 0 m e; .fin neg q.1 q.2
  | 0x3 => sfuRsqrt m e
  | 0x4 => let r := sqrtDy m e; .fin false r.1 r.2
  | 0x5 => (numMul (.fin neg 1 0) (sfuTanh m e)).1
  | 0x6 => sfuSigmoid neg m e
  | 0x7 => sfuGelu neg m e
  | 0x8 => (numMul (.fin neg m e) (sfuSigmoid neg m e)).1
  | 0x9 => (sfuSinCos neg m e).1
  | _ => (sfuSinCos neg m e).2

/-- Special inputs (Table 7.7): the result before rounding and its flag; none at an ordinary input. -/
def sfuSpecial (fn : Nat) (x : Num) : Option (Num × Flags) :=
  let one (s : Bool) : Num := .fin s 1 0
  match x with
  | .nar => some (.nar, fNone)
  | .zero s =>
    match fn with
    | 0x0 => some (one false, fNone)
    | 0x1 => some (.inf true, fOverflow)
    | 0x2 => some (.inf s, fOverflow)
    | 0x3 => some (.inf s, fOverflow)
    | 0x6 => some (.fin false 1 (-1), fNone)
    | 0xA => some (one false, fNone)
    | _ => some (.zero s, fNone)
  | .inf s =>
    match fn with
    | 0x0 => some (if s then .zero false else .inf false, fNone)
    | 0x1 => some (if s then (.nar, fInvalid) else (.inf false, fNone))
    | 0x2 => some (.zero s, fNone)
    | 0x3 => some (if s then (.nar, fInvalid) else (.zero false, fNone))
    | 0x4 => some (if s then (.nar, fInvalid) else (.inf false, fNone))
    | 0x5 => some (one s, fNone)
    | 0x6 => some (if s then .zero false else one false, fNone)
    | 0x7 => some (if s then .zero true else .inf false, fNone)
    | 0x8 => some (if s then .zero true else .inf false, fNone)
    | _ => some (.nar, fInvalid)
  | .fin s _ _ => if s && (fn == 0x1 || fn == 0x3 || fn == 0x4) then some (.nar, fInvalid) else none

/-! ### Rounding within the bound (R164, R168, R169) -/

/-- The greatest ordinal (pattern of a non-negative finite value) of a format. -/
def maxOrd (f : Fmt) : Nat :=
  match f with
  | .posit8 | .posit16 | .posit32 => 2 ^ (fmtBits f - 1) - 1
  | .e4m3 => 0x7E
  | f => (floatParams f).2.2 * 2 ^ ((floatParams f).1 - 1) + (2 ^ ((floatParams f).1 - 1) - 1)

/-- Value of an ordinal. -/
def ordVal (f : Fmt) (k : Nat) : Num := decode f true k

/-- The greatest ordinal whose value is not above a positive value. -/
def ordFloor (f : Fmt) (y : Num) : Nat :=
  let k := min (maxOrd f) (roundTo f true {} false (numAbs y)).1
  if numCmp (ordVal f k) (numAbs y) = .gt then k - 1 else k

/-- The least ordinal whose value is not below a value, 0 for values up to zero. -/
def ordCeil (f : Fmt) (y : Num) : Nat :=
  match y with
  | .fin false _ _ => let k := ordFloor f y; if numCmp (ordVal f k) y = .lt then k + 1 else k
  | _ => 0

/-- The pattern of an ordinal with a sign. -/
def ordBits (f : Fmt) (neg : Bool) (k : Nat) : Nat :=
  if !neg then k
  else if isPosit f then (if k = 0 then 0 else 2 ^ fmtBits f - k) else 2 ^ (fmtBits f - 1) + k

/-- Bound e of Table 7.6 in half ulps. -/
def sfuBound (fn : Nat) (f : Fmt) : Nat :=
  if fmtBits f = 8 ∨ fn = 0x2 ∨ fn = 0x4 then 1
  else if fn = 0x0 ∨ fn = 0x1 ∨ fn = 0x3 then 2
  else if fmtBits f = 32 then 4 else 2

/-- The absolute error of footnote 1 applies. -/
def sfuAbsolute (fn : Nat) (f : Fmt) (x : Num) : Bool :=
  fmtBits f != 8 && ((fn == 0x7 && numCmp x (.fin true 8 0) == .lt) || (fn == 0x8 && numCmp x (.fin true 20 0) == .lt))

/-- A result within the bound: the one the active table gives, which the model leaves open (LOG 10). A posit result is zero only under
footnote 1 (R35); under SUBFLUSH a subnormal result is flushed (R50). -/
def sfuRound (fn : Nat) (f : Fmt) (o : RndOpts) (x y : Num) (choice : Nat) : Nat × Flags :=
  let r := roundTo f true o false y
  let k := ordFloor f y
  let wide := sfuAbsolute fn f x
  if r.2 == fNone || sfuBound fn f == 1 || (r.2 &&& (fOverflow ||| fFlushed)) != fNone || decide (k ≥ maxOrd f) ||
      (isPosit f && !wide && (r.2 &&& fUnderflow) != fNone) then r
  else
    let ulp := (numAdd false (ordVal f (k + 1)) (numMinus (ordVal f k))).1
    let b0 := if sfuBound fn f = 4 then numScale 1 ulp else ulp
    let b := if wide && numCmp b0 (.fin false 1 (-40)) == .lt then .fin false 1 (-40) else b0
    let lo0 := if sfuBound fn f = 2 && !wide then k else ordCeil f (numAdd false (numAbs y) (numMinus b)).1
    let lo := if isPosit f && !wide then max 1 lo0 else lo0
    let hi := if sfuBound fn f = 2 && !wide then k + 1 else ordFloor f (numAdd false (numAbs y) b).1
    let c := ordBits f (numNeg y) (lo + choice % (hi - lo + 1))
    if o.subflush && isSubnormal f c then (ordBits f (numNeg y) 0, r.2 ||| fFlushed ||| fUnderflow ||| fInexact)
    else (c, r.2 ||| fInexact)

/-- A number that names an exact finite value: its odd significand, sign and exponent. -/
def exactKey : Num → Nat
  | .fin s m e =>
    let low := m - (m &&& (m - 1))
    (m / low * 2 + (if s then 1 else 0)) * 2 ^ 16 + (e + Nat.log2 low + 2 ^ 15).toNat
  | _ => 0

/-- Evaluate a function at an exact input (R163 to R166, R169). -/
def sfuEval (rev fn : Nat) (i f : Fmt) (o : RndOpts) (x : Num) : Nat × Flags :=
  match sfuSpecial fn x with
  | some (v, fl) =>
    let open0 : Bool := match v with | .inf _ => true | .nar => !numNar x | _ => false
    if isPosit f && open0 then (nanBits f, fInvalid)
    else let r := roundTo f true o false v; (r.1, r.2 ||| fl)
  | none =>
    match x with
    | .fin s m e => sfuRound fn f o x (sfuFinite fn s m e) (Config.sfuChoice rev fn i f (exactKey x))
    | _ => (nanBits f, fNone)

/-- SFU_REV of the active Numerics Identity. -/
def sfuRev (d : Dev) : Nat := fld d.fw.nid 47 32

/-! ### The SFU instruction -/

/-- SFU (R163). (DEDUCED: LOG 29.) -/
def execSfu (tile : Nat) (s : State) : Out :=
  onDev s (issueDev tile (fun ws => opOf (wd ws 0) == 0x60) (fun _ _ _ _ => true)
    (fun _ k ws d =>
      let rev := sfuRev d
      modTile k (fun t =>
        let w := wd ws 0
        let i := fmtOf (fld w 48 45)
        let f := fmtOf (fld w 44 41)
        let si := fmtBytes i
        let a := localAddr t.regs w (fld w 22 5)
        let rs := (List.range (fld (wd ws 1) 63 48)).map (fun k =>
          let b := t.rd (a + si * k) si
          let x := decodeIn t.n.subflush i true b
          let r := sfuEval rev (fld w 52 49) i f t.n.opts x.1
          (r.1, r.2 ||| x.2))
        raiseT (rs.foldl (fun x r => x ||| r.2) fNone)
          (t.wr (localAddr t.regs w (fld w 40 23)) (rs.flatMap (fun r => natLe (fmtBytes f) r.1)))) d))

end Sys2Proof.Machine
end

