-- ==== Sys2Proof/Machine/Rows.lean ====
section
/-! DEFINITION. The row-statistics block (07 R150 to R162): online softmax and normalisation in row contexts. -/

namespace Sys2Proof.Machine

/-! ### Operands -/

/-- A row context. -/
def Tile.rowCtx (t : Tile) (c : Nat) : RowCtx := tget {} t.rows c

/-- Address of row i of a block (R188). -/
def rowAddr (t : Tile) (ws : List W64) (field i : Nat) : Nat :=
  localAddr t.regs (wd ws 0) field + 8 * rStride (wd ws 2) * i

/-- Row i of the source block: values, patterns, flags of reading. -/
def rowSource (t : Tile) (ws : List W64) (i : Nat) : List (Num × Nat) × Flags :=
  let f := fmtOf (rFmt1 (wd ws 1))
  let z := fmtBytes f
  let a := rowAddr t ws (fld (wd ws 0) 38 21) i
  let l := (List.range (rB (wd ws 0))).map (fun k =>
    let b := t.rd (a + z * k) z
    let x := decodeIn t.n.subflush f (rSign (wd ws 1)) b
    ((x.1, b), x.2))
  (l.map (·.1), l.foldl (fun a x => a ||| x.2) fNone)

/-- Write row i of the destination. -/
def rowWrite (ws : List W64) (i : Nat) (bits : List Nat) (t : Tile) : Tile :=
  let z := elemBytes (rFmt2 (wd ws 1))
  t.wr (rowAddr t ws (fld (wd ws 0) 20 3) i) (bits.flatMap (natLe z))

/-- A row is exceptional. -/
def RowCell.exc (r : RowCell) : Bool := r.st.testBit 1

/-- M holds a maximum. -/
def RowCell.valid (r : RowCell) : Bool := r.st.testBit 0

/-- EXC set. -/
def RowCell.setExc (r : RowCell) : RowCell := { r with st := r.st ||| 2 }

/-- EXC is set whenever a quire of the row is NaR (R150). -/
def RowCell.settle (r : RowCell) : RowCell :=
  if r.q1 = BitVec.ofNat 512 (2 ^ 511) ∨ r.q2 = BitVec.ofNat 512 (2 ^ 511) then r.setExc else r

/-- The running maximum as an integer. -/
def RowCell.max (r : RowCell) : Int := signedField 32 r.m.toNat

/-- Add a value to a quire32 register (R67, R38); an infinity sets INVALID whatever the register holds (R39, R158). -/
def rowQuireAdd (anchor : Int) (q : BitVec 512) (x : Num) : BitVec 512 × Flags :=
  if numFinite x then let r := quireAdd 512 anchor q.toNat (numDyadic x); (BitVec.ofNat 512 r.1, r.2)
  else (BitVec.ofNat 512 (narField 512), flagIf (!numNar x) fInvalid)

/-- The value of a quire32 register. -/
def rowQuire (anchor : Int) (q : BitVec 512) : Num := fieldValue 512 q.toNat anchor

/-- One row's step: its new registers, flags, and the patterns it writes. -/
structure RowStep where
  cell : RowCell
  flags : Flags := fNone
  out : List Nat := []
deriving DecidableEq, Repr

/-- Run an operation over the 8 rows of its context in order; every source is read as it stood before the first write.
(DEDUCED: LOG 29.) -/
def rowEach (write : Bool) (ws : List W64) (f : Tile → RowCtx → Nat → RowCell → RowStep) (t0 : Tile) : Tile :=
  let c := rCtx (wd ws 0)
  (List.range 8).foldl (fun t i =>
    let x := t.rowCtx c
    let r := f t0 x i (x.rows.getD i {})
    let t1 := if write then rowWrite ws i r.out t else t
    raiseT r.flags { t1 with rows := tset {} t1.rows c { x with rows := x.rows.set i r.cell.settle } }) t0

/-- The next instruction is a ROW of one operation. -/
def isRow (op : Nat) (ws : List W64) : Bool := opOf (wd ws 0) == 0x70 && rOp (wd ws 0) == op

/-- Issue a ROW instruction. -/
def rowIssue (tile op : Nat) (clear : Nat → Tile → List W64 → Bool) (f : Nat → List W64 → Tile → Tile) (s : State) : Out :=
  issueTile tile (isRow op) clear (fun p ws t => f p.cyc ws t) s

/-! ### INIT -/

/-- ROW.INIT (R150): the context's registers take their reset values, then the anchor. -/
def execRowInit (tile : Nat) (s : State) : Out :=
  rowIssue tile 0 noWait (fun _ ws t =>
    { t with rows := tset {} t.rows (rCtx (wd ws 0)) { anchor := signed9 (rArg (wd ws 1) % 512) } }) s

/-! ### Online softmax (R152 to R155, Table 7.3) -/

/-- A NaN, NaR or +inf score. -/
def badScore (x : Num) : Bool := match x with | .nar => true | .inf false => true | _ => false

/-- t_j = s_j * kappa, exactly. -/
def scoreT (ws : List W64) (x : Num) : Num := (numMul x (decode .fp32 true (rArg (wd ws 1)))).1

/-- Exceptional scores make the row exceptional (Table 7.3); a row that is so already stays as it is (R152). -/
def excScores (ss : List Num) (r : RowCell) : RowCell × Flags :=
  (if ss.any badScore && !r.exc then { r.setExc with q1 := BitVec.ofNat 512 (2 ^ 511) } else r,
    flagIf (ss.any (fun x => x == .inf false)) fInvalid)

/-- The ceiling of a finite value, cut where it leaves every int32 by far. -/
def ceilNum (x : Num) : Int :=
  match x with
  | .fin s m e =>
    if lead m e > 40 then (if s then -(2 ^ 40) else 2 ^ 40)
    else
      let v : Int := if s then -(m : Int) else m
      if e ≥ 0 then v * 2 ^ e.toNat else -((-v) / 2 ^ (-e).toNat)
  | _ => 0

/-- Shift Q1 right (R152). -/
def shiftQ1 (d : Nat) (r : RowCell) : RowCell × Flags :=
  let x := shiftField 512 (min d 1024) r.q1.toNat
  ({ r with q1 := BitVec.ofNat 512 x.1 }, x.2)

/-- ROW.SMAX on a row. -/
def smaxRow (ws : List W64) (ss : List Num) (r0 : RowCell) : RowStep :=
  let e := excScores ss r0
  let r := e.1
  let ts := (ss.map (scoreT ws)).filter numFinite
  match ts with
  | [] => ⟨r, e.2, []⟩
  | x :: xs =>
    if r.exc then ⟨r, e.2, []⟩
    else
      let u0 := ceilNum (xs.foldl numMax x)
      let u := max (-(2 ^ 31)) (min (2 ^ 31 - 1) u0)
      let fl := e.2 ||| flagIf (u != u0) fOverflow
      let um := BitVec.ofNat 32 (intBits 32 u)
      if !r.valid then ⟨{ r with m := um, st := r.st ||| 1 }, fl, []⟩
      else if u > r.max then
        let d := (u - r.max).toNat
        let sh := shiftQ1 d { r with m := um, d := BitVec.ofNat 32 (min (r.d.toNat + d) (2 ^ 31 - 1)) }
        ⟨sh.1, fl ||| sh.2, []⟩
      else ⟨r, fl, []⟩

/-- ROW.SMAX (R152). -/
def execRowSmax (tile : Nat) (s : State) : Out :=
  rowIssue tile 1 noWait (fun _ ws => rowEach false ws (fun t _ i r =>
    let x := rowSource t ws i
    let y := smaxRow ws (x.1.map (·.1)) r
    { y with flags := y.flags ||| x.2 })) s

/-- One score of ROW.SEXP: pattern, flags, what it adds to Q1. -/
def sexpScore (rev : Nat) (ws : List W64) (n : Ncw) (m : Int) (x : Num) : Nat × Flags × Option Num :=
  let f := fmtOf (rFmt2 (wd ws 1))
  if !numFinite x then (0, fNone, none)
  else
    let a := (numAdd false (scoreT ws x) (numOfInt false (-m) 0)).1
    let r := sfuEval rev 0x0 (fmtOf (rFmt1 (wd ws 1))) f n.opts a
    (r.1, r.2, some (decode f true r.1))

/-- ROW.SEXP on a row; the NaR-class results of an exceptional row enter its Q1 as stored (R153, Table 7.3). -/
def sexpRow (rev : Nat) (ws : List W64) (n : Ncw) (anchor : Int) (ss : List Num) (r0 : RowCell) : RowStep :=
  let f := fmtOf (rFmt2 (wd ws 1))
  let e := excScores ss r0
  let r := e.1
  if r.exc then ⟨{ r with q1 := BitVec.ofNat 512 (2 ^ 511) }, e.2, ss.map (fun _ => nanBits f)⟩
  else if !r.valid then ⟨r, e.2, ss.map (fun _ => 0)⟩
  else
    let ps := ss.map (sexpScore rev ws n r.max)
    let q := ps.foldl (fun a p => match p.2.2 with
      | none => (a.1, a.2 ||| p.2.1)
      | some v => let x := rowQuireAdd anchor a.1 v; (x.1, a.2 ||| p.2.1 ||| x.2)) (r.q1, e.2)
    ⟨{ r with q1 := q.1 }, q.2, ps.map (·.1)⟩

/-- ROW.SEXP (R153). -/
def execRowSexp (tile : Nat) (s : State) : Out :=
  onDev s (issueDev tile (isRow 2) (fun _ _ _ _ => true)
    (fun _ k ws d =>
      let rev := sfuRev d
      modTile k (rowEach true ws (fun t c i r =>
        let x := rowSource t ws i
        let y := sexpRow rev ws t.n c.anchor (x.1.map (·.1)) r
        { y with flags := y.flags ||| x.2 })) d))

/-- One cell of ROW.RESCALE (R154). -/
def rescaleCell (n : Ncw) (d : Nat) (exc : Bool) (v : Nat) : Nat × Flags :=
  let w := n.qwidth
  if isNarField w v then (v, fNone)
  else if exc then (narField w, fNone)
  else if w = 0 then
    match decode .fp32 true v with
    | .fin s m e =>
      if d = 0 then (v, fNone)
      else let r := roundTo .fp32 true n.opts false (numScale (-(min d 400 : Nat)) (.fin s m e)); (r.1, r.2)
    | _ => (v, fNone)
  else shiftField w (min d 1024) v

/-- The arrays of a mask. -/
def maskArrays (m : Nat) : List Nat := [0, 1].filter (fun a => m.testBit a)

/-- The slots a DIV names are final in every cell (R155). -/
def divSlotsFinal (cyc : Nat) (t : Tile) (ws : List W64) : Bool :=
  (maskArrays (rMask (wd ws 1))).all (fun a =>
    slotIdle t a (rSlot (wd ws 1)) t.n.span && decide ((slotTime t a (rSlot (wd ws 1)) t.n.span).row ≤ cyc))

/-- The slots a RESCALE names are final in every cell, and no DRAIN is still to read them (R97, R154). -/
def rescaleSlotsFree (cyc : Nat) (t : Tile) (ws : List W64) : Bool :=
  let cnt := rCount (wd ws 1)
  (maskArrays (rMask (wd ws 1))).all (fun a =>
    let x := slotTime t a (rSlot (wd ws 1)) cnt
    slotFree t a (rSlot (wd ws 1)) cnt && decide (x.row ≤ cyc) && decide (x.write ≤ cyc))

/-- A named slot has an uncorrectable error (R104). -/
def rowSlotsBad (cnt : Nat) (t : Tile) (ws : List W64) : Bool :=
  !t.acc2.isEmpty && (maskArrays (rMask (wd ws 1))).any (fun a =>
    (List.range cnt).any (fun i => slotBad t 128 a (rSlot (wd ws 1) + i) allCells))

/-- Corrected words of the slots a ROW instruction reads are counted (R103). -/
def rowSlotsCount (cnt : Nat) (ws : List W64) (t : Tile) : Tile :=
  (maskArrays (rMask (wd ws 1))).foldl (fun t a =>
    (List.range cnt).foldl (fun t i => t.countSlot 128 a (rSlot (wd ws 1) + i) allCells) t) t

/-- Shift the rows of one slot. -/
def rescaleSlot (ctx : RowCtx) (arr slot : Nat) (t : Tile) : Tile :=
  let n := t.n
  (List.range 64).foldl (fun t c =>
    let r := ctx.rows.getD (c / 8) {}
    let x := rescaleCell n r.d.toNat r.exc (t.slotGet n.qwidth arr slot c)
    raiseT x.2 (t.slotSet n.qwidth arr slot c x.1)) t

/-- ROW.RESCALE (R154): every row's D applied to its slots, then cleared. -/
def execRowRescale (tile : Nat) (s : State) : Out :=
  rowIssue tile 3 rescaleSlotsFree (fun cyc ws t =>
    let w1 := wd ws 1
    if rowSlotsBad (rCount w1) t ws then t.stop .uncorrectable cyc
    else
      let c := rCtx (wd ws 0)
      let ctx := t.rowCtx c
      let span := t.n.span
      let t1 := (maskArrays (rMask w1)).foldl (fun t a =>
        (List.range (rCount w1 / span)).foldl (fun t i => rescaleSlot ctx a (rSlot w1 + span * i) t) t)
          (rowSlotsCount (rCount w1) ws t)
      { t1 with rows := tset {} t1.rows c { ctx with rows := ctx.rows.map (fun r => { r with d := 0#32 }) } }) s

/-- One output of ROW.DIV (R155). -/
def divOut (n : Ncw) (f : Fmt) (zeroEmpty exc : Bool) (l o : Num) : Nat × Flags :=
  if exc || numNar l then (nanBits f, fNone)
  else
    match l with
    | .zero _ =>
      if zeroEmpty then (0, fNone)
      else
        match o with
        | .nar => (nanBits f, fNone)
        | .zero _ => (nanBits f, fInvalid)
        | _ => let r := roundTo f true n.opts false (.inf (numNeg o)); (r.1, r.2 ||| fOverflow)
    | _ =>
      let q := numDiv o l
      let r := roundTo f true n.opts false q.1
      (r.1, r.2 ||| q.2.1)

/-- ROW.DIV (R155). -/
def execRowDiv (tile : Nat) (s : State) : Out :=
  rowIssue tile 4 divSlotsFinal (fun cyc ws t =>
    let w1 := wd ws 1
    if rowSlotsBad t.n.span t ws then t.stop .uncorrectable cyc
    else
      let arr := if rMask w1 = 1 then 0 else 1
      rowEach true ws (fun t c i r =>
        let l := rowQuire c.anchor r.q1
        let os := (List.range 8).map (fun j =>
          divOut t.n (fmtOf (rFmt2 w1)) (bit w1 49) r.exc l (scaledValue t arr (rSlot w1) i j))
        ⟨r, os.foldl (fun a x => a ||| x.2) fNone, os.map (·.1)⟩) (rowSlotsCount t.n.span ws t)) s

/-! ### Normalisation (R158 to R161) -/

/-- ROW.MOM on a row. -/
def momRow (anchor : Int) (xs : List Num) (b : Nat) (r : RowCell) : RowStep :=
  let q := xs.foldl (fun a x =>
    let y := rowQuireAdd anchor a.1 x
    let z := rowQuireAdd (2 * anchor) a.2.1 (numMul x x).1
    (y.1, z.1, a.2.2 ||| y.2 ||| z.2)) (r.q1, r.q2, fNone)
  let n := r.count.toNat + b
  let past := decide (n > 2 ^ 32 - 1)
  let r1 := { r with q1 := q.1, q2 := q.2.1, count := BitVec.ofNat 32 (min n (2 ^ 32 - 1)) }
  ⟨if past || xs.any (fun x => !numFinite x) then r1.setExc else r1, q.2.2 ||| flagIf past fOverflow, []⟩

/-- ROW.MOM (R158). -/
def execRowMom (tile : Nat) (s : State) : Out :=
  rowIssue tile 5 noWait (fun _ ws => rowEach false ws (fun t c i r =>
    let x := rowSource t ws i
    let y := momRow c.anchor (x.1.map (·.1)) (rB (wd ws 0)) r
    { y with flags := y.flags ||| x.2 })) s

/-- A finite value divided by a positive integer, before rounding. -/
def numOver (x : Num) (n : Nat) : Num := (numDiv x (.fin false n 0)).1

/-- ROW.VAR on a row: MEAN, VAR, RSTD and flags. -/
def varRow (rev : Nat) (ws : List W64) (n : Ncw) (anchor : Int) (r : RowCell) : Nat × Nat × Nat × Flags :=
  let s1 := rowQuire anchor r.q1
  let s2 := rowQuire (2 * anchor) r.q2
  let cnt := r.count.toNat
  let nan := nanBits .fp32
  if r.exc || cnt == 0 || !numFinite s1 || !numFinite s2 then (nan, nan, nan, flagIf (!r.exc) fInvalid)
  else
    let d1 := numDyadic s1
    let d2 := numDyadic s2
    let nn := addDy (d2.1 * cnt, d2.2) (-(d1.1 * d1.1), 2 * d1.2)
    let v := if rMode (wd ws 1) then numOver s2 cnt
      else if nn.1 ≤ 0 then .zero false else numOver (numOfInt false nn.1 nn.2) (cnt * cnt)
    let mean := roundTo .fp32 true n.opts false (numOver s1 cnt)
    let var := roundTo .fp32 true n.opts false v
    let w0 := numAdd false (decode .fp32 true var.1) (decode .fp32 true (rArg (wd ws 1)))
    let w := roundTo .fp32 true n.opts false w0.1
    let rs := sfuEval rev 0x3 .fp32 .fp32 n.opts (decode .fp32 true w.1)
    (mean.1, var.1, rs.1, mean.2 ||| var.2 ||| w0.2 ||| w.2 ||| rs.2)

/-- ROW.VAR (R159, Table 7.4): MEAN and RSTD latched, the row records written. -/
def execRowVar (tile : Nat) (s : State) : Out :=
  onDev s (issueDev tile (isRow 6) (fun _ _ _ _ => true)
    (fun _ k ws d =>
      let rev := sfuRev d
      modTile k (fun t =>
        let a := localAddr t.regs (wd ws 0) (fld (wd ws 0) 20 3)
        let c := rCtx (wd ws 0)
        (List.range 8).foldl (fun t i =>
          let x := t.rowCtx c
          let r := x.rows.getD i {}
          let v := varRow rev ws t.n x.anchor r
          let t1 := t.wr (a + 16 * i) (natLe 4 v.1 ++ natLe 4 v.2.1 ++ natLe 4 v.2.2.1 ++ natLe 4 r.count.toNat)
          let r1 := { r with mu := BitVec.ofNat 32 v.1, rstd := BitVec.ofNat 32 v.2.2.1 }
          raiseT v.2.2.2 { t1 with rows := tset {} t1.rows c { x with rows := x.rows.set i r1 } }) t) d))

/-- A vector operand of ROW.NORM: values and flags; the default where it is absent. -/
def normVector (t : Tile) (ws : List W64) (on : Bool) (field : Nat) (dflt : Num) : List Num × Flags :=
  let f := fmtOf (rGfmt (wd ws 1))
  let z := fmtBytes f
  let b := rB (wd ws 0)
  if !on then (List.replicate b dflt, fNone)
  else
    let a := localAddr t.regs (wd ws 0) field
    let l := (List.range b).map (fun k => decodeIn t.n.subflush f true (t.rd (a + z * k) z))
    (l.map (·.1), l.foldl (fun a x => a ||| x.2) fNone)

/-- One output of ROW.NORM: exact inside, rounded once (R161, R133). -/
def normOut (f : Fmt) (o : RndOpts) (x mu r g b : Num) : Nat × Flags :=
  let a := numAdd false x (numMinus mu)
  let m := numMul a.1 r
  let k := numMul m.1 g
  let y := numAdd false k.1 b
  let z := roundTo f true o false y.1
  (z.1, a.2 ||| m.2 ||| k.2 ||| y.2 ||| z.2)

/-- ROW.NORM (R161). -/
def execRowNorm (tile : Nat) (s : State) : Out :=
  rowIssue tile 7 noWait (fun _ ws t =>
    let g := normVector t ws (bit (wd ws 2) 27) (fld (wd ws 2) 63 46) (.fin false 1 0)
    let b := normVector t ws (bit (wd ws 2) 26) (fld (wd ws 2) 45 28) (.zero false)
    raiseT (g.2 ||| b.2) (rowEach true ws (fun t _ i r =>
      let x := rowSource t ws i
      let mu : Num := if rMode (wd ws 1) then .zero false else decode .fp32 true r.mu.toNat
      let os := (List.range (rB (wd ws 0))).map (fun j =>
        normOut (fmtOf (rFmt2 (wd ws 1))) t.n.opts ((x.1.getD j (.nar, 0)).1) mu (decode .fp32 true r.rstd.toNat)
          (g.1.getD j .nar) (b.1.getD j .nar))
      ⟨r, x.2 ||| os.foldl (fun a x => a ||| x.2) fNone, os.map (·.1)⟩) t)) s

end Sys2Proof.Machine
end

