-- ==== Sys2Proof/Machine/TileDma.lean ====
section
/-! DEFINITION. The rest of the tile instructions (08): DMA, loops, address registers, sync tokens, END; and how a tile and a TILE
task begin and end (R173, R174, R149). -/

namespace Sys2Proof.Machine

/-! ### Tokens (R196) -/

/-- The tokens once the signals sent before a cycle have arrived. -/
def Tile.arrive (cyc : Nat) (t : Tile) : Tile :=
  { t with tok := (t.arriving.filter (fun a => decide (a.1 < cyc))).foldl (fun m a => tmod 0 m a.2.1 (fun x => min 65535 (x + a.2.2))) t.tok,
           arriving := t.arriving.filter (fun a => decide (cyc ≤ a.1)) }

/-- A signal sent in a cycle: it arrives in the next. -/
def Tile.signal (cyc tok n : Nat) (t : Tile) : Tile := { t with arriving := t.arriving ++ [(cyc, tok, n)] }

/-- Add to a token; it saturates at 65,535. -/
def addToken (tok n : Nat) (t : Tile) : Tile := { t with tok := tmod 0 t.tok tok (fun x => min 65535 (x + n)) }

/-- A tile that has passed END of the task that signals it, or left it, takes no signal (R197). -/
def takesSignal (h task : Nat) (t : Tile) : Bool :=
  t.handle == h && t.task == task && !(t.phase == .idle || t.phase == .ended || t.phase == .done)

/-- Signal a neighbour, if it is present and takes signals. -/
def signalTile (cyc h task : Nat) (k : Option Nat) (tok n : Nat) (d : Dev) : Dev :=
  match k with
  | none => d
  | some k => if takesSignal h task (tileAt d k) then modTile k (Tile.signal cyc tok n) d else d

/-! ### Requests of tile DMAs (R260) -/

/-- Queue the runs of a transfer at their channels. -/
def enqueueXfer (p : Plat) (k h : Nat) (x : Xfer) (runs : List Run2K) (d : Dev) : Dev :=
  submit p (if x.dir = 0 then 1 else 2) (tilePort (dieOfPhys k)) (.tile k x.id) (some h) x.near runs d

/-! ### Serving transfers (R201, R269, R273) -/

/-- Keep the lowest near-tier DETAIL a tile met. -/
def noteNear (l : List (Nat × Nat × Nat)) (t : Tile) : Tile :=
  match lowDetail l with
  | none => t
  | some v => { t with nearErr := some (match t.nearErr with | none => v | some y => min v y) }

/-- Serve a run of a held transfer, `off` bytes into it. A LOAD that meets a poisoned beat delivers nothing and stops the tile (R273); a RED
ORs its flags into TFLAGS. -/
def serveRun (p : Plat) (k : Nat) (x : Xfer) (off : Nat) (q : Run2K) (timed : Bool) (d : Dev) : Dev :=
  let h := (tileAt d k).handle
  let done (d : Dev) : Dev := modTile k (fun t =>
    { t with dma := t.dma.map (fun y => if y.id = x.id then { y with left := y.left - 1 } else y) }) d
  match x.dir with
  | 0 =>
    let bad := badOf d q
    let bytes := runBytes d q
    let d1 := readRun p 0 x.hint timed q d
    if bad.isEmpty then done (modTile k (Tile.wr (x.laddr + off) bytes) d1)
    else modTile k (fun t =>
      noteNear bad { t.stop .nearUncorrectable p.cyc with dma := t.dma.filter (fun y => y.id != x.id) }) d1
  | 1 => done (writeRunAll p.cyc x.hint timed q ((x.data.drop off).take q.len) d)
  | _ =>
    let r := reduceRun p 0 x.hint x.rtype timed (some h) q ((x.data.drop off).take q.len) d
    done (modTile k (fun t => noteNear r.2.bad (raiseT r.2.flags t)) r.1)

/-- Serve a request of a tile; a run of a transfer that the tile no longer holds is dropped. `hint` false: the staging lines were used
when the run was placed. -/
def serveTile (p : Plat) (k xfer g : Nat) (r : ChanReq) (timed hint : Bool) (d : Dev) : Dev :=
  match (tileAt d k).dma.find? (fun x => x.id == xfer) with
  | none => d
  | some x => serveRun p k (if hint then x else { x with hint := 0 }) r.off (r.piece g) timed d

/-! ### DMA (R200 to R202, R254) -/

/-- The next instruction is a DMA of a direction. -/
def isDma (dir : Nat) (ws : List W64) : Bool := opOf (wd ws 0) == 0x90 && dmaDir (wd ws 0) == dir

/-- Fewer than 4 transfers are held. -/
def dmaClear (_cyc : Nat) (_d : Dev) (t : Tile) (_ws : List W64) : Bool := decide (t.dma.length < 4)

/-- The transfer a DMA instruction describes, with the bytes it sends as the SRAM holds them at issue. (DESIGN CHOICE: LOG 132.) -/
def xferOf (t : Tile) (ws : List W64) : Xfer :=
  let w := wd ws 0
  let la := localAddr t.regs w (fld w 40 23)
  let n := dmaLen (wd ws 2)
  { id := t.nextXfer, dir := dmaDir w,
    near := if dmaDir w = 3 then dmaNaddr (wd ws 1) % 2 ^ 18 else nearAddr t.regs (dmaNbsel w) (dmaNaddr (wd ws 1)),
    laddr := la, len := n, token := dmaToken w, hint := dmaHint w, rtype := if dmaDir w = 3 then dmaNbr w else dmaRtype w,
    data := if dmaDir w = 0 then [] else readBytes t.sram la n, left := 0 }

/-- Hold a transfer; what it sends enters the tile digest (R345). -/
def holdXfer (x : Xfer) (dest : List Byte) (t : Tile) : Tile :=
  { t with dma := t.dma ++ [x], nextXfer := x.id + 1,
           crc := if x.dir = 0 then t.crc else crcFrom t.crc (dest ++ natLe 8 x.len ++ x.data) }

/-- When a PUSH that issues now has moved its last byte: a hop of 1 cycle (R15), then 32 bytes a cycle behind the PUSHes held
(R202). (DEDUCED: LOG 106.) -/
def pushDue (cyc len : Nat) (t : Tile) : Nat :=
  t.dma.foldl (fun a y => if y.dir = 3 then max a y.due else a) (cyc + 1) + cdiv len 32

/-- A PUSH reads 32 bytes of its own SRAM a cycle and writes them through the neighbour port a hop later (R192, R202). (DESIGN CHOICE:
LOG 119.) -/
def pushJobs (x : Xfer) (nb : Option Nat) (t : Tile) : Tile :=
  let n := cdiv x.len 32
  let part (a at_ : Nat) : List (Nat × List Nat) :=
    (List.range n).map (fun c => (at_ + c, wordsOf (a + 32 * c) (min 32 (x.len - 32 * c))))
  let t1 := t.addJob { rank := 15, unit := 9, xfer := x.id, todo := part x.laddr (x.due - n) }
  match nb with
  | none => t1
  | some j => t1.addJob { rank := 16, unit := 9, xfer := x.id, owner := some j, todo := part x.near (x.due - n + 1) }

/-- DMA PUSH (R198, R465). -/
def execDmaPush (tile : Nat) (s : State) : Out :=
  onDev s (issueDev tile (isDma 3) dmaClear (fun p k ws d =>
    let t := tileAt d k
    let x := { xferOf t ws with due := pushDue p.cyc (dmaLen (wd ws 2)) t }
    let num := match neighbour d t x.rtype with | none => 0xFFFFFFFF | some j => (tileAt d j).number
    modTile k (fun t => pushJobs x (neighbour d t x.rtype) (holdXfer x (natLe 4 num ++ natLe 4 x.near) t)) d))

/-- The effect of the oldest transfer's completion: a PUSH writes the neighbour's SRAM and lets its signals go. -/
def completeXfer (p : Plat) (k : Nat) (x : Xfer) (d : Dev) : Dev :=
  let t := tileAt d k
  if x.dir = 3 then
    match neighbour d t x.rtype with
    | none => d
    | some j => x.signals.foldl (fun d s => signalTile p.cyc t.handle t.task (some j) s.1 s.2 d) (modTile j (Tile.wr x.near x.data) d)
  else d

/-- The cycle in which a transfer that completes now has completed: a PUSH, and a transfer of Still mode, in the cycle due, behind those
before it (R201, R202, R266). -/
def xferEnd (cyc : Nat) (still : Bool) (t : Tile) (x : Xfer) : Nat :=
  if x.dir = 3 || still then t.flights.foldl (fun a f => if f.unit = 9 then max a f.last else a) x.due else cyc

/-- DMA_COMPLETE (R201): transfers complete in issue order; the token is signalled. -/
def execDmaComplete (tile : Nat) (s : State) : Out :=
  onDev s (fun p d =>
    match tileOf d.geom tile with
    | none => d
    | some k =>
      let t := tileAt d k
      if !p.alive || t.phase == .idle || !tileRuns d t then d
      else
        match t.dma with
        | [] => d
        | x :: _ =>
          if decide (p.cyc < x.due) || (x.dir != 3 && x.left != 0) then d
          else
            let d1 := completeXfer p k x d
            let still := (graphAt d t.handle).still
            modTile k (fun t =>
              let held := t.dma.any (fun y => y.id == x.id)
              let t1 := { t with dma := t.dma.filter (fun y => y.id != x.id) }.fly p.cyc 9 (xferEnd p.cyc still t x) []
              if held && decide (x.token < 32) then addToken x.token 1 t1 else t1) d1)

/-! ### LOOP, ARSET, ARADD (R177, R203) -/

/-- LOOP: the sequencer's own step enters the body. -/
def execLoop (tile : Nat) (s : State) : Out :=
  issueTile tile (fun ws => opOf (wd ws 0) == 0xA0) noWait (fun _ _ t => t) s

/-- ARSET. -/
def execArset (tile : Nat) (s : State) : Out :=
  issueTile tile (fun ws => opOf (wd ws 0) == 0xA1) noWait (fun _ ws t => { t with regs := arWrite t.regs (wd ws 0) }) s

/-- ARADD. -/
def execAradd (tile : Nat) (s : State) : Out :=
  issueTile tile (fun ws => opOf (wd ws 0) == 0xA2) noWait (fun _ ws t => { t with regs := arWrite t.regs (wd ws 0) }) s

/-! ### SYNC (R196, R197, R147) -/

/-- The next instruction is a SYNC of an operation. -/
def isSync (op : Nat) (ws : List W64) : Bool := opOf (wd ws 0) == 0xB0 && syncOp (wd ws 0) == op

/-- SYNC WAIT. -/
def execSyncWait (tile : Nat) (s : State) : Out :=
  issueTile tile (isSync 0) (fun cyc t ws => decide (syncCount (wd ws 0) ≤ tget 0 (t.arrive cyc).tok (syncTok (wd ws 0))))
    (fun p ws t => let u := t.arrive p.cyc
      { u with tok := tmod 0 u.tok (syncTok (wd ws 0)) (fun x => x - syncCount (wd ws 0)) }) s

/-- SYNC SIGNAL: waits until every DRAIN is complete; toward a neighbour with a PUSH still held it follows that PUSH. (DEDUCED: LOG 27.) -/
def execSyncSignal (tile : Nat) (s : State) : Out :=
  onDev s (issueDev tile (isSync 1)
    (fun cyc _ t _ => t.drains.isEmpty && landed cyc (fun u => u == 6 || u == 7) t) (fun p k ws d =>
    let w := wd ws 0
    let t := tileAt d k
    let push := (t.dma.filter (fun x => x.dir == 3 && x.rtype == syncTgt w)).getLast?
    if syncTgt w = 0 then modTile k (Tile.signal p.cyc (syncTok w) (syncCount w)) d
    else
      match push with
      | some x => modTile k (fun t => { t with dma := t.dma.map (fun y =>
          if y.id = x.id then { y with signals := y.signals ++ [(syncTok w, syncCount w)] } else y) }) d
      | none => signalTile p.cyc t.handle t.task (neighbour d t (syncTgt w)) (syncTok w) (syncCount w) d))

/-- SYNC FENCE. -/
def execSyncFence (tile : Nat) (s : State) : Out :=
  issueTile tile (isSync 2) (fun cyc t _ => allDone cyc t) (fun _ _ t => t) s

/-- SYNC DELAY: issue is held for COUNT cycles. (DEDUCED: LOG 28.) -/
def execSyncDelay (tile : Nat) (s : State) : Out :=
  issueTile tile (isSync 3) noWait (fun p ws t => { t with notBefore := p.cyc + syncCount (wd ws 0) }) s

/-! ### END and the tile's end cycle (R174) -/

/-- END: the sequencer stops. -/
def execEndTile (tile : Nat) (s : State) : Out :=
  issueTile tile (fun ws => opOf (wd ws 0) == 0xFF) noWait (fun _ _ t => { t with phase := .ended }) s

/-- The cycle after END has issued and everything earlier has completed (R174). -/
def Tile.endNow (t : Tile) : Nat := t.flights.foldl (fun a f => max a f.last) (t.lastIssue.getD 0) + 1

/-- TILE_COMPLETE: END has issued and everything earlier has completed; the tile digest gets TFLAGS and, in Still mode, the tile's
cycles (R345). -/
def execTileComplete (tile : Nat) (s : State) : Out :=
  onDev s (fun p d =>
    match tileOf d.geom tile with
    | none => d
    | some k =>
      let t := tileAt d k
      match runOf d t.handle with
      | none => d
      | some r =>
        if !p.alive || r.pausedAt.isSome || t.phase != .ended || !allDone p.cyc t || decide (p.cyc < t.notBefore) then d
        else
          let took := t.endNow - r.cycle0 - r.slipPause - (taskAt r t.task).s
          modTile k (fun t =>
            { t with phase := .done, endCycle := t.endNow, lastRan := some p.cyc,
                     crc := crcFrom t.crc (natLe 4 t.tflags.toNat ++ (if isStill d r then natLe 4 took else [])) }) d)

/-! ### TILE tasks -/

/-- A tile at the start of a task (R173, R96, R139, R148, R150, R177, R222). -/
def startTile (cyc h task index number : Nat) (desc : List W64) (prog : List W64) (t : Tile) : Tile :=
  { sram := t.sram, sram1 := t.sram1, sram2 := t.sram2, corrected := t.corrected, traced := t.traced, cnt := t.cnt, cntAt := t.cntAt,
    first := cyc + cdiv prog.length 8, haltRun := t.haltRun, nextXfer := t.nextXfer, handle := h, task := task, index := index, number := number, phase := .running,
    store := prog, ncw := word desc 2, notBefore := cyc + cdiv prog.length 8, dispatched := cyc, lastRan := some cyc,
    regs := tset 0 [] 9 ((fld (word desc 5) 39 0 + index * fld (word desc 6) 39 0) % 2 ^ 40) }

/-- The program of a TILE task. -/
def progOf (g : Graph) (desc : List W64) : List W64 :=
  (g.prog.drop (fld (word desc 4) 63 32)).take (fld (word desc 4) 13 0)

/-- The physical numbers of a task's tiles, by tile index (R206). -/
def taskTiles (d : Dev) (desc : List W64) : List (Option Nat) :=
  let r := rectOf desc
  (List.range r.count).map (fun i => tileOf d.geom (r.num i))

/-- TILE_TASK_DISPATCH (R173, R222). -/
def execTileTaskDispatch (h t : Nat) (s : State) : Out :=
  onDev s (dispatchIf h t (fun desc => dKind desc == 1) (fun p _ g desc d =>
    let r := rectOf desc
    let prog := progOf g desc
    (List.range r.count).foldl (fun d i =>
      match tileOf d.geom (r.num i) with
      | none => d
      | some k => modTile k (startTile p.cyc h t i (r.num i) desc prog) d) d))

/-- A tile has reached its end, or stopped with nothing of it still moving. -/
def Tile.over (t : Tile) : Bool :=
  match t.phase with | .done => true | .stopped _ => t.dma.isEmpty | _ => false

/-- Status and DETAIL of a TILE task (Table 6.6). -/
def tileStatus (ts : List Tile) : Nat × Nat :=
  let whose (w : StopWhy) : List Nat := (ts.filter (fun t => t.phase == .stopped w)).map (·.number)
  match memStop ts with
  | some v => (stMem, v)
  | none =>
    match lowest (whose .reloadPending) with
    | some v => (stReload, v)
    | none =>
      match lowest (whose .badParam) with
      | some v => (stBadParam, v)
      | none => (statusOfFlags (tilesFlags ts), (tilesFlags ts).toNat)

/-- TILE_TASK_COMPLETE (R149): every tile has reached END or stopped, in an earlier cycle; E is the cycle after the last of their end
cycles (R209). -/
def execTileTaskComplete (h t : Nat) (s : State) : Out :=
  onDev s (onRunning h t (fun desc => dKind desc == 1) (fun p r _ desc _ d =>
    let ts := ((taskTiles d desc).filterMap id).map (tileAt d)
    let last := ts.foldl (fun a t => max a t.endCycle) 0
    if !ts.all Tile.over || decide (p.cyc ≤ last) then d
    else
      let st := tileStatus ts
      freeTiles p h (fun u => u != t)
        (finishTaskAt p h t (last + 1 - r.cycle0 - r.slipPause) st.1 st.2 (tilesFlags ts).toNat (gatherTiles h t d))))

end Sys2Proof.Machine
end

