-- ==== Sys2Proof/Machine/Engines.lean ====
section
/-! DEFINITION. The die engines (10): what each task reads, computes and writes, its length, its end. -/

namespace Sys2Proof.Machine

/-! ### Ranges and lengths (R228, R229, R246) -/

/-- Every byte of a range lies in a valid region, on fuel: it steps from region to region. -/
def coverGo : Nat → Dev → Nat → Nat → Bool
  | 0, _, _, n => n == 0
  | f + 1, d, a, n =>
    if n = 0 then true
    else match regionOf d a with
      | none => false
      | some r => let k := min n (r.base + r.size - a); coverGo f d (a + k) (n - k)

/-- A range lies within the mapped regions. -/
def covered (d : Dev) (a n : Nat) : Bool := coverGo (d.near.regions.length + 1) d a n

/-- The regions a range occupies. -/
def regionsOf (d : Dev) (a n : Nat) : List Region := (validRegions d).filter (fun r => windowsMeet a n r.base r.size)

/-- The channels a range touches. -/
def rangeChans (d : Dev) (a n : Nat) : List Nat :=
  (regionsOf d a n).flatMap (fun r =>
    let lo := max a r.base - r.base
    let hi := min (a + n) (r.base + r.size) - r.base
    if r.il = .chan then [r.unit]
    else
      let k0 := lo / 2048
      let k1 := (hi - 1) / 2048
      if k1 - k0 + 1 ≥ r.chans.length then r.chans
      else (upFrom k0 (k1 - k0 + 1)).map (fun k => r.chans.getD (k % r.chans.length) 0))

/-- Fields of an ENGINE descriptor's word 2 (Table 10.1). -/
structure EngW where
  mode : Nat
  f1 : Nat
  f2 : Nat
  s1 : Bool
  s2 : Bool
  e4m3Sat : Bool
  subflush : Bool
  hint : Nat
deriving DecidableEq, Repr

/-- Reading it. -/
def engW (desc : List W64) : EngW :=
  let w := word desc 2
  ⟨fld w 63 60, fld w 59 56, fld w 55 52, bit w 51, bit w 50, bit w 49, bit w 48, fld w 47 46⟩

/-- An address word. -/
def engAddr (desc : List W64) (i : Nat) : Nat := fld (word desc i) 39 0

/-- High and low half of a payload word. -/
def engHi (desc : List W64) (i : Nat) : Nat := fld (word desc i) 63 32
def engLo (desc : List W64) (i : Nat) : Nat := fld (word desc i) 31 0

/-- Input record bytes of HREDUCE. -/
def hrecBytes (desc : List W64) : Nat := if bit (word desc 6) 0 then 528 else 264

/-- N, BLK0 and the block size of QUANT and QCODE. -/
def quantN (desc : List W64) : Nat := fld (word desc 6) 63 24
def quantBlk0 (desc : List W64) : Nat := fld (word desc 6) 19 4
def quantB (desc : List W64) : Nat := blockSize (fld (word desc 6) 3 0)

/-- Output size of an RNG element. -/
def rngSize (mode : Nat) : Nat := match mode with | 0 => 4 | 1 => 4 | 2 => 2 | _ => 1

/-- Source ranges and destination ranges of an ENGINE task (Table 10.2). -/
def engRanges (desc : List W64) : List (Nat × Nat) × List (Nat × Nat) :=
  let w := engW desc
  let a (i : Nat) : Nat := engAddr desc i
  let e1 := elemBytes w.f1
  match dSub desc, w.mode with
  | 0, _ =>
    let nr := engHi desc 5
    let nc := engLo desc 5
    ([(a 3, (nr - 1) * engHi desc 6 + nc * e1)], [(a 4, (nc - 1) * engLo desc 6 + nr * e1)])
  | 1, m =>
    let cnt := engHi desc 6
    let rb := engLo desc 7
    let tab := (a 3, engLo desc 6 * rb)
    let idx := (a 4, 4 * cnt)
    let rows := (a 5, cnt * rb)
    if m = 0 then ([tab, idx], [rows]) else ([idx, rows], [tab])
  | 2, m => ([], [(a 3, fld (word desc 6) 39 0 * rngSize m)])
  | 3, 0 => ([(a 3, (engHi desc 5 - 1) * engLo desc 5 + hrecBytes desc)], [(a 4, 528)])
  | 3, 1 => ([(a 3, fld (word desc 5) 39 0 * e1)], [(a 4, 528)])
  | 3, 2 => ([(a 3, 4 * engHi desc 5 * fld (word desc 5) 7 0)], [(a 4, 2 * engHi desc 5)])
  | 3, 3 => ([(a 3, 528)], [(a 4, 2)])
  | 3, 4 => ([(a 3, quantN desc * e1)], [(a 4, quantN desc * elemBytes w.f2), (a 5, 2 * cdiv (quantN desc) (quantB desc))])
  | 3, _ =>
    ([(a 3, quantN desc * e1), (a 7, 16 * elemBytes w.f2)],
      [(a 4, cdiv (quantN desc) 2), (a 5, 2 * cdiv (quantN desc) (quantB desc))])
  | 4, 0 => ([(a 3, fld (word desc 5) 39 0)], [(a 4, fld (word desc 5) 39 0)])
  | 4, _ => ([], [(a 4, fld (word desc 5) 39 0)])
  | _, _ => ([(a 3, fld (word desc 5) 39 0)], [(a 4, 32)])

/-- Work size and rate (Table 10.4). -/
def engWork (desc : List W64) : Nat × Nat :=
  let w := engW desc
  let e1 := elemBytes w.f1
  match dSub desc, w.mode with
  | 0, _ => (engHi desc 5 * engLo desc 5 * e1, 256)
  | 1, _ => (engHi desc 6 * (4 + max (engLo desc 7) 256), 256)
  | 2, m => (fld (word desc 6) 39 0 * rngSize m, 512)
  | 3, 0 => (engHi desc 5 * hrecBytes desc, 512)
  | 3, 1 => (fld (word desc 5) 39 0 * e1, 512)
  | 3, 2 => (4 * engHi desc 5 * fld (word desc 5) 7 0, 512)
  | 3, 3 => (528, 512)
  | 3, _ => (quantN desc * e1, 256)
  | 4, 0 => (fld (word desc 5) 39 0, 512)
  | _, _ => (fld (word desc 5) 39 0, 1024)

/-- The smallest of some numbers, a bound where there are none. -/
def leastOf (l : List Nat) (dflt : Nat) : Nat := l.foldl min dflt

/-- Smallest channel count among the regions of some ranges, and whether a range leaves the site's own channels. -/
def spanOf (d : Dev) (l : List (Nat × Nat)) (own : Nat → Bool) : Nat × Bool :=
  (leastOf (l.flatMap (fun r => (regionsOf d r.1 r.2).map (fun g => g.chans.length))) 1024,
    l.any (fun r => (rangeChans d r.1 r.2).any (fun g => !own g)))

/-- D of an ENGINE task (R246). -/
def engineLength (d : Dev) (desc : List W64) : Nat :=
  let r := engRanges desc
  let w := engWork desc
  let s := spanOf d (r.1 ++ r.2) (fun g => dieOfChan g == dSite desc)
  32 + cdiv w.1 (max 1 (min w.2 (96 * s.1))) + (if s.2 then 36 else 0)

/-! ### An engine at work -/

/-- What an engine has done so far: the device with what its reads leave there, what it sees of memory, with its own writes (R257), its
flags, the DETAIL of the read it stopped at, its writes with the latest first, and the ranges it has read, the latest first. -/
structure Eng where
  dev : Dev
  seen : Dev
  flags : Flags := 0
  stop : Option Nat := none
  puts : List Put := []
  reads : List (Nat × Nat) := []
deriving DecidableEq, Repr

/-- What an engine knows: the platform, the mode, its hint. -/
structure EngC where
  p : Plat
  still : Bool
  hint : Nat
  h : Nat
deriving DecidableEq, Repr

/-- Raise flags. -/
def Eng.flag (f : Flags) (e : Eng) : Eng := { e with flags := e.flags ||| f }

/-- Read bytes; a poisoned beat stops the engine (R248). A stopped engine reads nothing. -/
def Eng.read (c : EngC) (a n : Nat) (e : Eng) : List Byte × Eng :=
  if e.stop.isSome then (List.replicate n 0#8, e)
  else
    let bad := nearBad e.seen a n
    (nearBytes e.seen a n, { e with dev := readMet c.p 1 c.hint c.still a n bad e.dev, stop := lowDetail bad, reads := joinSpan a n e.reads })

/-- Write bytes; a stopped engine writes nothing. -/
def Eng.write (c : EngC) (a : Nat) (b : List Byte) (e : Eng) : Eng :=
  if e.stop.isSome then e
  else { e with seen := writePieces c.hint c.still a b e.seen, puts := ⟨none, a, b⟩ :: e.puts }

/-- Reduce-write bytes (R233, R269, R273). -/
def Eng.reduce (c : EngC) (rt a : Nat) (b : List Byte) (e : Eng) : Eng :=
  if e.stop.isSome then e
  else { e with seen := (reduceWrite c.p 1 c.hint rt c.still (some c.h) a b e.seen).1, puts := ⟨some rt, a, b⟩ :: e.puts }

/-- A range cut at multiples of a size. -/
def cutGo : Nat → Nat → Nat → Nat → List (Nat × Nat)
  | 0, _, _, _ => []
  | f + 1, size, a, n => if n = 0 then [] else let k := min n (size - a % size); (a, k) :: cutGo f size (a + k) (n - k)

/-- The pieces of a range. -/
def cutRange (size a n : Nat) : List (Nat × Nat) := cutGo (n / size + 2) size a n

/-- Little-endian elements of bytes. -/
def elemsOf (size : Nat) (l : List Byte) : List Nat := (List.range (l.length / size)).map (fun i => leNat ((l.drop (size * i)).take size))

/-- The pieces of an element vector of n elements at a: first index, count; at most 64 elements each. -/
def elemPieces (n : Nat) : List (Nat × Nat) := (cutRange 64 0 n)

/-- Read elements. -/
def Eng.elems (c : EngC) (a size n : Nat) (e : Eng) : List Nat × Eng :=
  let r := e.read c a (n * size)
  (elemsOf size r.1, r.2)

/-! ### TRANSPOSE, COPY, FILL (R230, R231) -/

/-- TRANSPOSE: output rows in ascending order. -/
def engTranspose (c : EngC) (desc : List W64) (e : Eng) : Eng :=
  let z := elemBytes (engW desc).f1
  let nr := engHi desc 5
  (List.range (engLo desc 5)).foldl (fun e col =>
    let row := (List.range nr).foldl (fun (x : List Byte × Eng) r =>
      let y := x.2.read c (engAddr desc 3 + r * engHi desc 6 + col * z) z
      (x.1 ++ y.1, y.2)) ([], e)
    row.2.write c (engAddr desc 4 + col * engLo desc 6) row.1) e

/-- COPY. -/
def engCopy (c : EngC) (desc : List W64) (e : Eng) : Eng :=
  (cutRange 256 (engAddr desc 3) (fld (word desc 5) 39 0)).foldl (fun e r =>
    let y := e.read c r.1 r.2
    y.2.write c (engAddr desc 4 + (r.1 - engAddr desc 3)) y.1) e

/-- FILL. -/
def engFill (c : EngC) (desc : List W64) (e : Eng) : Eng :=
  (List.range (fld (word desc 5) 39 0 / 8)).foldl (fun e i => e.write c (engAddr desc 4 + 8 * i) (natLe 8 (word desc 3).toNat)) e

/-! ### GATHER, SCATTER-ADD (R232, R233) -/

/-- The index of entry n, if it is in range. -/
def engIndex (c : EngC) (desc : List W64) (n : Nat) (e : Eng) : Option Nat × Eng :=
  let r := e.read c (engAddr desc 4 + 4 * n) 4
  let x := signedField 32 (leNat r.1)
  (if x < 0 ∨ x ≥ (engLo desc 6 : Int) then none else some x.toNat, r.2)

/-- GATHER. -/
def engGather (c : EngC) (desc : List W64) (e : Eng) : Eng :=
  let rb := engLo desc 7
  (List.range (engHi desc 6)).foldl (fun e n =>
    let i := engIndex c desc n e
    if i.2.stop.isSome then i.2
    else
      match i.1 with
      | none => (i.2.flag fInvalid).write c (engAddr desc 5 + n * rb) (List.replicate rb 0#8)
      | some x =>
        let y := i.2.read c (engAddr desc 3 + x * rb) rb
        y.2.write c (engAddr desc 5 + n * rb) y.1) e

/-- SCATTER-ADD. -/
def engScatter (c : EngC) (desc : List W64) (e : Eng) : Eng :=
  let rb := engLo desc 7
  (List.range (engHi desc 6)).foldl (fun e n =>
    let i := engIndex c desc n e
    if i.2.stop.isSome then i.2
    else
      match i.1 with
      | none => i.2.flag fInvalid
      | some x =>
        let y := i.2.read c (engAddr desc 5 + n * rb) rb
        y.2.reduce c (fld (word desc 7) 63 60) (engAddr desc 3 + x * rb) y.1) e

/-! ### RNG (R234 to R237) -/

/-- One round of Philox4x32. -/
def philoxRound (k0 k1 : Nat) (c : Nat × Nat × Nat × Nat) : Nat × Nat × Nat × Nat :=
  let p0 := 0xD2511F53 * c.1
  let p1 := 0xCD9E8D57 * c.2.2.1
  let hi (x : Nat) : Nat := x / 2 ^ 32
  let lo (x : Nat) : Nat := x % 2 ^ 32
  ((hi p1 ^^^ c.2.1) ^^^ k0, lo p1, (hi p0 ^^^ c.2.2.2) ^^^ k1, lo p0)

/-- Rounds with the key bumped between them. -/
def philoxGo : Nat → Nat → Nat → Nat × Nat × Nat × Nat → Nat × Nat × Nat × Nat
  | 0, _, _, c => c
  | n + 1, k0, k1, c => philoxGo n ((k0 + 0x9E3779B9) % 2 ^ 32) ((k1 + 0xBB67AE85) % 2 ^ 32) (philoxRound k0 k1 c)

/-- Philox4x32-10: words w0 to w3 of a 128-bit counter and a 64-bit key. -/
def philox (key counter : Nat) : List Nat :=
  let f (x i : Nat) : Nat := x / 2 ^ (32 * i) % 2 ^ 32
  let r := philoxGo 10 (f key 0) (f key 1) (f counter 0, f counter 1, f counter 2, f counter 3)
  [r.1, r.2.1, r.2.2.1, r.2.2.2]

/-- A stream. -/
def rngAt (d : Dev) (s : Nat) : RngStream := tget {} d.rng s

/-- An element of the output from its word. -/
def rngOut (mode p w : Nat) : List Byte :=
  match mode with
  | 0 => natLe 4 w
  | 1 => natLe 4 (roundTo .fp32 true {} false (numOfInt false (w / 2 ^ 8 : Nat) (-24))).1
  | 2 => natLe 2 (roundTo .bf16 true {} false (numOfInt false (w / 2 ^ 24 : Nat) (-8))).1
  | _ => natLe 1 (if w < p then 1 else 0)

/-- The base draw index of an RNG task and the draws it consumes. -/
def rngDraws (d : Dev) (desc : List W64) : Nat × Nat :=
  (if bit (word desc 4) 63 then (word desc 5).toNat else (rngAt d (fld (word desc 4) 11 0)).next.toNat,
    cdiv (fld (word desc 6) 39 0) 4)

/-- RNG. -/
def engRng (c : EngC) (desc : List W64) (e : Eng) : Eng :=
  let s := rngAt e.dev (fld (word desc 4) 11 0)
  let d0 := (rngDraws e.dev desc).1
  let m := (engW desc).mode
  let z := rngSize m
  let cnt := fld (word desc 6) 39 0
  (List.range (cdiv cnt 4)).foldl (fun e i =>
    let ws := philox s.key.toNat (s.step.toNat * 2 ^ 64 + (d0 + i))
    let n := min 4 (cnt - 4 * i)
    e.write c (engAddr desc 3 + 4 * i * z) ((ws.take n).flatMap (rngOut m (engLo desc 7)))) e

/-! ### HISTO/QUANT (R239 to R244) -/

/-- HREDUCE: sums word by word, saturating at 2^64 - 1. -/
def engHreduce (c : EngC) (desc : List W64) (e : Eng) : Eng :=
  let z := if bit (word desc 6) 0 then 8 else 4
  let r := (List.range (engHi desc 5)).foldl (fun (x : List Nat × Eng) k =>
    let y := x.2.elems c (engAddr desc 3 + k * engLo desc 5) z 66
    ((x.1.zip y.1).map (fun v => min (2 ^ 64 - 1) (v.1 + v.2)), y.2)) (List.replicate 66 0, e)
  r.2.write c (engAddr desc 4) (r.1.flatMap (natLe 8))

/-- HIST. -/
def engHist (c : EngC) (desc : List W64) (e : Eng) : Eng :=
  let w := engW desc
  let z := elemBytes w.f1
  let r := (elemPieces (fld (word desc 5) 39 0)).foldl (fun (x : Table Nat × Eng) q =>
    let y := x.2.elems c (engAddr desc 3 + z * q.1) z q.2
    let vs := y.1.map (decodeIn w.subflush (fmtOf w.f1) w.s1)
    (vs.foldl (fun t v => tmod 0 t (histWord v.1) (· + 1)) x.1, y.2.flag (vs.foldl (fun a v => a ||| v.2) fNone))) ([], e)
  r.2.write c (engAddr desc 4) ((List.range 66).flatMap (fun i => natLe 8 (tget 0 r.1 i)))

/-- Clamp to a SCALE field. -/
def clampScale (v : Int) : Int := max (-128) (min 127 v)

/-- SCALE of a block with maximum m toward a target exponent, and INVALID (R241). -/
def blockScale (m : Num) (top : Int) : Int × Flags :=
  match m with
  | .fin _ k x => (clampScale (lead k x - top), fNone)
  | .zero _ => (0, fNone)
  | _ => (0, fInvalid)

/-- A power-of-two scale entry (Table 3.3). -/
def scaleEntry (scale : Int) (tag : Nat) : List Byte := natLe 2 (intBits 8 scale + tag % 16 * 4096)

/-- SCALEMAX. -/
def engScalemax (c : EngC) (desc : List W64) (e : Eng) : Eng :=
  let g := fld (word desc 5) 7 0
  (List.range (engHi desc 5)).foldl (fun e j =>
    let y := e.elems c (engAddr desc 3 + 4 * g * j) 4 g
    let l := y.1.map (decode .fp32 true)
    let s := blockScale (match l with | [] => .zero false | x :: xs => xs.foldl numMax x) (retryTop (engW desc).f2 (engW desc).s2)
    (y.2.flag s.2).write c (engAddr desc 4 + 2 * j) (scaleEntry s.1 (fld (word desc 5) 31 16 + j))) e

/-- SCALEHIST. -/
def engScalehist (c : EngC) (desc : List W64) (e : Eng) : Eng :=
  let y := e.elems c (engAddr desc 3) 8 66
  let bins := y.1.take 64
  let above (t : Nat) : Nat := (bins.drop (t + 1)).foldl (· + ·) 0
  let t := ((List.range 64).find? (fun t => decide (above t ≤ (word desc 6).toNat))).getD 63
  let s : Int := if bins.all (· == 0) then 0
    else clampScale ((t : Int) - 32 - retryTop (engW desc).f2 (engW desc).s2)
  y.2.write c (engAddr desc 4) (scaleEntry s (fld (word desc 5) 31 16))

/-- The blocks of N elements: number, first element, count. -/
def quantBlocks (desc : List W64) : List (Nat × Nat × Nat) :=
  let b := quantB desc
  (List.range (cdiv (quantN desc) b)).map (fun j => (j, j * b, min b (quantN desc - j * b)))

/-- A block's values and the flags of reading them. -/
def quantRead (c : EngC) (desc : List W64) (k : Nat × Nat × Nat) (e : Eng) : List Num × Eng :=
  let w := engW desc
  let z := elemBytes w.f1
  let y := e.elems c (engAddr desc 3 + z * k.2.1) z k.2.2
  let vs := y.1.map (decodeIn w.subflush (fmtOf w.f1) w.s1)
  (vs.map (·.1), if y.2.stop.isSome then y.2 else y.2.flag (vs.foldl (fun a v => a ||| v.2) fNone))

/-- QUANT. -/
def engQuant (c : EngC) (desc : List W64) (e : Eng) : Eng :=
  let w := engW desc
  let f := fmtOf w.f2
  (quantBlocks desc).foldl (fun e k =>
    let y := quantRead c desc k e
    if y.2.stop.isSome then y.2
    else
      let s := blockScale (maxAbs y.1) (retryTop w.f2 w.s2)
      let rs := y.1.map (fun x => roundTo f w.s2 { e4m3Sat := w.e4m3Sat, subflush := w.subflush } false (numScale (-s.1) x))
      (((y.2.flag (s.2 ||| rs.foldl (fun a r => a ||| r.2) fNone)).write c (engAddr desc 5 + 2 * k.1)
        (scaleEntry s.1 (quantBlk0 desc + k.1))).write c (engAddr desc 4 + fmtBytes f * k.2.1)
          (rs.flatMap (fun r => natLe (fmtBytes f) r.1)))) e

/-- |a - b|, for finite values. -/
def distance (a b : Num) : Num := numAbs (numAdd false a (numMinus b)).1

/-- The code nearest to a finite value, ties to the lower code; NaN and infinite entries are never nearest. -/
def nearestCode (tab : List Num) (v : Num) : Nat :=
  ((tab.zip (List.range 16)).foldl (fun (best : Option (Num × Nat)) x =>
    if !numFinite x.1 then best
    else
      let q := distance x.1 v
      match best with
      | none => some (q, x.2)
      | some b => if numCmp q b.1 = .lt then some (q, x.2) else some b) none).elim 0 (·.2)

/-- The code of one element and its flags, a free code for an infinite one, whose nearest entry the spec does not state. (DEDUCED: LOG 30.) -/
def qcodeOf (pats : List Nat) (tab : List Num) (s : Int) (x : Num) : Nat × Flags :=
  match x with
  | .nar => (0, fInvalid)
  | .inf g => ((Config.qcodeInf pats s g).toNat, fInexact)
  | x =>
    let v := numScale (-s) x
    let k := nearestCode tab v
    (k, flagIf (match distance (tab.getD k .nar) v with | .zero _ => false | _ => true) fInexact)

/-- Codes packed two a byte (R32). -/
def packCodes (l : List Nat) : List Byte :=
  (List.range (cdiv l.length 2)).map (fun i => BitVec.ofNat 8 (l.getD (2 * i) 0 + 16 * l.getD (2 * i + 1) 0))

/-- The TABLE of a QCODE. -/
def qcodeTable (desc : List W64) (pats : List Nat) : List Num := pats.map (decode (fmtOf (engW desc).f2) (engW desc).s2)

/-- QCODE. -/
def engQcode (c : EngC) (desc : List W64) (e : Eng) : Eng :=
  let z := elemBytes (engW desc).f2
  let t := e.elems c (engAddr desc 7) z 16
  let tab := qcodeTable desc t.1
  let top := match maxAbs (tab.filter numFinite) with | .fin _ m x => lead m x | _ => 0
  (quantBlocks desc).foldl (fun e k =>
    let y := quantRead c desc k e
    if y.2.stop.isSome then y.2
    else
      let s := blockScale (maxAbs y.1) top
      let r := y.1.map (qcodeOf t.1 tab s.1)
      ((y.2.flag (r.foldl (fun a q => a ||| q.2) s.2)).write c (engAddr desc 5 + 2 * k.1)
        (scaleEntry s.1 (quantBlk0 desc + k.1))).write c (engAddr desc 4 + k.2.1 / 2) (packCodes (r.map (·.1)))) t.2

/-! ### SCRUB (R245) -/

/-- What a SCRUB found: corrected words, uncorrectable words, the first uncorrectable address. -/
structure ScrubRes where
  fixed : Nat := 0
  bad : Nat := 0
  first : Option Nat := none
deriving DecidableEq, Repr

/-- Scrub one run, its staging lines touched: corrected beats are written back, uncorrectable ones reported, their rows become candidates. (DEDUCED: LOG 31.) -/
def scrubRun (p : Plat) (still : Bool) (hint : Nat) (r : Run2K) (x : ScrubRes × Dev) : ScrubRes × Dev :=
  let d := touchRun (stillRunning x.2) still true hint r x.2
  let ok := r.beats.filter (fun b => (chanAt d r.chan).ce.contains b && !badBeat d r.chan b)
  let bad := badOf d r
  let d1 := countRun p.cyc r d
  let d2 := if ok.isEmpty then d1 else modChan r.chan (fun c => { c with ce := c.ce.filter (fun b => !ok.contains b) }) d1
  ({ fixed := x.1.fixed + ok.length, bad := x.1.bad + bad.length,
     first := match x.1.first with | some a => some a | none => bad.head?.map (·.1) },
    candidates p.now bad (postMemErrors p.now 4 bad d2))

/-- SCRUB: the RESULT record at the end. -/
def engScrub (c : EngC) (desc : List W64) (e : Eng) : Eng × Bool :=
  let r := ((runsOf e.dev (engAddr desc 3) (fld (word desc 5) 39 0)).getD []).foldl (fun x r => scrubRun c.p c.still c.hint r x) ({}, e.dev)
  let all := match r.1.first with | none => 2 ^ 64 - 1 | some a => a
  ({ e with dev := r.2, seen := r.2, reads := [(engAddr desc 3, fld (word desc 5) 39 0)] }.write c (engAddr desc 4) (natLe 8 r.1.fixed ++ natLe 8 r.1.bad ++ natLe 8 all ++ natLe 8 0), r.1.bad != 0)

/-! ### Dispatch and end -/

/-- A parameter check made only at dispatch fails: an unmapped range, draws beyond 2^64, a table with no usable entry (R229, R236,
R244). -/
def engBadParam (d : Dev) (desc : List W64) : Bool :=
  let r := engRanges desc
  let w := engW desc
  !(r.1 ++ r.2).all (fun x => covered d x.1 x.2) ||
    (dSub desc == 2 && decide ((rngDraws d desc).1 + (rngDraws d desc).2 > 2 ^ 64)) ||
    (dSub desc == 3 && w.mode == 5 && (nearBad d (engAddr desc 7) 16).isEmpty &&
      (qcodeTable desc (elemsOf (elemBytes w.f2) (nearBytes d (engAddr desc 7) (16 * elemBytes w.f2)))).all
        (fun x => match x with | .fin _ _ _ => false | _ => true))

/-- What an engine does by its SUB and MODE; the second component is DETAIL [9] of a SCRUB. -/
def engineBody (c : EngC) (desc : List W64) (e : Eng) : Eng × Bool :=
  match dSub desc, (engW desc).mode with
  | 0, _ => (engTranspose c desc e, false)
  | 1, 0 => (engGather c desc e, false)
  | 1, _ => (engScatter c desc e, false)
  | 2, _ => (engRng c desc e, false)
  | 3, 0 => (engHreduce c desc e, false)
  | 3, 1 => (engHist c desc e, false)
  | 3, 2 => (engScalemax c desc e, false)
  | 3, 3 => (engScalehist c desc e, false)
  | 3, 4 => (engQuant c desc e, false)
  | 3, _ => (engQcode c desc e, false)
  | 4, 0 => (engCopy c desc e, false)
  | 4, _ => (engFill c desc e, false)
  | _, _ => engScrub c desc e

/-- The requests of ranges, at a port of each channel (Table 11.6). -/
def submitAll (p : Plat) (cls : Nat) (port : Nat → Nat) (who : ReqBy) (h : Nat) (l : List (Nat × Nat)) (d : Dev) : Dev :=
  l.foldl (fun d x => submit p cls port who (some h) x.1 ((runsOf d x.1 x.2).getD []) d) d

/-- The reads of an engine are served, or their slots are its own: it reads, and what it will write is known. In a queue its writes go to
their channels now. (DEDUCED: LOG 107.) -/
def engineGo (p : Plat) (h t : Nat) (d : Dev) : Dev :=
  let g := graphAt d h
  let desc := descOf g t
  let r := engineBody ⟨p, g.still, (engW desc).hint, h⟩ desc { dev := d, seen := d }
  let fate : Option (Nat × Nat) :=
    match r.1.stop with
    | some v => some (stMem, v)
    | none => if r.2 then some (stOkFlags, 512 + r.1.flags.toNat) else none
  let spans := (r.1.puts.foldr (fun q l => joinSpan q.addr q.data.length l) []).reverse
  let ask := queues d g.still && !spans.isEmpty
  let d1 := modTask h t (fun x => { x with work := { x.work with
    flags := r.1.flags, fate := fate, msgDone := r.1.stop.isSome, puts := r.1.puts.reverse, engStage := if ask then 2 else 4 } }) r.1.dev
  if ask then submitAll p 2 (enginePort (dSite desc)) (.task h t true) h spans d1 else d1

/-- Dispatch an ENGINE task of a SUB and MODE: where its accesses queue, its reads go to their channels. -/
def engineRun (h t sub : Nat) (mode : Nat → Bool) (s : State) : Out :=
  onDev s (dispatchIf h t (fun desc => dKind desc == 2 && dSub desc == sub && mode (engW desc).mode) (fun p _ g desc d =>
    if engBadParam d desc then failAtDispatch h t stBadParam 0 d
    else
      let next : Option (Nat × W64) :=
        if sub = 2 ∧ !bit (word desc 4) 63 then
          some (fld (word desc 4) 11 0, BitVec.ofNat 64 ((rngDraws d desc).1 + (rngDraws d desc).2))
        else none
      let d0 := modTask h t (fun x => { x with work := { x.work with rngNext := next } }) d
      let reads := if queues d g.still then (engineBody ⟨p, g.still, (engW desc).hint, h⟩ desc { dev := d, seen := d }).1.reads.reverse else []
      if reads.isEmpty then engineGo p h t d0
      else submitAll p 2 (enginePort (dSite desc)) (.task h t false) h reads (modTask h t (fun x => { x with work := { x.work with engStage := 1 } }) d0)))

/-- TRANSPOSE (R230). -/
def execTranspose (h t : Nat) (s : State) : Out := engineRun h t 0 (fun _ => true) s

/-- GATHER (R232). -/
def execGather (h t : Nat) (s : State) : Out := engineRun h t 1 (· == 0) s

/-- SCATTER-ADD (R233). -/
def execScatterAdd (h t : Nat) (s : State) : Out := engineRun h t 1 (· == 1) s

/-- RNG (R234 to R237). -/
def execRng (h t : Nat) (s : State) : Out := engineRun h t 2 (fun _ => true) s

/-- HREDUCE (R239). -/
def execHreduce (h t : Nat) (s : State) : Out := engineRun h t 3 (· == 0) s

/-- HIST (R240). -/
def execHist (h t : Nat) (s : State) : Out := engineRun h t 3 (· == 1) s

/-- SCALEMAX (R241). -/
def execScalemax (h t : Nat) (s : State) : Out := engineRun h t 3 (· == 2) s

/-- SCALEHIST (R242). -/
def execScalehist (h t : Nat) (s : State) : Out := engineRun h t 3 (· == 3) s

/-- QUANT (R243). -/
def execQuant (h t : Nat) (s : State) : Out := engineRun h t 3 (· == 4) s

/-- QCODE (R244). -/
def execQcode (h t : Nat) (s : State) : Out := engineRun h t 3 (· == 5) s

/-- COPY (R231). -/
def execCopy (h t : Nat) (s : State) : Out := engineRun h t 4 (· == 0) s

/-- FILL (R231). -/
def execFill (h t : Nat) (s : State) : Out := engineRun h t 4 (· == 1) s

/-- SCRUB (R245). -/
def execScrub (h t : Nat) (s : State) : Out := engineRun h t 5 (fun _ => true) s

/-- The earliest run cycle in which an ENGINE task may end: one cycle after dispatch when it ended there or stopped at a read, else
S + D (R223, R247, R248). -/
def engineDue (d : Dev) (desc : List W64) (x : TaskRun) : Nat :=
  x.s + (if x.work.atDispatch || x.work.msgDone then 1 else engineLength d desc)

/-- Status and DETAIL of an ENGINE task (R248). -/
def engineStatus (x : TaskRun) : Nat × Nat :=
  match x.work.fate with
  | some f => f
  | none => (flagStatus (fInvalid ||| fOverflow ||| fUnderflow ||| fFlushed ||| fQuireOvf) x.work.flags, x.work.flags.toNat)

/-- The last request of a stage of an engine has been served: it reads, or its writes are made (R260). -/
def engineNext (p : Plat) (h t : Nat) (d : Dev) : Dev :=
  match taskOf d h t with
  | none => d
  | some x =>
    if x.st != .running then d
    else
      match x.work.engStage with
      | 1 => engineGo p h t d
      | 2 => makePuts p h t x.work.puts (modTask h t (fun x => { x with work := { x.work with engStage := 3 } }) d)
      | _ => d

/-- ENGINE_COMPLETE (R247): its writes are made, in Still mode E is exactly the cycle due; a sequential RNG task writes NEXT (R237). -/
def execEngineComplete (h t : Nat) (s : State) : Out :=
  onDev s (onRunning h t (fun desc => dKind desc == 2) (fun p r g desc x d =>
    let due := engineDue d desc x
    if runCycle p r < due || !(x.work.atDispatch || decide (3 ≤ x.work.engStage)) then d
    else
      let d0 := if x.work.atDispatch || x.work.engStage == 3 then d else makePuts p h t x.work.puts d
      let y := (taskOf d0 h t).getD x
      let d1 := match y.work.rngNext with
        | none => d0
        | some n => { d0 with rng := tmod {} d0.rng n.1 (fun e => { e with next := n.2 }) }
      let st := engineStatus y
      finishTaskAt p h t (if g.still || x.work.atDispatch then due else runCycle p r) st.1 st.2 y.work.flags.toNat d1))

end Sys2Proof.Machine
end

