-- ==== Sys2Proof/Machine/Graphs.lean ====
section
/-! DEFINITION. Graph images (09 R204 to R212): reading one, the checks of GRAPH_LOAD, the Still-mode schedule and its channel
reservations (R216 to R218, R265, R268), GRAPH_LOAD and GRAPH_UNLOAD. -/

namespace Sys2Proof.Machine

/-! ### MOVE and COLL descriptors (Tables 9.5, 12.15) -/

/-- Fields of a MOVE descriptor. -/
def mvSrcSp (desc : List W64) : Nat := fld (word desc 2) 63 60
def mvDstSp (desc : List W64) : Nat := fld (word desc 2) 59 56
def mvHint (desc : List W64) : Nat := fld (word desc 2) 55 54
def mvRtype (desc : List W64) : Nat := fld (word desc 2) 53 50
def mvPort (desc : List W64) : Nat := fld (word desc 2) 49 44
def mvLen (desc : List W64) : Nat := fld (word desc 5) 39 0
def mvSrc (desc : List W64) : Nat := (word desc 3).toNat
def mvDst (desc : List W64) : Nat := (word desc 4).toNat
def mvRed (desc : List W64) : Bool := dSub desc == 1

/-- The near-tier ranges of a MOVE. -/
def mvRanges (desc : List W64) : List (Nat × Nat) :=
  (if mvSrcSp desc = 0 then [(mvSrc desc, mvLen desc)] else []) ++ (if mvDstSp desc = 0 then [(mvDst desc, mvLen desc)] else [])

/-- r of a MOVE, in bytes per cycle (R267). -/
def mvRate (desc : List W64) : Nat := if mvRed desc then 256 else 512

/-- The channel belongs to the quadrant of a task's hub. -/
def ownHub (desc : List W64) (g : Nat) : Bool := g / 256 == dSite desc - 0x10

/-- D of a MOVE with both endpoints in the near tier (R267). -/
def moveLength (d : Dev) (desc : List W64) : Nat :=
  let s := spanOf d (mvRanges desc) (ownHub desc)
  48 + cdiv (mvLen desc) (max 1 (min (mvRate desc) (96 * s.1))) + (if s.2 then 36 else 0)

/-- Fields of a COLL descriptor. -/
def clOp (desc : List W64) : Nat := fld (word desc 2) 63 60
def clFmt (desc : List W64) : Nat := fld (word desc 2) 59 56
def clN (desc : List W64) : Nat := fld (word desc 2) 55 48 + 1
def clRank (desc : List W64) : Nat := fld (word desc 2) 47 40
def clAnchor (desc : List W64) : Int := signedField 9 (fld (word desc 2) 39 31)
def clRoot (desc : List W64) : Nat := fld (word desc 2) 7 0
def clNext (desc : List W64) : List Nat := bitsOf 48 (fld (word desc 3) 47 0)
def clPrev (desc : List W64) : List Nat := bitsOf 48 (fld (word desc 4) 47 0)
def clSrc (desc : List W64) : Nat := fld (word desc 5) 39 0
def clDst (desc : List W64) : Nat := fld (word desc 6) 39 0
def clWork (desc : List W64) : Nat := fld (word desc 7) 39 0
def clCount (desc : List W64) : Nat := fld (word desc 8) 39 0
def clId (desc : List W64) : Nat := fld (word desc 9) 23 0

/-- An arithmetic operation: ALL_REDUCE or REDUCE_SCATTER. -/
def clArith (desc : List W64) : Bool := decide (clOp desc ≤ 1)

/-- Bytes of an element of FMT; a quire32 image has 64. -/
def clSize (desc : List W64) : Nat := if clFmt desc = 0xC then 64 else elemBytes (clFmt desc)

/-- Quire width in bits of an EXACT collective (Table 12.16). -/
def clQuire (desc : List W64) : Nat := if clFmt desc = 1 ∨ clFmt desc = 5 then 256 else 512

/-- q = ceil(COUNT / N) (R323). -/
def clQ (desc : List W64) : Nat := cdiv (clCount desc) (clN desc)

/-- Chunk c: its first element and how many it holds. (DEDUCED: LOG 56.) -/
def clChunk (desc : List W64) (c : Nat) : Nat × Nat :=
  let lo := c * clQ desc
  (lo, min (clCount desc) (lo + clQ desc) - lo)

/-- Bytes read at SRC: one chunk for ALL_GATHER, nothing where BROADCAST's source is another rank. -/
def clSrcLen (desc : List W64) : Nat :=
  if clOp desc = 2 then (clChunk desc (clRank desc)).2 * clSize desc
  else if clOp desc = 3 ∧ clRank desc ≠ clRoot desc then 0
  else clCount desc * clSize desc

/-- Bytes left at DST: one chunk for REDUCE_SCATTER. -/
def clDstLen (desc : List W64) : Nat :=
  (if clOp desc = 1 then (clChunk desc (clRank desc)).2 else clCount desc) * clSize desc

/-- Bytes of WORK (R324). -/
def clWorkLen (desc : List W64) : Nat := if clArith desc && dSub desc == 0 then clQ desc * (clQuire desc / 8) else 0

/-- The near-tier ranges of a COLL. -/
def clRanges (desc : List W64) : List (Nat × Nat) :=
  [(clSrc desc, clSrcLen desc), (clDst desc, clDstLen desc), (clWork desc, clWorkLen desc)].filter (fun r => r.2 != 0)

/-- D of a COLL that uses no port (R328). -/
def collLength (d : Dev) (desc : List W64) : Nat :=
  let s := spanOf d (clRanges desc) (ownHub desc)
  48 + cdiv (clCount desc * clSize desc) (max 1 (min 256 (96 * s.1))) + (if s.2 then 36 else 0)

/-! ### Checks of one descriptor (R205 to R208, R228, R229, R322, R324) -/

/-- Words that are not listed are zero, and listed ones hold only their fields (R8). -/
def wordsClean (desc : List W64) (l : List (Nat × List (Nat × Nat))) : Bool :=
  (List.range 16).all (fun i => onlyFields (word desc i) ((l.find? (fun e => e.1 == i)).elim [] (·.2)))

/-- Words 0 and 1 (Table 9.2), and the words of the kind. -/
def descClean (desc : List W64) (l : List (Nat × List (Nat × Nat))) : Bool :=
  wordsClean desc ([(0, [(63, 40)]), (1, [(47, 0)])] ++ l)

/-- A whole word. -/
def allBits : List (Nat × Nat) := [(63, 0)]

/-- An address word. -/
def addrBits : List (Nat × Nat) := [(39, 0)]

/-- A hub site: 0x10 + q. -/
def hubSite (desc : List W64) : Bool := decide (0x10 ≤ dSite desc) && decide (dSite desc ≤ 0x13)

/-- The hub of a site is in the resource set (R210). -/
def hubIn (g : Graph) (desc : List W64) : Bool := hubSite desc && g.quadMask.toNat.testBit (dSite desc - 0x10)

/-- A TILE descriptor (Table 9.4, R206); a tile set of a Still-mode graph has its least DECL (Table 9.7). -/
def tileTaskOk (g : Graph) (desc : List W64) : Bool :=
  let r := rectOf desc
  let len := fld (word desc 4) 13 0
  dSub desc == 0 && dSite desc == 0 &&
    descClean desc [(2, allBits), (3, [(63, 29)]), (4, [(63, 32), (13, 0)]), (5, addrBits), (6, addrBits)] &&
    decide (1 ≤ r.ndie) && decide (r.die0 + r.ndie ≤ 16) && decide (1 ≤ r.nrows) && decide (1 ≤ r.ncols) &&
    decide (r.col0 + r.ncols ≤ 100) &&
    (upFrom r.die0 r.ndie).all (fun die => decide (r.row0 + r.nrows ≤ (g.rows.getD die 0#8).toNat) && g.dieMask.toNat.testBit die) &&
    decide (1 ≤ len) && decide (len ≤ 8192) && decide (fld (word desc 4) 63 32 + len ≤ g.prog.length) &&
    programOk (word desc 2) (progOf g desc) && (!g.still || decide (cdiv len 8 + 1 ≤ dDecl desc))

/-- The words 3 to 7 an ENGINE task uses by SUB and MODE (Table 10.2); none for a reserved one. -/
def engWords (desc : List W64) : Option (List (Nat × List (Nat × Nat))) :=
  let a : Nat × List (Nat × Nat) := (3, addrBits)
  let b : Nat × List (Nat × Nat) := (4, addrBits)
  match dSub desc, (engW desc).mode with
  | 0, 0 => some [a, b, (5, allBits), (6, allBits)]
  | 1, 0 => some [a, b, (5, addrBits), (6, allBits), (7, [(31, 0)])]
  | 1, 1 => some [a, b, (5, addrBits), (6, allBits), (7, [(63, 60), (31, 0)])]
  | 2, 3 => some [a, (4, [(63, 63), (11, 0)]), (5, allBits), (6, addrBits), (7, [(31, 0)])]
  | 2, m => if m ≤ 2 then some [a, (4, [(63, 63), (11, 0)]), (5, allBits), (6, addrBits)] else none
  | 3, 0 => some [a, b, (5, allBits), (6, [(0, 0)])]
  | 3, 1 => some [a, b, (5, addrBits)]
  | 3, 2 => some [a, b, (5, [(63, 16), (7, 0)])]
  | 3, 3 => some [a, b, (5, [(31, 16)]), (6, allBits)]
  | 3, 4 => some [a, b, (5, addrBits), (6, [(63, 24), (19, 0)])]
  | 3, 5 => some [a, b, (5, addrBits), (6, [(63, 24), (19, 0)]), (7, addrBits)]
  | 4, 0 => some [a, b, (5, addrBits)]
  | 4, 1 => some [(3, allBits), b, (5, addrBits)]
  | 5, 0 => some [a, b, (5, addrBits)]
  | _, _ => none

/-- Formats HIST, QUANT and QCODE read (R240). -/
def histFmt (c : Nat) : Bool := decide (c ≤ 7) || c == 9 || c == 0xB

/-- Formats QUANT writes (R243). -/
def quantFmt (c : Nat) : Bool := c == 0 || c == 1 || c == 3 || c == 4 || c == 5 || c == 6 || c == 9

/-- Formats of a QCODE table (R244, R78). -/
def tableFmt (c : Nat) : Bool := c == 0 || c == 3 || c == 4 || c == 9

/-- Some range of one list overlaps some range of another. -/
def anyMeet (a b : List (Nat × Nat)) : Bool := a.any (fun x => b.any (fun y => windowsMeet x.1 x.2 y.1 y.2))

/-- Formats, alignment, counts and limits of an ENGINE task (R229 to R245). Element addresses are aligned to the element; every
other address, length and pitch to 8. (DEDUCED: LOG 35.) -/
def engFieldsOk (desc : List W64) : Bool :=
  let w := engW desc
  let z := elemBytes w.f1
  let a (i : Nat) : Nat := engAddr desc i
  let al (x m : Nat) : Bool := x % m == 0
  let r := engRanges desc
  let apart := !anyMeet r.1 r.2
  match dSub desc, w.mode with
  | 0, _ =>
    (decide (w.f1 ≤ 9) || w.f1 == 0xB) && al (a 3) z && al (a 4) z && al (engHi desc 6) 8 && al (engLo desc 6) 8 &&
      engHi desc 5 != 0 && engLo desc 5 != 0 && decide (engLo desc 5 * z ≤ engHi desc 6) &&
      decide (engHi desc 5 * z ≤ engLo desc 6) && apart
  | 1, m =>
    let rb := engLo desc 7
    let rt := fld (word desc 7) 63 60
    al (a 3) 8 && al (a 4) 4 && al (a 5) 8 && al rb 8 && decide (8 ≤ rb) && decide (rb ≤ 65536) && engHi desc 6 != 0 &&
      engLo desc 6 != 0 && !windowsMeet (a 5) (engHi desc 6 * rb) (a 3) (engLo desc 6 * rb) &&
      !windowsMeet (a 5) (engHi desc 6 * rb) (a 4) (4 * engHi desc 6) &&
      (m == 0 || (decide (rt ≤ 6) && al rb (redSize rt) && al (a 3) (redSize rt) && al (a 5) (redSize rt)))
  | 2, m => w.f1 == 0 && w.f2 == 0 && al (a 3) (rngSize m) && fld (word desc 6) 39 0 != 0
  | 3, 0 => al (a 3) 8 && al (a 4) 8 && al (engLo desc 5) 8 && engHi desc 5 != 0 && decide (hrecBytes desc ≤ engLo desc 5)
  | 3, 1 => histFmt w.f1 && al (a 3) z && al (a 4) 8 && fld (word desc 5) 39 0 != 0
  | 3, 2 =>
    let g := fld (word desc 5) 7 0
    histFmt w.f2 && al (a 3) 4 && al (a 4) 2 && engHi desc 5 != 0 && decide (1 ≤ g) && decide (g ≤ 32)
  | 3, 3 => histFmt w.f2 && al (a 3) 8 && al (a 4) 2
  | 3, 4 =>
    let b := fld (word desc 6) 3 0
    histFmt w.f1 && quantFmt w.f2 && al (a 3) z && al (a 4) (elemBytes w.f2) && al (a 5) 2 && quantN desc != 0 &&
      decide (1 ≤ b) && decide (b ≤ 6) && apart
  | 3, _ =>
    let b := fld (word desc 6) 3 0
    histFmt w.f1 && tableFmt w.f2 && al (a 3) z && al (a 5) 2 && quantN desc != 0 && decide (1 ≤ b) && decide (b ≤ 6) && apart
  | 4, 0 => al (a 3) 8 && al (a 4) 8 && al (fld (word desc 5) 39 0) 8 && fld (word desc 5) 39 0 != 0 && apart
  | 4, _ => al (a 4) 8 && al (fld (word desc 5) 39 0) 8 && fld (word desc 5) 39 0 != 0
  | _, _ => al (a 3) 256 && al (a 4) 8 && al (fld (word desc 5) 39 0) 8 && fld (word desc 5) 39 0 != 0

/-- Every range lies within the near tier's 2^40 addresses. -/
def inTier (l : List (Nat × Nat)) : Bool := l.all (fun r => decide (r.1 + r.2 ≤ 2 ^ 40))

/-- A timed task other than a tile's is mapped whole and has no operand in a CHAN region (R265, R268). -/
def slotsOk (d : Dev) (l : List (Nat × Nat)) : Bool :=
  l.all (fun r => covered d r.1 r.2 && (regionsOf d r.1 r.2).all (fun g => g.il != .chan))

/-- An ENGINE descriptor; a format field it does not use holds no reserved code (R31). -/
def engineTaskOk (d : Dev) (g : Graph) (desc : List W64) : Bool :=
  match engWords desc with
  | none => false
  | some l =>
    let r := engRanges desc
    decide (dSite desc < 16) && g.dieMask.toNat.testBit (dSite desc) &&
      descClean desc ((2, [(63, 46)]) :: l) && decide ((engW desc).f1 < 0xD) && decide ((engW desc).f2 < 0xD) && engFieldsOk desc &&
      (!g.still || (slotsOk d (r.1 ++ r.2) && dDecl desc == engineLength d desc))

/-- One endpoint of a MOVE (R207, R317): its address is in its space, aligned for a reduce-write or a far access. -/
def endOk (space addr len : Nat) (red : Option Nat) : Bool :=
  let top := match space with | 0 => 2 ^ 40 | 1 => 2 ^ 47 | 2 => 2 ^ 64 | _ => 1
  let m := match red with | some z => z | none => if space = 1 then 8 else 1
  decide (space ≤ 3) && decide (addr < top) && (space ≥ 2 || decide (addr + len ≤ top)) && (space == 3 || addr % m == 0) &&
    (space == 3 || len % m == 0)

/-- A MOVE descriptor (Table 9.5, R207). (DEDUCED: LOG 34.) -/
def moveTaskOk (d : Dev) (g : Graph) (desc : List W64) : Bool :=
  let red := if mvRed desc then some (redSize (mvRtype desc)) else none
  let link := mvSrcSp desc == 3 || mvDstSp desc == 3
  decide (dSub desc ≤ 1) && hubIn g desc &&
    descClean desc [(2, if mvRed desc then [(63, 44)] else [(63, 54), (49, 44)]), (3, allBits), (4, allBits), (5, addrBits)] &&
    mvLen desc != 0 && !(mvSrcSp desc == 3 && mvDstSp desc == 3) &&
    (!mvRed desc || (decide (mvRtype desc ≤ 6) && decide (mvDstSp desc ≤ 1) && mvLen desc % redSize (mvRtype desc) == 0)) &&
    endOk (mvSrcSp desc) (mvSrc desc) (mvLen desc) red && endOk (mvDstSp desc) (mvDst desc) (mvLen desc) red &&
    (!link || (decide (mvPort desc < 48) && g.portMask.toNat.testBit (mvPort desc))) &&
    (!g.still ||
      if isUntimed desc then dDecl desc == 0
      else slotsOk d (mvRanges desc) && dDecl desc == moveLength d desc)

/-- Formats of a collective (R324, Table 12.16). -/
def collFmtOk (desc : List W64) : Bool :=
  let f := clFmt desc
  if !clArith desc then decide (f ≤ 9) || f == 0xB
  else if dSub desc = 0 then f == 1 || f == 5 || f == 2 || f == 6 || f == 7 || f == 0xC
  else f == 1 || f == 5 || f == 2 || f == 6 || f == 7 || f == 0xB

/-- A COLL descriptor (R322, R324). -/
def collTaskOk (d : Dev) (g : Graph) (desc : List W64) : Bool :=
  let ports := clNext desc ++ clPrev desc
  decide (dSub desc ≤ 2) && hubIn g desc &&
    descClean desc [(2, [(63, 31), (7, 0)]), (3, [(47, 0)]), (4, [(47, 0)]), (5, addrBits), (6, addrBits), (7, addrBits),
      (8, addrBits), (9, [(23, 0)])] &&
    decide (clOp desc ≤ 3) && decide (clRank desc < clN desc) && (dSub desc == 0 || clAnchor desc == 0) &&
    (if clOp desc = 3 then decide (clRoot desc < clN desc) else clRoot desc == 0) && collFmtOk desc && clCount desc != 0 &&
    ((clArith desc && dSub desc == 0) || clWork desc == 0) && inTier (clRanges desc) &&
    (if clN desc = 1 then ports.isEmpty else !(clNext desc).isEmpty && !(clPrev desc).isEmpty) &&
    ports.all (fun p => g.portMask.toNat.testBit p) &&
    (!g.still ||
      (!(dSub desc == 2 && clArith desc) &&
        if ports.isEmpty then slotsOk d (clRanges desc) && dDecl desc == collLength d desc else dDecl desc == 0))

/-- A loss format: FP32, posit32 or FP64 (Table 14.1). -/
def lossFmtOk (c : Nat) : Bool := c == 7 || c == 2 || c == 8

/-- A MARK descriptor (Tables 14.1, 14.2). -/
def markTaskOk (g : Graph) (desc : List W64) : Bool :=
  let lf := fld (word desc 2) 7 4
  hubSite desc &&
    match dSub desc with
    | 0 => descClean desc [(2, [(7, 4), (0, 0)]), (3, addrBits)] && lossFmtOk lf && fld (word desc 3) 39 0 % elemBytes lf == 0 &&
        (!g.still || dDecl desc == 0)
    | 1 => descClean desc ((List.range 9).map (fun i => (i + 2, allBits))) && (!g.still || dDecl desc == 16)
    | 2 => descClean desc [] && (!g.still || dDecl desc == 32)
    | 3 => descClean desc [] && (!g.still || dDecl desc == 0)
    | _ => false

/-- A BARRIER descriptor. -/
def barrierTaskOk (g : Graph) (desc : List W64) : Bool :=
  hubSite desc && decide (dSub desc ≤ 1) && descClean desc [] && (!g.still || dDecl desc == 0)

/-- A descriptor of any kind. -/
def taskOk (d : Dev) (g : Graph) (desc : List W64) : Bool :=
  match dKind desc with
  | 1 => tileTaskOk g desc
  | 2 => engineTaskOk d g desc
  | 3 => moveTaskOk d g desc
  | 4 => collTaskOk d g desc
  | 5 => markTaskOk g desc
  | 6 => barrierTaskOk g desc
  | _ => false

/-! ### Checks of the graph (R208, R216, R237) -/

/-- The tasks a path of edges leads to from a, itself included: edges run upward, so one pass suffices. -/
def reachable (g : Graph) (a : Nat) : List Nat :=
  (List.range g.tasks.length).foldl (fun s t =>
    if s.contains t then s else if g.edges.any (fun e => e.2 == t && s.contains e.1) then s ++ [t] else s) [a]

/-- A path of edges orders two tasks. -/
def ordered (g : Graph) (a b : Nat) : Bool := (reachable g a).contains b || (reachable g b).contains a

/-- Edges name tasks in order, and no task has more than 65,535 distinct predecessors (R208). -/
def edgesOk (g : Graph) : Bool :=
  g.edges.all (fun e => decide (e.1 < e.2) && decide (e.2 < g.tasks.length)) &&
    (List.range g.tasks.length).all (fun t => decide ((preds g t).length ≤ 65535))

/-- An RNG task: stream and ABS. -/
def rngOf (desc : List W64) : Option (Nat × Bool) :=
  if dKind desc == 2 && dSub desc == 2 then some (fld (word desc 4) 11 0, bit (word desc 4) 63) else none

/-- The order R237 asks of RNG tasks and MARK CURSORs. -/
def rngOrderOk (g : Graph) : Bool :=
  let ts := List.range g.tasks.length
  ts.all (fun a => match rngOf (descOf g a) with
    | none => true
    | some x => ts.all (fun b =>
        (match rngOf (descOf g b) with
          | none => true
          | some y => a == b || x.1 != y.1 || (x.2 && y.2) || ordered g a b) &&
        (!(dKind (descOf g b) == 5 && dSub (descOf g b) == 1) || ordered g a b)))

/-- Every ingress point cuts the graph, and an untimed task has only ingress points after it (R216). -/
def cutsOk (g : Graph) : Bool :=
  let ts := List.range g.tasks.length
  ts.all (fun a =>
    (!isIngress (descOf g a) || ts.all (fun b => a == b || ordered g a b)) &&
      (!isUntimed (descOf g a) || isIngress (descOf g a) || (succs g a).all (fun b => isIngress (descOf g b))))

/-! ### The Still-mode schedule (R217, R218) -/

/-- prio of the tasks of a segment, in descending index. -/
def prios (g : Graph) (seg : List Nat) : Table Nat :=
  seg.reverse.foldl (fun m t =>
    let best := ((succs g t).filter seg.contains).foldl (fun a s => max a (lat (descOf g t) (descOf g s) + tget 0 m s)) 0
    tins m t (dDecl (descOf g t) + best)) []

/-- The tasks of a segment by descending prio, then ascending index. -/
def byPrio (g : Graph) (seg : List Nat) : List Nat :=
  let m := prios g seg
  seg.mergeSort (fun a b => decide (tget 0 m b < tget 0 m a) || (tget 0 m a == tget 0 m b && decide (a ≤ b)))

/-- A placed task: its offset and, when it is timed, its end. -/
structure Placed where
  task : Nat
  start : Nat
  fin : Option Nat
deriving DecidableEq, Repr

/-- A placed task holds its resources at offset c. -/
def Placed.busy (x : Placed) (c : Nat) : Bool :=
  decide (x.start ≤ c) && (match x.fin with | none => true | some e => decide (c < e))

/-- Where a segment is opened: the latency from the ingress point, and the bound of R215 in segment 0. -/
def openAt (g : Graph) (first : Option Nat) (t : Nat) : Nat :=
  let desc := descOf g t
  match first with
  | some i => lat (descOf g i) desc
  | none => if dKind desc = 1 then max 768 (1408 * ((rectOf desc).row0 + (rectOf desc).nrows - 1)) else 0

/-- When an unplaced task is ready, if its predecessors in the segment are placed. -/
def readyAt (g : Graph) (seg : List Nat) (first : Option Nat) (pl : List Placed) (t : Nat) : Option Nat :=
  ((preds g t).filter seg.contains).foldl (fun a u =>
    match a, (pl.find? (fun x => x.task == u)).bind (·.fin) with
    | some v, some e => some (max v (e + lat (descOf g u) (descOf g t)))
    | _, _ => none) (some (openAt g first t))

/-- Every resource of t is free at c. -/
def freeAt (g : Graph) (pl : List Placed) (t c : Nat) : Bool :=
  let desc := descOf g t
  let busy := pl.filter (fun x => x.busy c)
  !busy.any (fun x => conflict desc (descOf g x.task)) &&
    (dKind desc != 3 || decide ((busy.filter (fun x => dKind (descOf g x.task) == 3 && dSite (descOf g x.task) == dSite desc)).length < 8))

/-- One pass over the unplaced tasks at offset c. -/
def placePass (g : Graph) (seg : List Nat) (first : Option Nat) (c : Nat) (order : List Nat) (pl : List Placed) : List Placed :=
  order.foldl (fun pl t =>
    if pl.any (fun x => x.task == t) then pl
    else
      match readyAt g seg first pl t with
      | none => pl
      | some r =>
        if r ≤ c ∧ freeAt g pl t c then
          pl ++ [⟨t, c, if isUntimed (descOf g t) then none else some (c + dDecl (descOf g t))⟩]
        else pl) pl

/-- The smallest ready time or end above c. -/
def nextAt (g : Graph) (seg : List Nat) (first : Option Nat) (c : Nat) (order : List Nat) (pl : List Placed) : Option Nat :=
  lowest (((pl.filterMap (·.fin)) ++ (order.filter (fun t => !pl.any (fun x => x.task == t))).filterMap (readyAt g seg first pl)).filter
    (fun v => decide (c < v)))

/-- Place the tasks of a segment, on fuel; none when a task can never be placed. (DEDUCED: LOG 37.) -/
def placeGo (g : Graph) (seg : List Nat) (first : Option Nat) (order : List Nat) : Nat → Nat → List Placed → Option (List Placed)
  | 0, _, _ => none
  | f + 1, c, pl =>
    let pl' := placePass g seg first c order pl
    if order.all (fun t => pl'.any (fun x => x.task == t)) then some pl'
    else match nextAt g seg first c order pl' with
      | none => none
      | some c' => placeGo g seg first order f c' pl'

/-- How many segments a graph has. -/
def segments (g : Graph) : Nat := (g.tasks.filter isIngress).length + 1

/-- The tasks of a segment that are placed: all but its ingress point. -/
def segTasks (g : Graph) (k : Nat) : List Nat :=
  (List.range g.tasks.length).filter (fun t => segmentOf g t == k && !isIngress (descOf g t))

/-- The ingress point that opens a segment. -/
def opener (g : Graph) (k : Nat) : Option Nat :=
  if k = 0 then none
  else ((List.range g.tasks.length).filter (fun t => isIngress (descOf g t)))[k - 1]?

/-- The placements of every segment. -/
def placeAll (g : Graph) : Option (List (List Placed)) :=
  (List.range (segments g)).mapM (fun k =>
    let seg := segTasks g k
    placeGo g seg (opener g k) (byPrio g seg) (3 * seg.length + 3) 0 [])

/-- The length of a segment: the latest end of its timed tasks (R217). -/
def segLen (g : Graph) (k : Nat) : Nat :=
  (segTasks g k).foldl (fun a t => if isTimed (descOf g t) then max a (g.starts.getD t 0 + dDecl (descOf g t)) else a) 0

/-- A Still-mode graph with the offsets of its tasks. -/
def withStarts (g : Graph) (l : List (List Placed)) : Graph :=
  let all := l.flatten
  { g with starts := (List.range g.tasks.length).map (fun t => ((all.find? (fun x => x.task == t)).map (·.start)).getD 0) }

/-! ### Channel reservations (R265, R268) -/

/-- What a task reserves: start, length, the operand ranges and the effective rate. -/
def reserver (d : Dev) (g : Graph) (t : Nat) : Option (Nat × Nat × List (Nat × Nat) × Nat) :=
  let desc := descOf g t
  let at0 := g.starts.getD t 0
  match dKind desc with
  | 2 =>
    let r := (engRanges desc).1 ++ (engRanges desc).2
    some (at0, engineLength d desc, r, min (engWork desc).2 (96 * (spanOf d r (fun _ => true)).1))
  | 3 =>
    if isUntimed desc then none
    else some (at0, moveLength d desc, mvRanges desc, min (mvRate desc) (96 * (spanOf d (mvRanges desc) (fun _ => true)).1))
  | 4 =>
    if collUsesPort desc then none
    else some (at0, collLength d desc, clRanges desc, min 256 (96 * (spanOf d (clRanges desc) (fun _ => true)).1))
  | _ => none

/-- Slots a task takes on a channel in each of its windows: ceil(0.625 r / n) for each region of its operands with that channel. (DEDUCED: LOG 36.) -/
def slotsOn (d : Dev) (x : Nat × Nat × List (Nat × Nat) × Nat) (ch : Nat) : Nat :=
  ((validRegions d).filter (fun r => r.chans.contains ch && x.2.2.1.any (fun o => windowsMeet o.1 o.2 r.base r.size))).foldl
    (fun a r => a + cdiv (5 * x.2.2.2) (8 * r.chans.length)) 0

/-- The window w is one that a task reserves in. -/
def inWindow (x : Nat × Nat × List (Nat × Nat) × Nat) (w : Nat) : Bool :=
  w % 32 != 0 && decide (x.1 < 64 * (w + 1)) && decide (64 * w < x.1 + x.2.1)

/-- Task t cannot reserve what it needs: with the tasks below it some window of some channel exceeds 23 slots. It is enough to look at
the first windows of the tasks up to it. -/
def overbooked (d : Dev) (g : Graph) (t : Nat) : Bool :=
  match reserver d g t with
  | none => false
  | some me =>
    let others := (List.range (t + 1)).filterMap (fun u =>
      if segmentOf g u = segmentOf g t then (reserver d g u) else none)
    let ws := (others.flatMap (fun x => let w := x.1 / 64; [w, w + 1])).filter (fun w => inWindow me w)
    let chans := ((validRegions d).filter (fun r => me.2.2.1.any (fun o => windowsMeet o.1 o.2 r.base r.size))).flatMap (·.chans)
    ws.any (fun w => chans.any (fun ch =>
      decide (23 < (others.filter (fun x => inWindow x w)).foldl (fun a x => a + slotsOn d x ch) 0)))

/-- The near-tier ranges of a tile's DMAs, by a walk over its program, on fuel. -/
def dmaWalk (prog : List W64) : Nat → Nat → List (Nat × Nat × Nat) → Table Nat → List (Nat × Nat)
  | 0, _, _, _ => []
  | f + 1, pc, loops, regs =>
    let ws := prog.drop pc
    let w := wd ws 0
    if opOf w = 0xFF then []
    else
      let nx := seqNext w ((opWords (opOf w)).getD 1) pc loops
      let regs' := if opOf w = 0xA1 ∨ opOf w = 0xA2 then arWrite regs w else regs
      let rest := dmaWalk prog f nx.1 nx.2 regs'
      if opOf w = 0x90 ∧ dmaDir w ≠ 3 then (nearAddr regs (dmaNbsel w) (dmaNaddr (wd ws 1)), dmaLen (wd ws 2)) :: rest else rest

/-- A timed transfer of the task addresses memory outside every region, or a CHAN region where that is refused (R265, R268). -/
def planBad (d : Dev) (g : Graph) (t : Nat) : Bool :=
  let desc := descOf g t
  if dKind desc = 1 then
    (List.range (rectOf desc).count).any (fun i =>
      (dmaWalk (progOf g desc) (8192 * 65536 ^ 4) 0 []
        (tset 0 [] 9 ((fld (word desc 5) 39 0 + i * fld (word desc 6) 39 0) % 2 ^ 40))).any (fun r => !covered d r.1 r.2))
  else match reserver d g t with
    | none => false
    | some x => !slotsOk d x.2.2.1

/-- The lowest task the plan cannot place (R268). -/
def planFail (d : Dev) (g : Graph) : Option Nat :=
  (List.range g.tasks.length).find? (fun t => planBad d g t || overbooked d g t)

/-! ### GRAPH_LOAD (R211, R212) -/

/-- n bytes of an image at an offset. -/
def imgBytes (img : List Byte) (off n : Nat) : List Byte := (img.drop off).take n

/-- A little-endian field of an image. -/
def imgNum (img : List Byte) (off n : Nat) : Nat := leNat (imgBytes img off n)

/-- n words of an image. -/
def imgWords (img : List Byte) (off n : Nat) : List W64 :=
  let l := imgBytes img off (8 * n)
  (List.range n).map (fun i => BitVec.ofNat 64 (leNat ((l.drop (8 * i)).take 8)))

/-- The CRC of the image with its own field taken as zero (Table 9.1). -/
def imgCrc (img : List Byte) : Nat :=
  crc64 ((img.take 0x70 ++ List.replicate 8 0#8 ++ img.drop 0x78).take img.length)

/-- Sections lie in the image, aligned, apart from one another and from the header (R204). (DEDUCED: LOG 38.) -/
def sectionsOk (img : List Byte) : Bool :=
  let nt := imgNum img 8 4
  let ne := imgNum img 0xC 4
  let t := (imgNum img 0x40 8, 128 * nt)
  let e := (imgNum img 0x48 8, 8 * ne)
  let p := (imgNum img 0x50 8, imgNum img 0x58 8)
  let all := [(0, 256), t, e, p]
  t.1 % 128 == 0 && e.1 % 8 == 0 && p.1 % 8 == 0 && p.2 % 8 == 0 && decide (p.2 ≤ 2 ^ 24) &&
    all.all (fun s => decide (s.1 + s.2 ≤ img.length)) &&
    !windowsMeet 0 256 t.1 t.2 && !windowsMeet 0 256 e.1 e.2 && !windowsMeet 0 256 p.1 p.2 && !windowsMeet t.1 t.2 e.1 e.2 &&
    !windowsMeet t.1 t.2 p.1 p.2 && !windowsMeet e.1 e.2 p.1 p.2

/-- The header's own rules (Table 9.1). -/
def headerOk (img : List Byte) : Bool :=
  let zero (off n : Nat) : Bool := allZero (imgBytes img off n)
  decide (256 ≤ img.length) && decide (imgNum img 6 1 ≤ 1) && decide (imgNum img 7 1 ≤ 1) && decide (1 ≤ imgNum img 8 4) &&
    decide (imgNum img 8 4 ≤ 2 ^ 20) && decide (imgNum img 0xC 4 ≤ 2 ^ 22) && decide (imgNum img 0x2A 1 < 16) && zero 0x2B 5 &&
    decide (imgNum img 0x30 8 < 2 ^ 48) && decide (imgNum img 0x38 8 < 2 ^ 48) && zero 0x78 136 &&
    (imgNum img 6 1 == 1 || imgNum img 0x68 8 == 0) && sectionsOk img

/-- The edge list's reserved bits are zero. -/
def edgeWordsOk (img : List Byte) : Bool := (imgWords img (imgNum img 0x48 8) (imgNum img 0xC 4)).all (fun w => onlyFields w [(39, 0)])

/-- The graph an image holds. -/
def graphOfImage (img : List Byte) (override : Bool) (gen : BitVec 32) : Graph :=
  let nt := imgNum img 8 4
  { state := .loaded, override := override, still := imgNum img 6 1 == 1, powerClass := imgNum img 7 1,
    nid := BitVec.ofNat 64 (imgNum img 0x10 8), rows := imgBytes img 0x18 16, dieMask := BitVec.ofNat 16 (imgNum img 0x28 2),
    quadMask := BitVec.ofNat 4 (imgNum img 0x2A 1), portMask := BitVec.ofNat 48 (imgNum img 0x30 8), timeout := imgNum img 0x38 8,
    stillLen := imgNum img 0x68 8, imageCrc := BitVec.ofNat 64 (imgNum img 0x70 8),
    tasks := (List.range nt).map (fun i => imgWords img (imgNum img 0x40 8 + 128 * i) 16),
    edges := (imgWords img (imgNum img 0x48 8) (imgNum img 0xC 4)).map (fun w => (fld w 19 0, fld w 39 20)),
    prog := imgWords img (imgNum img 0x50 8) (imgNum img 0x58 8 / 8), planGen := gen }

/-- Item 5 of R211: the graph with its schedule, when no rule is broken. -/
def graphChecked (d : Dev) (img : List Byte) (override : Bool) : Option Graph :=
  if !headerOk img || !edgeWordsOk img then none
  else
    let g := graphOfImage img override d.near.regionGen
    if !edgesOk g || !g.tasks.all (taskOk d g) || !rngOrderOk g then none
    else if !g.still then some g
    else if !cutsOk g then none
    else match placeAll g with
      | none => none
      | some l =>
        let g' := withStarts g l
        if (List.range (segments g')).foldl (fun a k => a + segLen g' k) 0 != g'.stillLen || (planFail d g').isSome then none else some g'

/-- The quadrant whose hub holds a task's descriptor: that of its site, or of its DIE0 (R212). -/
def quadOfTask (desc : List W64) : Nat :=
  let s := (siteSet desc).headD 0
  if s ≥ 100 then s - 100 else s / 4

/-- Bytes of descriptor memory a graph takes on hub q (R212). -/
def hubBytes (g : Graph) (q : Nat) : Nat :=
  256 + 128 * (g.tasks.filter (fun w => quadOfTask w == q)).length +
    8 * (g.edges.filter (fun e => quadOfTask (descOf g e.2) == q)).length +
    (if g.tasks.any (fun w => dKind w == 1 && (siteSet w).any (fun die => die / 4 == q)) then 8 * g.prog.length else 0)

/-- The loaded graphs. -/
def loadedGraphs (d : Dev) : List (Nat × Graph) := d.graphs.filter (fun e => e.2.state != .free)

/-- Descriptor memory has room for one more graph (R211 item 6, R212). -/
def graphFits (d : Dev) (g : Graph) : Bool :=
  decide ((loadedGraphs d).length < 64) &&
    (List.range 4).all (fun q => decide ((loadedGraphs d).foldl (fun a e => a + hubBytes e.2 q) (hubBytes g q) ≤ 192 * 2 ^ 20))

/-- Load a checked graph under a free handle; which one the spec leaves open (a free value, LOG 5). -/
def placeGraph (g : Graph) (d : Dev) : Nat × Nat × Dev :=
  let open_ := (List.range 64).filter (fun h => (graphAt d h).state == .free)
  let v := freeVal 6 d
  let h := open_.getD (v.1.toNat % open_.length) 0
  (stOk, h, modGraph h (fun _ => g) v.2)

/-- GRAPH_LOAD's checks in order and its effect (R211). (DEDUCED: LOG 41.) -/
def graphLoadBody (p : Plat) (pkt : Packet) (d : Dev) : Nat × Nat × Dev :=
  let a := par pkt 0 8
  if a ≥ 2 ^ 40 || !covered d a 256 then (stBadParam, 0, d)
  else
    let len := if (nearBad d a 256).isEmpty then nearLe d (a + 0x60) 8 else 256
    if a + len > 2 ^ 40 || !covered d a len then (stBadParam, 0, d)
    else
      let n := max len 256
      let d1 := readEffects p 5 0 false a n d
      match lowDetail (nearBad d a n) with
      | some v => (stMem, v, d1)
      | none =>
        let img := nearBytes d a len
        if imgNum img 0 4 != 0x52475A44 || imgCrc img != imgNum img 0x70 8 then (stBadParam, 0, d1)
        else if imgNum img 4 2 != 2 then (stVersion, 0, d1)
        else if imgBytes img 0x18 16 != rowBytes d1.geom then (stGeometry, 0, d1)
        else if BitVec.ofNat 64 (imgNum img 0x10 8) != d1.fw.nid && !pkOverride pkt then (stNid, 0, d1)
        else
          match graphChecked d1 img (pkOverride pkt) with
          | none => (stBadParam, 0, d1)
          | some g => if graphFits d1 g then placeGraph g d1 else (stBusy, 0, d1)

/-- GRAPH_LOAD (R211). -/
def execGraphLoad (ring : Nat) (pkt : Packet) (s : State) : Out :=
  onDev s (fun p => takePacket ring pkt (pkOpcode pkt == 0x10) (fun id d => finish p.now id (graphLoadBody p pkt d)) p)

/-- A GRAPH_RUN of the handle has been taken and has not started (Table 9.6). -/
def runWaits (d : Dev) (h : Nat) : Bool := d.runs.any (fun r => !r.started && r.handle == h)

/-- GRAPH_UNLOAD (Table 9.6, R213). -/
def graphUnloadBody (pkt : Packet) (d : Dev) : Nat × Nat × Dev :=
  let h := par pkt 0 1
  match (graphAt d h).state with
  | .free => (stBadParam, 0, d)
  | .running => (stBusy, 0, d)
  | .aborting => (stBusy, 0, d)
  | _ => if h > 63 then (stBadParam, 0, d) else if runWaits d h then (stBusy, 0, d) else (stOk, 0, modGraph h (fun _ => {}) d)

/-- GRAPH_UNLOAD. -/
def execGraphUnload (ring : Nat) (pkt : Packet) (s : State) : Out :=
  onDev s (fun p => takePacket ring pkt (pkOpcode pkt == 0x13) (fun id d => finish p.now id (graphUnloadBody pkt d)) p)

end Sys2Proof.Machine
end

