-- ==== Sys2Proof/Machine/Slotted.lean ====
section
/-! DEFINITION. Near-tier DMA of tiles (08 R200 to R202) and its slots in Still mode (11 R263 to R266). -/

namespace Sys2Proof.Machine

/-- Latency of the route between two Reach dies (R11, Table 1.2). -/
def routeLatency (a b : Nat) : Nat :=
  if a = b then 0 else if a / 4 ≠ b / 4 then 18 else if (a + 2) % 4 = b % 4 then 12 else 6

/-- Slots a run costs (R264): a read granule in the staging buffer costs none. -/
def runSlots (c : Chan) (dir : Nat) (r : Run2K) : Nat :=
  let gs := upFrom (r.off / 256) ((r.off + r.len + 255) / 256 - r.off / 256)
  match dir with
  | 0 =>
    let m := (gs.filter (fun g => (lineOf true g c).isNone)).length
    if m = 0 then 0 else m + 2
  | 1 => if r.off % 64 = 0 ∧ r.len % 64 = 0 then gs.length + 2 else 2 * gs.length + 2
  | _ => 2 * gs.length + 2

/-- The k earliest free slots from slot n on, on fuel; slot n of a segment is slot n mod 24 of window n / 24. -/
def takeSlots (free : Nat → Bool) : Nat → Nat → Nat → List Nat
  | 0, _, _ => []
  | f + 1, n, k => if k = 0 then [] else if free n then n :: takeSlots free f (n + 1) (k - 1) else takeSlots free f (n + 1) k

/-- What the ENGINE, MOVE and COLL tasks of the present segment reserve (R265). -/
def reservers (d : Dev) (r : Run) : List (Nat × Nat × List (Nat × Nat) × Nat) :=
  let g := graphAt d r.handle
  (List.range g.tasks.length).filterMap (fun u => if segmentOf g u = r.segment then reserver d g u else none)

/-- A timed slot of a channel that neither a reservation nor a tile DMA has (R263, R265, R266). -/
def slotIsFree (d : Dev) (l : List (Nat × Nat × List (Nat × Nat) × Nat)) (used : Table (List Nat)) (ch n : Nat) : Bool :=
  let w := n / 24
  w % 32 != 0 && n % 24 != 23 &&
    decide ((l.filter (fun x => inWindow x w)).foldl (fun a x => a + slotsOn d x ch) 0 ≤ n % 24) && !(tget [] used ch).contains n

/-- The completion of one run, in segment cycles, the MCLK cycle after its last slot, and the slots it takes (R266). -/
def placeRun (d : Dev) (l : List (Nat × Nat × List (Nat × Nat) × Nat)) (used : Table (List Nat)) (die dir issue : Nat)
    (r : Run2K) : Nat × Nat × List Nat :=
  let a := 8 + routeLatency die (dieOfChan r.chan)
  let arrival := cdiv (3 * (issue + a)) 2
  let k := runSlots (chanAt d r.chan) dir r
  let s := takeSlots (slotIsFree d l used r.chan) (2 ^ 24) (cdiv arrival 4) k
  let e := if k = 0 then arrival + 4 else 4 * (s.getLastD 0 + 1)
  (cdiv (2 * e) 3 + a + (if dir = 0 then 4 else 0), e, s)

/-- Place the runs of a tile's transfer in ascending channel, then offset: the slots taken are the run's, the staging lines are used,
and the latest completion is the transfer's (R266). -/
def placeXfer (k : Nat) (x : Xfer) (r : Run) (d : Dev) : Dev :=
  let c := x.issue - r.cycle0 - r.slipPause - r.segStart
  let l := reservers d r
  let y := (((runsOf d x.near x.len).getD []).mergeSort (fun a b => decide (a.chan < b.chan) || (a.chan == b.chan && decide (a.off ≤ b.off)))).foldl
    (fun (acc : Nat × Dev) q =>
      let used := match runOf acc.2 r.handle with | some y => y.slots | none => []
      let y := placeRun acc.2 l used (dieOfPhys k) x.dir c q
      let req : ChanReq := { who := .tile k x.id, off := q.addr - x.near, addr := q.addr, choff := q.off, len := q.len, arrival := 0, port := 0,
                             run := some r.handle, seq := 0 }
      (max acc.1 (x.issue + (y.1 - c)),
        touchRun true true (x.dir == 0) x.hint q
          (modRun r.handle (fun u => { u with slots := tmod [] u.slots q.chan (· ++ y.2.2), placed := u.placed ++ [⟨y.2.1, q.chan, req⟩] }) acc.2)))
    (0, d)
  modTile k (fun t => { t with dma := t.dma.map (fun z => if z.id = x.id then { z with due := y.1, placed := true } else z) }) y.2

/-- The transfers of a Still-mode run that have no slots yet: issue, logical tile number, word index, physical number, transfer. -/
def unplaced (d : Dev) (h : Nat) : List (Nat × Nat × Nat × Nat × Xfer) :=
  d.tiles.flatMap (fun e =>
    if e.2.handle != h || e.2.phase == .idle then []
    else (e.2.dma.filter (fun x => x.dir != 3 && !x.placed)).map (fun x => (x.issue, e.2.number, x.word, e.1, x)))

/-- Placement order: ascending issue cycle, then logical tile number, then word index of the DMA (R266). -/
def placedBefore (a b : Nat × Nat × Nat × Nat × Xfer) : Bool :=
  decide (a.1 < b.1) || (a.1 == b.1 && (decide (a.2.1 < b.2.1) || (a.2.1 == b.2.1 && decide (a.2.2.1 ≤ b.2.2.1))))

/-- Serve the placed runs whose slots are over, in slot order (R257, R266). -/
def servePlaced (p : Plat) (r : Run) (d : Dev) : Dev :=
  let c := runCycle p r - r.segStart
  let due := r.placed.filter (fun x => decide (cdiv (2 * x.fin) 3 ≤ c))
  (due.mergeSort (fun a b => decide (a.fin ≤ b.fin))).foldl (fun d x =>
    match x.req.who with | .tile k n => serveTile p k n x.chan x.req true false d | _ => d)
    (modRun r.handle (fun u => { u with placed := u.placed.filter (fun x => !due.contains x) }) d)

/-- What a cycle brings to the timed transfers of the Still-mode run in progress: those issued in the cycle before are placed, then the
runs whose slots are over are served (R266). (DEDUCED: LOG 104.) -/
def slotTick (p : Plat) (d : Dev) : Dev :=
  match d.runs.find? (fun r => r.started && (graphAt d r.handle).still && r.pausedAt.isNone) with
  | none => d
  | some r =>
    let d1 := ((unplaced d r.handle).mergeSort placedBefore).foldl (fun d x => placeXfer x.2.2.2.1 x.2.2.2.2 r d) d
    match runOf d1 r.handle with | some r1 => servePlaced p r1 d1 | none => d1

/-- Issue a LOAD, STORE or RED: an address of no valid region stops the tile (R254); in Flow mode its runs queue at their channels, in
Still mode they get their slots when the cycle ends. -/
def issueNear (p : Plat) (k : Nat) (ws : List W64) (d : Dev) : Dev :=
  let t := tileAt d k
  let x := xferOf t ws
  match runsOf d x.near x.len with
  | none => modTile k (Tile.stop .badParam p.cyc) d
  | some runs =>
    let y := { x with left := runs.length, issue := p.cyc, word := t.pc }
    let d1 := modTile k (holdXfer y (natLe 8 y.near)) d
    if (graphAt d t.handle).still then d1 else enqueueXfer p k t.handle y runs d1

/-- DMA LOAD. -/
def execDmaLoad (tile : Nat) (s : State) : Out := onDev s (issueDev tile (isDma 0) dmaClear issueNear)

/-- DMA STORE. -/
def execDmaStore (tile : Nat) (s : State) : Out :=
  onDev s (issueDev tile (isDma 1) dmaClear (fun p k ws d => issueNear p k ws d))

/-- DMA RED. -/
def execDmaRed (tile : Nat) (s : State) : Out :=
  onDev s (issueDev tile (isDma 2) dmaClear (fun p k ws d => issueNear p k ws d))

end Sys2Proof.Machine
end

