-- ==== Sys2Proof/Machine/Banks.lean ====
section
/-! DEFINITION. The banks of tile SRAM (08 R191 to R193): who asks for which word in a cycle, the order of R192, what feeders read,
array halts; and what else a cycle of an idle queue brings by itself (04 R98, 09 R226, 13 R341, R352). -/

namespace Sys2Proof.Machine

/-! ### Requests and their order (R191, R192) -/

/-- A request of one cycle: the requester's place in the order of R192 (0 conversion unit, 1 to 8 the feeder streams, 9 bias, 10 QOP,
11 ROW, 12 SFU, 13 VEC, 14 LUT, 15 DMA, 16 the neighbour port), the 8-byte word, the tile that asks, and what of it asks: feeder
stream 4 * array + stream, or 8 + the number of its job. -/
structure BankReq where
  rank : Nat
  word : Nat
  src : Nat
  what : Nat
deriving DecidableEq, Repr

/-- Bank of a word: byte address div 8, mod 32 (R191). -/
def bankOf (word : Nat) : Nat := word % 32

/-- The number under which a tile counts the refusals of a requester by a bank. -/
def ageKey (r : BankReq) : Nat := r.rank * 32 + bankOf r.word

/-- The order in which the banks look at the requests of a cycle: the conversion unit, then requesters refused 16 cycles on end, then
the others, each by their place (R192). -/
def bankOrder (age : Table Nat) (l : List BankReq) : List BankReq :=
  let s := l.mergeSort (fun a b => decide (a.rank ≤ b.rank))
  let aged (r : BankReq) : Bool := decide (16 ≤ tget 0 age (ageKey r))
  s.filter (fun r => r.rank == 0) ++ s.filter (fun r => r.rank != 0 && aged r) ++ s.filter (fun r => r.rank != 0 && !aged r)

/-- The requests that the banks of a tile serve: one access a bank (R191), and 32 bytes through the neighbour port (R202). -/
def bankServe (age : Table Nat) (l : List BankReq) : List BankReq :=
  ((bankOrder age l).foldl (fun (a : List BankReq × List Nat × Nat) r =>
    if a.2.1.contains (bankOf r.word) || (r.rank == 16 && decide (4 ≤ a.2.2)) then a
    else (a.1 ++ [r], bankOf r.word :: a.2.1, if r.rank = 16 then a.2.2 + 1 else a.2.2)) ([], [], 0)).1

/-- The refusals after a cycle: one more for a requester that a bank served nothing (R192). -/
def bankAges (age : Table Nat) (asked served : List BankReq) : Table Nat :=
  asked.foldl (fun m r =>
    if served.any (fun s => ageKey s == ageKey r) || m.any (fun e => e.1 == ageKey r) then m
    else tset 0 m (ageKey r) (tget 0 age (ageKey r) + 1)) []

/-! ### What a tile asks for in a cycle -/

/-- The first pass of an array whose feeders read a group in a cycle: group g in cycle issue + 1 + g * p (R91, R193). -/
def readingPass (cyc : Nat) (n : Ncw) (l : List Pass) : Option Pass :=
  l.find? (fun q => decide (q.read < q.groups n) && decide (q.issue + 1 + q.read * n.period ≤ cyc))

/-- The requests of a tile's feeders, each with the tile whose SRAM it goes to. -/
def feederReqs (cyc k : Nat) (d : Dev) (t : Tile) : List (Nat × BankReq) :=
  [0, 1].flatMap (fun arr =>
    match readingPass cyc t.n (t.passes arr) with
    | none => []
    | some q => (feedNeeds t.n q q.read).flatMap (fun e =>
        match streamOwner d k t e.2.1 with
        | none => []
        | some o => e.2.2.map (fun w => (o, { rank := if o = k then 1 + 4 * arr + e.1 else 16, word := w, src := k, what := 4 * arr + e.1 }))))

/-- The words a job asks for in a cycle. -/
def Job.words (cyc : Nat) (j : Job) : List Nat := ((j.todo.filter (fun b => decide (b.1 ≤ cyc))).flatMap (·.2)).eraseDups

/-- Every request of a tile in a cycle, each with the tile whose SRAM it goes to. -/
def tileReqs (cyc k : Nat) (d : Dev) (t : Tile) : List (Nat × BankReq) :=
  if !tileRuns d t then []
  else
    (convWords cyc (graphAt d t.handle).still t).map (fun w => (k, ⟨0, w, k, 0⟩)) ++ feederReqs cyc k d t ++
      (t.jobs.zip (List.range t.jobs.length)).flatMap (fun e =>
        (e.1.words cyc).map (fun w => (e.1.owner.getD k, { rank := e.1.rank, word := w, src := k, what := 8 + e.2 })))

/-! ### What a cycle brings -/

/-- Words that a feeder stream was served: their bytes are held. -/
def takeWords (mem : Mem) (stream : Nat) (ws : List Nat) (q : Pass) : Pass :=
  { q with got := tmod {} q.got stream (fun h =>
      { h with words := h.words ++ ws, mem := ws.foldl (fun m w => (List.range 8).foldl (fun m i =>
          writeByte m (8 * w + i) (readByte mem (8 * w + i))) m) h.mem }) }

/-- The feeders of an array after a cycle in which the banks served some requests: what was served is held; with every word of the
group there, the group has been read, else the array halts (R193). -/
def feedArray (cyc k arr : Nat) (served : List (Nat × BankReq)) (d : Dev) (t : Tile) : Tile :=
  let n := t.n
  match readingPass cyc n (t.passes arr) with
  | none => t
  | some q =>
    let mine := served.filter (fun e => e.2.src == k && e.2.what / 4 == arr && decide (e.2.what < 8))
    let q1 := [0, 1, 2, 3].foldl (fun q st =>
      [0, 1, 2, 3, 4].foldl (fun q src =>
        match streamOwner d k t src with
        | none => q
        | some o =>
          let ws := (mine.filter (fun e => e.1 == o && e.2.what % 4 == st &&
            (feedNeeds n q q.read).any (fun x => x.1 == st && x.2.1 == src))).map (·.2.word)
          if ws.isEmpty then q else takeWords (tileAt d o).sram st ws q) q) q
    if mine.any (fun e => (tileAt d e.1).sram2.contains e.2.word) then t.stop .uncorrectable cyc
    else
      let done := (feedNeeds n q1 q1.read).isEmpty
      let q2 := if done then { q1 with read := q1.read + 1 } else q1
      let t1 := t.setPasses arr ((t.passes arr).map (fun y => if y.issue = q.issue then q2 else y))
      if done then t1 else haltCycle cyc arr t1

/-- A unit's instruction that the banks refused goes on a cycle later (R192). (DEDUCED: LOG 101.) -/
def delayUnit (cyc : Nat) (j : Job) (t : Tile) : Tile :=
  let t1 := { t with flights := t.flights.map (fun f => if f.unit = j.unit && decide (cyc ≤ f.last) then { f with last := f.last + 1 } else f),
                     unitFree := if j.unit < 4 ∧ cyc < tget 0 t.unitFree j.unit then tmod 0 t.unitFree j.unit (· + 1) else t.unitFree,
                     dma := t.dma.map (fun x => if j.unit = 9 && x.id == j.xfer && x.dir == 3 then { x with due := x.due + 1 } else x) }
  if j.unit = 10 then
    let late (l : Lut) : Lut := if l.st = .loading then { l with since := l.since + 1 } else l
    { t1 with lutA := late t1.lutA, lutB := late t1.lutB }
  else t1

/-- The jobs of a tile after a cycle: a word that was served is asked for no more; a job that was refused a word asks for it again in
the next cycle, and for all that follows a cycle later. -/
def serveJobs (cyc k : Nat) (served : List (Nat × BankReq)) (t : Tile) : Tile :=
  (t.jobs.zip (List.range t.jobs.length)).foldl (fun t e =>
    let got := (served.filter (fun s => s.2.src == k && s.2.what == 8 + e.2)).map (·.2.word)
    let now := (e.1.words cyc).filter (fun w => !got.contains w)
    let later := e.1.todo.filter (fun b => decide (cyc < b.1))
    if now.isEmpty then
      if later.isEmpty then t else { t with jobs := t.jobs ++ [{ e.1 with todo := later }] }
    else
      delayUnit cyc e.1 { t with jobs := t.jobs ++ [{ e.1 with todo := (cyc + 1, now) :: later.map (fun b => (b.1 + 1, b.2)) }] })
    { t with jobs := [] }

/-- A cell gives the slot of a pass its starting value in the cycle before it begins group 0, where no earlier pass is still to add there
(R182). -/
def initCells (cyc arr : Nat) (t : Tile) : Tile :=
  (List.range (t.passes arr).length).foldl (fun t ix =>
    match (t.passes arr)[ix]? with
    | none => t
    | some q =>
      if !q.init then t
      else (List.range 64).foldl (fun t c =>
        if decide (q.issue + 1 + c / 8 + c % 8 ≤ cyc) &&
            ((t.passes arr).take ix).all (fun u => tget 0 u.done c == u.groups t.n) then initAt arr (c / 8) (c % 8) ix t else t) t) t

/-- A run of halt cycles of an array that does not go on in this cycle ends: a HALT record once it lasted 16 cycles (R352). -/
def endHalts (cyc k arr : Nat) (d : Dev) : Dev :=
  let t := tileAt d k
  let h := t.haltRun.getD arr (0, 0)
  if h.1 = 0 || h.2 == cyc then d
  else
    modTile k (fun t => { t with haltRun := t.haltRun.set arr (0, 0) })
      (if h.1 ≥ 16 then traceRec cyc 3 0x05 1 (dieOfPhys k) (t.number + min h.1 (2 ^ 15 - 1) * 2 ^ 17) d else d)

/-- A cycle brings something to a tile by itself. -/
def Tile.stirs (t : Tile) : Bool :=
  t.phase == .running || !t.passA.isEmpty || !t.passB.isEmpty || !t.drains.isEmpty || !t.jobs.isEmpty || !t.bankAge.isEmpty ||
    t.haltRun.any (fun h => h.1 != 0) || t.corrected != t.traced

/-- The tiles to which a cycle brings something. -/
def stirring (d : Dev) : List Nat := (d.tiles.filter (fun e => e.2.stirs)).map (·.1)

/-- The banks of every tile in a cycle: requests, service, and what feeders and units make of it (R191 to R193). What is read is what
stood before the cycle. -/
def bankCycle (cyc : Nat) (d : Dev) : Dev :=
  let ks := stirring d
  let reqs := ks.flatMap (fun k => tileReqs cyc k d (tileAt d k))
  let owners := (reqs.map (·.1)).eraseDups
  let asked (o : Nat) : List BankReq := (reqs.filter (fun e => e.1 == o)).map (·.2)
  let served := owners.flatMap (fun o => (bankServe (tileAt d o).bankAge (asked o)).map (fun r => (o, r)))
  let d1 := ks.foldl (fun e k =>
    if !tileRuns d (tileAt d k) then e
    else modTile k (fun t => initCells cyc 1 (initCells cyc 0 (serveJobs cyc k served
      (feedArray cyc k 1 served d (feedArray cyc k 0 served d t))))) e) d
  let d2 := (ks ++ owners).eraseDups.foldl (fun e o =>
    let s := (served.filter (fun x => x.1 == o)).map (·.2)
    let n := ((s.filter (fun r => r.what < 8 && r.rank != 0)).map (·.word)).filter (tileAt d o).sram1.contains
    modTile o (fun t => { t with bankAge := bankAges (tileAt d o).bankAge (asked o) s, corrected := satAdd 64 t.corrected n.length }) e) d1
  ks.foldl (fun e k => endHalts cyc k 1 (endHalts cyc k 0 e)) d2

/-- The sequencer of a tile held issue in a cycle (R341). -/
def heldIssue (cyc : Nat) (d : Dev) (t : Tile) : Bool :=
  t.phase == .running && tileRuns d t && decide (t.first ≤ cyc) && t.lastIssue != some cyc

/-- A cycle ends: sequencers that held issue count WAIT (R341), and corrected errors of tile memory that it brought are traced (R352). -/
def cycleEnds (cyc : Nat) (d : Dev) : Dev :=
  (stirring d).foldl (fun e k =>
    let t := tileAt e k
    let n := (t.corrected - t.traced).toNat
    let e1 := (List.range n).foldl (fun e _ => traceRec cyc 4 0x06 1 (dieOfPhys k) (0x3FF + t.number * 2 ^ 10) e) e
    modTile k (fun t => { (if heldIssue cyc e t then t.count 6 1 else t) with traced := t.corrected }) e1) d

/-- What one cycle's end and the next one's beginning bring by themselves, `p` being the platform in the new cycle: the sequencers'
waits of the old cycle (R341), the stop of aborted tasks (R226), the timed transfers (R266), the banks of the new cycle (R191 to R193).
(DESIGN CHOICE: LOG 119.) -/
def devTick (cyc : Nat) (p : Plat) (d : Dev) : Dev := bankCycle p.cyc (slotTick p (abortsLand p (cycleEnds cyc d)))

/-- One ACLK cycle of an idle queue (LOG 4); nothing passes while the domain clocks stand. -/
def tick (s : State) : State :=
  if s.plat.clk.running && s.plat.sup.phase = .up then
    let p : Plat := { s.plat with clk := s.plat.clk.tick }
    { s with plat := p, dev := devTick s.plat.cyc p s.dev }
  else s

end Sys2Proof.Machine
end

