-- ==== Sys2Proof/Machine/Accesses.lean ====
section
/-! DEFINITION. The accesses of the host through the aperture and of partners (11 R260, 12 R307, 15 R403): requests at the channels,
served run by run, answered when the last run is served. -/

namespace Sys2Proof.Machine

/-- The last run of an access has been served: the host and a partner that still waits get their answers; zero data with EP set where the
host read a poisoned beat, no data and POISONED where a partner met one (R307, R403). -/
def endAccess (now : Nat) (a : NearAcc) (d : Dev) : Dev :=
  let data := a.got.flatMap (·.2)
  match a.who, a.kind with
  | .host _, .read =>
    if a.bad.isEmpty then hostOut (.read data) d
    else hostOut (.poisoned a.len) (onHost (fun h => { h with aerPoison := h.aerPoison + 1 }) d)
  | .partner p _, k =>
    match a.txn with
    | none => d
    | some t =>
      if k = .read then respond p now t 0x10 (if a.bad.isEmpty then 0 else 2) (if a.bad.isEmpty then data else []) d
      else respond p now t 0x11 (if a.bad.isEmpty then 0 else 2) [] d
  | _, _ => d

/-- Begin an access to a range of valid regions: its runs go to the channels in a class at port 3 (Table 11.6); an access of no bytes is
over. -/
def openAccess (p : Plat) (cls : Nat) (who : Nat → ReqBy) (kind : AccKind) (a len : Nat) (data : List Byte) (txn : Option Txn) (d : Dev) :
    Dev :=
  let l := (runsOf d a len).getD []
  let x : NearAcc := { who := who d.near.accSeq, kind := kind, addr := a, len := len, data := data, left := l.length, txn := txn }
  if l.isEmpty then endAccess p.now x d
  else submit p cls (fun _ => 3) x.who none a l (onNear (fun n => { n with accs := n.accs ++ [x] }) d)

/-- Serve one run of an access, then answer if it was the last. -/
def serveAccess (p : Plat) (g : Nat) (r : ChanReq) (d : Dev) : Dev :=
  match d.near.accs.find? (fun a => a.who == r.who) with
  | none => d
  | some a =>
    let source := match a.who with | .host _ => 3 | _ => 6
    let q := r.piece g
    let part := (a.data.drop r.off).take r.len
    let y : NearAcc × Dev := match a.kind with
      | .read => ({ a with got := tins a.got r.off (runBytes d q), bad := a.bad ++ badOf d q }, readRun p source 0 false q d)
      | .write => (a, writeRunAll p.cyc 0 false q part d)
      | .reduce rt => let z := reduceRun p source 0 rt false none q part d; ({ a with bad := a.bad ++ z.2.bad }, z.1)
    let b : NearAcc := { y.1 with left := a.left - 1 }
    if a.left ≤ 1 then endAccess p.now b (onNear (fun n => { n with accs := n.accs.filter (fun x => x.who != a.who) }) y.2)
    else onNear (fun n => { n with accs := n.accs.map (fun x => if x.who == a.who then b else x) }) y.2

end Sys2Proof.Machine
end

