-- ==== Sys2Proof/Machine/LockStep.lean ====
section
/-! DEFINITION. Lock-step (13 R346 to R350): pairing, the start of a run, entries compared, the freeze, the end. -/

namespace Sys2Proof.Machine

/-- Change the lock-step pairing. -/
def onLs (f : Ls → Ls) (d : Dev) : Dev := { d with obs := { d.obs with ls := f d.obs.ls } }

/-- One second in ELAPSED ticks. -/
def oneSecond : Nat := 100000000

/-- The port is ATTACHED with ROLE = 1 to a PEER (R346). -/
def lockPort (d : Dev) (p : Nat) : Bool :=
  let x := portAt d p
  x.state == .attached && x.role == 1 && x.profile == 1

/-- The pairing ends. -/
def unpair (d : Dev) : Dev := onLs (fun _ => {}) d

/-! ### LOCKSTEP_PAIR -/

/-- The payload of LS_PAIR (Table 13.6). -/
def pairPayload (d : Dev) : List Byte := natLe 8 d.fw.nid.toNat ++ rowBytes d.geom

/-- Both LS_PAIRs are there: the pairing is made, or refused (R346). -/
def decidePair (now : Nat) (nid : W64) (rows : List Byte) (d : Dev) : Dev :=
  let l := d.obs.ls
  if nid ≠ d.fw.nid then completeOpt now l.pkt stNid 0 (unpair d)
  else if rows ≠ rowBytes d.geom then completeOpt now l.pkt stGeometry 0 (unpair d)
  else completeOpt now l.pkt stOk 0 (onLs (fun l => { l with state := .paired, runSeq := 0, pkt := none, got := none }) d)

/-- The digest area lies in a valid near-tier region. -/
def areaOk (d : Dev) (base size : Nat) : Bool :=
  size % 8 == 0 &&
    match regionOf d base with
    | none => false
    | some r => decide (base + size ≤ r.base + r.size)

/-- LOCKSTEP_PAIR that names a port (R346). A second one while the first still waits is refused as BUSY (LOG 14). -/
def lockPairBody (now id : Nat) (pkt : Packet) (d : Dev) : Dev :=
  let p := par pkt 0 1
  let base := par pkt 8 8
  let size := par pkt 0x10 8
  if p > 47 then complete now id stBadParam 0 d
  else if anyRun d || d.obs.ls.state == .pairing then complete now id stBusy 0 d
  else if !lockPort d p || !areaOk d base size then complete now id stBadParam 0 d
  else
    let got := d.obs.ls.got
    let d1 := sendTxn p now (mgmtTxn 0x10 (pairPayload d))
      (onLs (fun l => { state := .pairing, port := p, dbase := base, dsize := size, pkt := some id, since := now, got := l.got }) d)
    match got with
    | some (q, nid, rows) => if q = p then decidePair now nid rows d1 else d1
    | none => d1

/-- LOCKSTEP_PAIR naming a port. -/
def execLockstepPair (ring : Nat) (pkt : Packet) (s : State) : Out :=
  onDev s (fun p => takePacket ring pkt (pkOpcode pkt == 0x50 && par pkt 0 1 != 0xFF)
    (fun id d => lockPairBody p.now id pkt d) p)

/-- LOCKSTEP_PAIR naming no port: the pairing is dissolved. -/
def execLockstepDissolve (ring : Nat) (pkt : Packet) (s : State) : Out :=
  onDev s (fun p => takePacket ring pkt (pkOpcode pkt == 0x50 && par pkt 0 1 == 0xFF)
    (fun id d => if anyRun d then complete p.now id stBusy 0 d
      else complete p.now id stOk 0 (unpair (completeOpt p.now d.obs.ls.pkt stPartner 0 d))) p)

/-- LS_PAIR from a partner; it waits for our own LOCKSTEP_PAIR. -/
def execLsPair (p : Nat) (s : State) : Out :=
  onDev s (onReq p (fun t => mgmtSub t == 0x10) (fun pl t d =>
    let nid : W64 := BitVec.ofNat 64 (leNat (t.payload.take 8))
    let rows := (t.payload.drop 8).take 16
    if !lockPort d p then d
    else if d.obs.ls.state == .pairing && d.obs.ls.port == p then decidePair pl.now nid rows d
    else onLs (fun l => { l with got := some (p, nid, rows) }) d))

/-- LS_PAIR_TIMEOUT (R346): 1 s without the partner's LS_PAIR. -/
def execLsPairTimeout (s : State) : Out :=
  onDev s (fun p d =>
    let l := d.obs.ls
    if p.alive && l.state == .pairing && decide (l.since + oneSecond ≤ p.now) then
      completeOpt p.now l.pkt stPartner 0 (unpair d)
    else d)

/-! ### The start of a run (R347) -/

/-- The conditions of R347 on a graph while the part is paired. -/
def lockGraphOk (d : Dev) (g : Graph) : Bool :=
  let last := descOf g (g.tasks.length - 1)
  g.still && dKind last == 5 && dSub last == 2 && decide (8 * tileCount g.tasks ≤ d.obs.ls.dsize)

/-- The part is paired: its runs go in lock-step. -/
def isPaired (d : Dev) : Bool := d.obs.ls.state == .paired || d.obs.ls.state == .frozen

/-- A waiting run ends without starting (R466): its packet completes, its ring goes on; a restore's replay has failed. -/
def failStart (now : Nat) (r : Run) (st detail : Nat) (d : Dev) : Dev :=
  let d1 := { d with runs := d.runs.filter (fun x => !(x == r)) }
  if r.pkt.isSome then completeOpt now r.pkt st detail (modRing r.ring (fun x => { x with blocked := false }) d1)
  else onRestore (fun x => { x with replayed := some (st, detail) }) d1

/-- The waiting run that has sent LS_START. -/
def startingRun (d : Dev) : Option Run := d.runs.find? (fun r => !r.started && r.lsStart)

/-- The partner's LS_START agrees with ours. -/
def startAgrees (d : Dev) (r : Run) (got : Nat × Nat) : Bool :=
  got.1 == (graphAt d r.handle).imageCrc.toNat && got.2 == d.obs.ls.runSeq.toNat

/-- LS_START from the partner; unequal values end the GRAPH_RUN with BAD_PARAM. -/
def execLsStart (p : Nat) (s : State) : Out :=
  onDev s (onReq p (fun t => mgmtSub t == 0x11) (fun pl t d =>
    if !(isPaired d && d.obs.ls.port == p) then d
    else
      let got := (leNat (t.payload.take 8), leNat ((t.payload.drop 8).take 4))
      match startingRun d with
      | none => onLs (fun l => { l with gotStart := some got }) d
      | some r =>
        if startAgrees d r got then onLs (fun l => { l with gotStart := some got }) d
        else failStart pl.now r stBadParam 0 d))

/-- LS_START_TIMEOUT (R347). -/
def execLsStartTimeout (h : Nat) (s : State) : Out :=
  onDev s (fun p d =>
    match startingRun d with
    | none => d
    | some r =>
      if p.alive && r.handle == h && d.obs.ls.gotStart.isNone && decide (r.lsSince + oneSecond ≤ p.now) then
        failStart p.now r stPartner 0 d
      else d)

/-! ### Comparison and freeze (R348, R350) -/

/-- The lock-step run in progress. -/
def lockRun (d : Dev) : Option Run := d.runs.find? (fun r => r.started && r.lock.isSome)

/-- The first MARK LOCKSTEP whose index is above t takes LOCKSTEP_DIVERGE, with t in DETAIL (R350 step 1). -/
def takeDiverge (p : Plat) (h t : Nat) (d : Dev) : Dev :=
  match runOf d h with
  | none => d
  | some r =>
    let g := graphAt d h
    match (List.range g.tasks.length).find? (fun u => decide (t < u) && dKind (descOf g u) == 5 && dSub (descOf g u) == 2) with
    | none => d
    | some u => modTask h u (fun x =>
        { x with s := if x.st == .waiting then runCycle p r else x.s, e := if x.st == .ended then x.e else runCycle p r,
                 st := .ended, status := stDiverge, detail := t }) d

/-- Freeze the run (R350 steps 1 to 3): t is the task of the mismatch, or none for a run ended by a fatal status. -/
def freezeRun (p : Plat) (h : Nat) (t : Option Nat) (d : Dev) : Dev :=
  match lockRun d with
  | none => d
  | some r =>
    if (r.lock.map (·.frozen)).getD true then d
    else
      let d1 := onLs (fun l => { l with state := .frozen })
        (modLock h (fun l => { l with frozen := true, freezeSent := true }) (modRun h (fun r => { r with stopped := true }) d))
      let d2 := match t with | none => d1 | some u => takeDiverge p h u d1
      sendTxn d.obs.ls.port p.now (mgmtTxn 0x14 (natLe 4 (t.getD 0xFFFFFFFF))) d2

/-- Cut a list into parts of at most n, on fuel. -/
def cutList {α : Type} : Nat → Nat → List α → List (List α)
  | 0, _, _ => []
  | f + 1, n, l => if l.isEmpty then [] else l.take n :: cutList f n (l.drop n)

/-- Send a task's tile digests (R350 step 5). (DEDUCED: LOG 40.) -/
def sendTiles (now h t : Nat) (r : Run) (d : Dev) : Dev :=
  let digs := (taskAt r t).tileDig.map (·.2)
  let parts := cutList (digs.length / 511 + 1) 511 digs
  parts.zipIdx.foldl (fun d x => sendTxn d.obs.ls.port now
      (mgmtTxn 0x13 (natLe 4 t ++ natLe 4 (511 * x.2) ++ x.1.flatMap (fun v => natLe 8 v.toNat))) d)
    (modLock h (fun l => { l with tilesSent := l.tilesSent ++ [t] }) d)

/-- The divergent task: the mismatch with the lowest S, then the lower index (R350 step 4). -/
def worse (r : Run) (old : Option Nat) (t : Nat) : Nat :=
  match old with
  | none => t
  | some u =>
    let a := (taskAt r t).s
    let b := (taskAt r u).s
    if a < b ∨ (a = b ∧ t < u) then t else u

/-- A mismatch on task t. -/
def noteMismatch (p : Plat) (h t : Nat) (d : Dev) : Dev :=
  match runOf d h with
  | none => d
  | some r =>
    match r.lock with
    | none => d
    | some l =>
      let m := worse r l.mismatch t
      let d1 := traceSluice p (descOf (graphAt d h) t) 6 0x09 t (modLock h (fun l => { l with mismatch := some m }) d)
      let d2 := freezeRun p h (some t) d1
      if m = t ∧ dKind (descOf (graphAt d h) t) = 1 ∧ !l.tilesSent.contains t then sendTiles p.now h t r d2 else d2

/-- An entry of a mark that ended with LOCKSTEP_DIVERGE is no completion to compare (R350 steps 1 and 4). -/
def divergeEntry (r : Run) (e : Nat × Nat × Nat) : Bool := (taskAt r e.1).status == stDiverge || e.2.1 == stDiverge

/-- Compare every partner entry whose own task has completed (R348). -/
def compareAll (p : Plat) (h : Nat) (d : Dev) : Dev :=
  match runOf d h with
  | none => d
  | some r =>
    match r.lock with
    | none => d
    | some l =>
      l.partner.foldl (fun d e =>
        if l.compared.contains e.1 || (taskAt r e.1).st != .ended then d
        else
          let d1 := modLock h (fun l => { l with compared := l.compared ++ [e.1] }) d
          if divergeEntry r e || decide ((taskAt r e.1).status = e.2.1 ∧ (taskAt r e.1).digest.toNat = e.2.2) then d1 else noteMismatch p h e.1 d1) d

/-- A lock-step MGMT transaction of a subtype from the partner, for the run in lock-step. -/
def lockStepMsg (p sub : Nat) (f : Plat → Txn → Run → Dev → Dev) (s : State) : Out :=
  onDev s (onReq p (fun t => mgmtSub t == sub) (fun pl t d =>
    match lockRun d with
    | none => d
    | some r =>
      if d.obs.ls.port == p then f pl t r (modLock r.handle (fun l => { l with heard := pl.now }) d) else d))

/-- The entries of an LS_DIGEST. -/
def entriesOf (l : List Byte) : List (Nat × Nat × Nat) :=
  (List.range (l.length / 16)).map (fun i =>
    let b := (l.drop (16 * i)).take 16
    (leNat (b.take 4), leNat ((b.drop 4).take 2), leNat (b.drop 8)))

/-- LS_DIGEST: the partner's entries are compared. -/
def execLsDigest (p : Nat) (s : State) : Out :=
  lockStepMsg p 0x12 (fun pl t r d =>
    compareAll pl r.handle (modLock r.handle (fun l => { l with partner := l.partner ++ entriesOf t.payload }) d)) s

/-- LS_TILES: the partner's tile digests of a task. -/
def execLsTiles (p : Nat) (s : State) : Out :=
  lockStepMsg p 0x13 (fun _ t r d =>
    let b := t.payload
    let digs := (List.range ((b.length - 8) / 8)).map (fun i => leNat ((b.drop (8 + 8 * i)).take 8))
    modLock r.handle (fun l => { l with tiles := l.tiles ++ [(leNat (b.take 4), leNat ((b.drop 4).take 4), digs)] }) d) s

/-- LS_FREEZE: the part freezes too. -/
def execLsFreeze (p : Nat) (s : State) : Out :=
  lockStepMsg p 0x14 (fun pl t r d =>
    let v := leNat (t.payload.take 4)
    freezeRun pl r.handle (if v = 0xFFFFFFFF then none else some v)
      (modLock r.handle (fun l => { l with freezeGot := some v }) d)) s

/-- LS_END: the partner's run has ended, with the number of entries it sent. -/
def execLsEnd (p : Nat) (s : State) : Out :=
  lockStepMsg p 0x15 (fun _ t r d => modLock r.handle (fun l => { l with endGot := some (leNat (t.payload.take 4)) }) d) s

/-! ### Waiting for the partner (R349) -/

/-- Every task that has been dispatched so far in this or an earlier segment, t apart, has been compared, or the partner has
sent LS_FREEZE, or the wait was given up. -/
def lockClear (r : Run) (g : Graph) (t : Option Nat) : Bool :=
  match r.lock with
  | none => true
  | some l => l.lost || l.freezeGot.isSome ||
      (List.range g.tasks.length).all (fun u => some u == t || decide (r.segment < segmentOf g u) || l.compared.contains u)

/-- The partner is silent or lost: the waiting ingress point, or the last task, ends with PARTNER_LOST; the pairing is dissolved
(R349). -/
def lockLost (p : Plat) (h : Nat) (d : Dev) : Dev :=
  match runOf d h with
  | none => d
  | some r =>
    let g := graphAt d h
    let port := d.obs.ls.port
    let d1 := match (r.tasks.find? (fun e => e.2.st == .running && isIngress (descOf g e.1))) with
      | some e => endTask p h e.1 stPartner 0 0 d
      | none => modTask h (g.tasks.length - 1) (fun x => { x with status := stPartner, detail := 0 }) d
    postEvent p.now 0x0040 (natLe 1 port)
      (unpair (modLock h (fun l => { l with lost := true }) (modRun h (fun r => { r with stopped := true }) d1)))

/-- The run waits for its partner alone: no task runs but an ingress point whose predecessors have completed. (DEDUCED: LOG 39.) -/
def lockWaits (r : Run) (g : Graph) : Bool :=
  match r.lock with
  | none => false
  | some l => !l.lost &&
      match r.tasks.filter (fun e => e.2.st == .running) with
      | [] => r.stopped || (List.range g.tasks.length).all (fun u => (taskAt r u).st == .ended)
      | [e] => isIngress (descOf g e.1) && (preds g e.1).all (fun u => (taskAt r u).st == .ended) && !lockClear r g (some e.1)
      | _ => false

/-- LOCKSTEP_TIMEOUT (R349): 1 s of silence during the wait, or the lock-step link is lost. -/
def execLockstepTimeout (h : Nat) (s : State) : Out :=
  onDev s (fun p d =>
    match runOf d h with
    | none => d
    | some r =>
      if p.alive && lockWaits r (graphAt d h) &&
          (decide ((r.lock.map (·.heard)).getD p.now + oneSecond ≤ p.now) || !lockPort d d.obs.ls.port) then
        lockLost p h d
      else d)

/-! ### The end of a lock-step run (R350) -/

/-- The partner's digests of a task's tiles, by tile index. -/
def partnerTiles (l : Lock) (t : Nat) : Table Nat :=
  (l.tiles.filter (fun x => x.1 == t)).flatMap (fun x => x.2.2.zipIdx.map (fun y => (x.2.1 + y.2, y.1)))

/-- The lowest tile index whose digests differ. -/
def divergentTile (r : Run) (l : Lock) (t : Nat) : Option Nat :=
  let theirs := partnerTiles l t
  (((taskAt r t).tileDig.find? (fun e => tget 0 theirs e.1 != e.2.toNat))).map (·.1)

/-- The partner's part of a frozen run is complete: its LS_END, every entry it counts, and the tile digests of the divergent
task. -/
def freezeComplete (r : Run) (g : Graph) (l : Lock) : Bool :=
  match l.endGot with
  | none => false
  | some n => decide (n ≤ l.partner.length) &&
      match l.mismatch with
      | none => true
      | some t => dKind (descOf g t) != 1 || decide ((taskAt r t).tileDig.length ≤ (partnerTiles l t).length)

/-- Go as far as possible toward the end of a run in lock-step: entries sent, the freeze of a fatal status, LS_END; the answer says
whether the run may end. -/
def lockEnd (p : Plat) (h : Nat) (d : Dev) : Bool × Dev :=
  match runOf d h with
  | none => (true, d)
  | some r =>
    match r.lock with
    | none => (true, d)
    | some l =>
      if l.lost || r.aborted || r.powerFail then (true, d)
      else
        let d1 := compareAll p h (flushEntries p.now h d)
        let d2 := if r.stopped && !l.frozen then freezeRun p h none d1 else d1
        match runOf d2 h with
        | none => (true, d2)
        | some r2 =>
          match r2.lock with
          | none => (true, d2)
          | some l2 =>
            let g := graphAt d h
            if !l2.frozen then (lockClear r2 g none, d2)
            else
              let d3 := if l2.endSent then d2
                else sendTxn d.obs.ls.port p.now (mgmtTxn 0x15 (natLe 4 l2.sent)) (modLock h (fun l => { l with endSent := true }) d2)
              if !freezeComplete r2 g l2 then (false, d3)
              else
                let marked := r2.tasks.any (fun e => e.2.status == stDiverge)
                (true, match l2.mismatch with | some t => if marked then d3 else takeDiverge p h t d3 | none => d3)

/-- LS_TASK, LS_TILE, LS_LOCAL and LS_PARTNER of the run record (Table 13.4). -/
def lockReport (d : Dev) (r : Run) : Nat × Nat × Nat × Nat :=
  match r.lock with
  | none => (0xFFFFFFFF, 0xFFFFFFFF, 0, 0)
  | some l =>
    match l.mismatch with
    | none => (0xFFFFFFFF, 0xFFFFFFFF, 0, 0)
    | some t =>
      let desc := descOf (graphAt d r.handle) t
      let tile := if dKind desc = 1 then (match divergentTile r l t with | some i => (rectOf desc).num i | none => 0xFFFFFFFF) else 0xFFFFFFFF
      (t, tile, (taskAt r t).digest.toNat, ((l.partner.find? (fun e => e.1 == t)).map (·.2.2)).getD 0)

/-! ### MARK LOCKSTEP -/

/-- MARK LOCKSTEP (R347, R348): dispatched, and 32 cycles later it sends the pending entries of a paired run and ends; in a run that
is not paired it does nothing else. -/
def execMarkLockstep (h t : Nat) (s : State) : Out :=
  onDev s (fun p d =>
    let mine (desc : List W64) : Bool := dKind desc == 5 && dSub desc == 2
    match runOf d h with
    | none => d
    | some r =>
      if (taskAt r t).st == .running then
        onRunning h t mine (fun p r _ _ x d =>
          if runCycle p r < x.s + 32 then d else flushEntries p.now h (finishTask p h t stOk 0 0 d)) p d
      else dispatchIf h t mine (fun _ _ _ _ d => d) p d)

end Sys2Proof.Machine
end

