-- ==== Sys2Proof/Machine/Far.lean ====
section
/-! DEFINITION. The far tier (12 R303 to R306, R315 to R319): where a far address lies, how an access is cut, and the issue of link
requests within a port's limits. -/

namespace Sys2Proof.Machine

/-- The valid far region that holds a whole range (R317). -/
def farOf (d : Dev) (a n : Nat) : Option FarRegion :=
  (d.links.far.map (·.2)).find? (fun r => r.valid && decide (r.base ≤ a) && decide (a + n ≤ r.base + r.size))

/-- The ports of a far region, ascending. -/
def FarRegion.portList (r : FarRegion) : List Nat := bitsOf 48 r.ports.toNat

/-- Port and partner address of a far address (R316). -/
def FarRegion.locate (r : FarRegion) (a : Nat) : Nat × Nat :=
  let o := a - r.base
  let ps := r.portList
  (ps.getD (o / 2 ^ r.stripe % ps.length) 0, (r.pbase.toNat + o) % 2 ^ 64)

/-- An access cut at the 4 KiB boundaries of the far address (R317): address and length. -/
def farCuts (a n : Nat) : List (Nat × Nat) := cutRange 4096 a n

/-- The READs of a far range; each brings the bytes at its offset in the whole. -/
def farReads (r : FarRegion) (a n off : Nat) : List QReq :=
  (farCuts a n).map (fun c =>
    let l := r.locate c.1
    { port := l.1, off := off + (c.1 - a), len := c.2, far := c.1,
      txn := { ttype := 0x01, len := c.2, addr := BitVec.ofNat 64 l.2 } })

/-- The WRITEs or REDWRITEs of bytes to a far range. -/
def farWrites (r : FarRegion) (a : Nat) (data : List Byte) (red : Option Nat) : List QReq :=
  (farCuts a data.length).map (fun c =>
    let l := r.locate c.1
    let b := (data.drop (c.1 - a)).take c.2
    { port := l.1, off := c.1 - a, len := 0, far := c.1,
      txn := { ttype := if red.isSome then 0x03 else 0x02, rtype := red.getD 0, len := c.2, addr := BitVec.ofNat 64 l.2, payload := b } })

/-- Response credits the outstanding READs of a port hold (R301). -/
def heldCredits (x : Port) : Nat := x.pending.foldl (fun a q => if q.len = 0 then a else a + (16 + q.len + 15) / 16) 0

/-- A port can issue one more request: it is ATTACHED (R293), with fewer than 4,096 outstanding, and room for a READ's response (R301,
R304). -/
def canIssue (x : Port) (len : Nat) : Bool :=
  x.state == .attached && decide (x.pending.length < 4096) && (len == 0 || decide (heldCredits x + (16 + len + 15) / 16 ≤ 4096))

/-- Issue the waiting requests that their ports can take, each port's in order; what is left waits. -/
def issueAll (now : Nat) (who : Requester) : List QReq → List Nat → Dev → List QReq × Dev
  | [], _, d => ([], d)
  | q :: qs, stuck, d =>
    if stuck.contains q.port || !canIssue (portAt d q.port) q.len then
      let r := issueAll now who qs (q.port :: stuck) d
      (q :: r.1, r.2)
    else issueAll now who qs stuck (sendReq q.port now who q.off q.len q.far q.txn d)

/-- The link TDC counter counts a far REDWRITE, on the device and on its run (R319, R339). -/
def tdcLink (cyc h p : Nat) (d : Dev) : Dev :=
  traceRec cyc 2 0x04 4 (4 * (p / 4 / 3)) (2 + 2 * 16 + p * 256)
    (modRun h (fun r => { r with tdcLink := r.tdcLink + 1 }) { d with obs := { d.obs with tdcLink := satAdd 64 d.obs.tdcLink 1 } })

end Sys2Proof.Machine
end

