-- ==== Sys2Proof/Machine/Oxbow.lean ====
section
/-! DEFINITION. Oxbow's snapshots (14 R353 to R370): the interval, the snapshot port and buddy paths, the stages of a drain, MARK
SNAPSHOT and MARK CURSOR, power failure. -/

namespace Sys2Proof.Machine

/-! ### The cursor and the streams (R356, R238) -/

/-- A stream of the RNG table. -/
def streamAt (d : Dev) (s : Nat) : RngStream := tget {} d.rng s

/-- The cursor's STEP. -/
def cursorStep (o : Oxb) : W64 := tget 0#64 o.cursor 0

/-- ORIGIN(s) = RNG_STEP[s] - STEP for a stream with ADV = 1, else 0 (R356). -/
def originNow (d : Dev) (s : Nat) : W64 :=
  let x := streamAt d s
  if x.adv then x.step - cursorStep d.oxb else 0#64

/-- Recompute ORIGIN of one stream. -/
def setOrigin (s : Nat) (d : Dev) : Dev := onOxb (fun o => { o with origin := tset 0#64 o.origin s (originNow d s) }) d

/-- Recompute every ORIGIN. -/
def setOrigins (d : Dev) : Dev := d.rng.foldl (fun d e => setOrigin e.1 d) (onOxb (fun o => { o with origin := [] }) d)

/-! ### Paths (R359, R364, R367, R368) -/

/-- The snapshot ports of a policy's volume set: enabled, not failed, with a volume, in a quadrant in service (R360, R364). -/
def healthyOf (d : Dev) (q : Policy) : List Nat :=
  (List.range 4).filter (fun k =>
    q.snapPorts.testBit k && !d.oxb.failed.toNat.testBit k && d.oxb.vols.any (fun v => v.1 == k) &&
      d.geom.quadAvail.toNat.testBit k && !((quadAt d k).state == .drained))

/-- The volume set of the policy in force. -/
def healthyPorts (d : Dev) : List Nat := match d.oxb.policy with | none => [] | some q => healthyOf d q

/-- The buddy ports, when all of them are ATTACHED with ROLE = 0 to a PEER (R368). -/
def buddyPortsOk (d : Dev) (q : Policy) : Bool :=
  let ps := bitsOf 48 q.buddyPorts.toNat
  !ps.isEmpty && ps.all (fun p => (portAt d p).state == .attached && (portAt d p).role == 0 && (portAt d p).profile == 1)

/-- The path a policy leaves a drain: 0 volumes, 1 buddy, 2 none (R367). -/
def pathOf (d : Dev) (q : Policy) : Nat :=
  if (healthyOf d q).length ≥ max 1 q.minPorts then 0
  else if buddyPortsOk d q then 1
  else 2

/-- OXB_STAT.PATH. -/
def oxbPath (d : Dev) : Nat := match policyOn d.oxb with | none => 2 | some q => pathOf d q

/-- A drain is in progress: its snapshot has not committed, or its verify block is being written. -/
def draining (d : Dev) : Bool :=
  match d.oxb.snap with | none => false | some s => !s.committed || s.stage == 5

/-! ### The interval (R361, R362) -/

/-- An FP32 pattern, zero or positive and finite, as a fraction of 2^64. -/
def fp32Fix (bits : Nat) : Nat :=
  match decode .fp32 true bits with
  | .fin false m e => if e + 64 ≥ 0 then m * 2 ^ (e + 64).toNat else m / 2 ^ (-(e + 64)).toNat
  | _ => 0

/-- OXB_LAMBDA: λ as FP32, rounded to nearest even (R361). -/
def lambdaReg (now : Nat) (d : Dev) : Nat :=
  match policyOn d.oxb with
  | none => 0
  | some q => if lambdaNow now d.oxb q.halfLife = 0 then 0 else (roundTo .fp32 true {} false (.fin false (lambdaNow now d.oxb q.halfLife) (-64))).1

/-- The Oxbow registers (Table 14.8). -/
def oxbReg (now off : Nat) (d : Dev) : Nat :=
  let o := d.oxb
  let f (b : Bool) (n : Nat) : Nat := if b then n else 0
  if off = 0 then
    ((healthyPorts d).foldl (fun a k => a + 2 ^ k) 0) * 256 + oxbPath d * 16 + f o.restored 8 + f o.waiting 4 + f (draining d) 2 + f o.parity 1
  else if off = 8 then o.commitSeq.toNat
  else if off = 0x10 then o.commitStep.toNat
  else if off = 0x18 then o.k.toNat
  else if off = 0x20 then lambdaReg now d
  else if off = 0x28 then o.c.toNat
  else if off = 0x30 then o.tStep.toNat
  else if off = 0x38 then o.events.toNat
  else if 0x100 ≤ off ∧ off < 0x160 then (tget 0#64 o.cursor ((off - 0x100) / 8)).toNat
  else 0

/-- Mean of some samples, rounded down; a value where there are none. -/
def meanOf (l : List Nat) (dflt : Nat) : Nat := if l.isEmpty then dflt else l.foldl (· + ·) 0 / l.length

/-- C in ELAPSED ticks. -/
def overheadTicks (o : Oxb) (q : Policy) : Nat := max q.cMin (meanOf o.cSamples q.cMin)

/-- T_step in ELAPSED ticks. -/
def stepTicks (o : Oxb) : Nat := max 1 (meanOf o.tSamples 100000000)

/-- A far pair drains by partner persistence: every port of the member has PERSIST in PORT_CAP (R369). -/
def persistsAtPartner (d : Dev) (index : Nat) : Bool :=
  let ps := (farAt d index).portList
  !ps.isEmpty && ps.all (fun p => (portAt d p).capPersist)

/-- The member of a pair that PARITY names. -/
def memberOf (parity : Bool) (x : Bool × Nat × Nat) : Nat := if parity then x.2.2 else x.2.1

/-- Some pair drains by partner persistence. -/
def drainsFarp (d : Dev) (q : Policy) (parity : Bool) : Bool :=
  q.pairs.any (fun x => x.1 && persistsAtPartner d (memberOf parity x))

/-- k of the first three lines of R362: sqrt(2C/λ) / T_step with ties away from zero. -/
def baseInterval (q : Policy) (c t lam : Nat) : Nat :=
  if q.kFixed ≠ 0 then q.kFixed
  else if lam = 0 then q.lMax
  else (isqrt (8 * c * 100000000 * 2 ^ 64 / lam) / t + 1) / 2

/-- ceil(C / (OVH_CEIL * T_step)). (DEDUCED: LOG 49.) -/
def ceilInterval (q : Policy) (c t : Nat) : Nat :=
  match decode .fp32 true q.ovhCeil with
  | .fin false m e => if e ≥ 0 then cdiv c (m * 2 ^ e.toNat * t) else cdiv (c * 2 ^ (-e).toNat) (m * t)
  | _ => 0

/-- Set K, C and T_step at a MARK SNAPSHOT (R362): OXBOW_OVERHEAD when the ceiling raised k, OXBOW_INTERVAL when K changes. -/
def setInterval (now : Nat) (q : Policy) (parity : Bool) (d : Dev) : Dev :=
  let o := d.oxb
  let c := overheadTicks o q
  let t := stepTicks o
  let k0 := baseInterval q c t (lambdaNow now o q.halfLife)
  let k1 := max k0 (ceilInterval q c t)
  let k := if drainsFarp d q parity then 1 else max 1 (min q.lMax k1)
  let d1 := onOxb (fun o => { o with k := BitVec.ofNat 32 k, c := BitVec.ofNat 64 c, tStep := BitVec.ofNat 64 t }) d
  let d2 := if k1 > k0 then postEvent now 0x0054 (natLe 4 k) d1 else d1
  if BitVec.ofNat 32 k = o.k then d2 else postEvent now 0x0052 (natLe 4 k) d2

/-! ### Blocks and records (Tables 14.3 to 14.5) -/

/-- A block of 4,096 bytes that ends with its CRC-64. -/
def sealBlock (l : List Byte) : List Byte :=
  let b := l ++ List.replicate (0xFF8 - l.length) 0#8
  b ++ natLe 8 (crc64 b)

/-- A commit block. -/
def commitBlock (state seq hdr tab : Nat) : List Byte :=
  sealBlock (natLe 4 0x4D435A44 ++ natLe 4 state ++ natLe 8 seq ++ natLe 8 hdr ++ natLe 8 tab)

/-- A verify block. -/
def verifyBlock (seq fmt bits : Nat) : List Byte :=
  sealBlock (natLe 8 0x46565A44 ++ natLe 8 seq ++ natLe 8 fmt ++ natLe 8 bits)

/-- A volume header. -/
def headerBlock (v : Volume) : List Byte :=
  sealBlock (natLe 4 0x4C565A44 ++ natLe 4 3 ++ natLe 16 v.setId.toNat ++ natLe 8 v.index ++ natLe 8 v.slotLbas)

/-- Bytes read by Oxbow; where a beat is uncorrectable or nothing is mapped, the spec gives no bytes and they are free
values (LOG 5). -/
def readOpen (a n : Nat) (d : Dev) : List Byte × Dev :=
  match runsOf d a n with
  | none => let v := freeVal (8 * n) d; (natLe n v.1.toNat, v.2)
  | some l =>
    (l.flatMap (badOf d)).foldl (fun x b =>
      let k := min (64 - b.1 % 64) (a + n - b.1)
      let v := freeVal 512 x.2
      (x.1.take (b.1 - a) ++ natLe k v.1.toNat ++ x.1.drop (b.1 - a + k), v.2)) (l.flatMap (runBytes d), d)

/-- The stream table as the record holds it (Table 14.4). -/
def rngBytes (d : Dev) : List Byte :=
  (List.range 4096).flatMap (fun s =>
    let x := streamAt d s
    natLe 8 x.key.toNat ++ natLe 8 x.step.toNat ++ natLe 8 x.next.toNat ++ natLe 8 (if x.adv then 1 else 0))

/-- Oxbow's accesses to a range go to their channels as BULK requests at port 3 (Table 11.6). -/
def askOxbow (p : Plat) (a n : Nat) (d : Dev) : Dev := submit p 3 (fun _ => 3) .oxbow none a ((runsOf d a n).getD []) d

/-- A pair's entry of the record: space, flags, region, SIZE, offset, partner. -/
def pairEntry (d : Dev) (parity : Bool) (x : Bool × Nat × Nat) (off : Nat) : List Byte :=
  let m := memberOf parity x
  let size := if x.1 then (farAt d m).size else (regionAt d m).size
  let who := if x.1 then ((portAt d ((farAt d m).portList.headD 0)).partner.take 8) else List.replicate 8 0#8
  natLe 1 (if x.1 then 1 else 0) ++ natLe 1 (if x.1 && persistsAtPartner d m then 1 else 0) ++ natLe 2 m ++ natLe 4 0 ++
    natLe 8 size ++ natLe 8 off ++ who ++ List.replicate (8 - who.length) 0#8

/-- What a pair's member puts into the data stream. -/
def pairBytes (d : Dev) (parity : Bool) (x : Bool × Nat × Nat) : Nat :=
  let m := memberOf parity x
  if x.1 then (if persistsAtPartner d m then 0 else (farAt d m).size) else (regionAt d m).size

/-- The offsets of the pairs in the data stream: near members in pair order, then the far members that are copied
(R365). -/
def pairOffsets (d : Dev) (q : Policy) (parity : Bool) : List Nat :=
  let upTo (far : Bool) (i : Nat) : Nat :=
    ((q.pairs.take i).filter (fun x => x.1 == far)).foldl (fun a x => a + pairBytes d parity x) 0
  (List.range q.pairs.length).map (fun i =>
    match q.pairs[i]? with
    | none => 0
    | some x => if x.1 then upTo false q.pairs.length + upTo true i else upTo false i)

/-- Length of the data stream. -/
def streamLength (d : Dev) (q : Policy) (parity : Bool) : Nat := q.pairs.foldl (fun a x => a + pairBytes d parity x) 0

/-- The record as at the mark, with FLAGS [2:1], NVOL, VOLUMES and HDR_CRC still to be set by each attempt (Table 14.4). -/
def recordBase (p : Plat) (d : Dev) (q : Policy) (seq step : W64) (parity : Bool) : List Byte :=
  let offs := pairOffsets d q parity
  let flags := (if parity then 1 else 0) + (if drainsFarp d q parity then 4 else 0)
  let pairs := (q.pairs.zip offs).flatMap (fun e => pairEntry d parity e.1 e.2)
  let rng := rngBytes d ++ (List.range 4096).flatMap (fun s => natLe 8 (tget 0#64 d.oxb.origin s).toNat)
  natLe 4 0x43525A44 ++ natLe 2 3 ++ natLe 1 (seq.toNat % 2) ++ natLe 1 flags ++ natLe 8 seq.toNat ++ natLe 8 step.toNat ++
    natLe 8 d.fw.nid.toNat ++ rowBytes d.geom ++ natLe 32 Config.ownId.toNat ++ natLe 8 p.now ++
    natLe 8 (streamLength d q parity) ++ natLe 4 0 ++ natLe 4 q.pairs.length ++ List.replicate 24 0#8 ++
    (List.range 16).flatMap (fun j => natLe 8 (tget 0#64 d.oxb.cursor j).toNat) ++ List.replicate 128 0#8 ++
    pairs ++ List.replicate (2048 - pairs.length) 0#8 ++ List.replicate 1648 0#8 ++
    natLe 8 (crc64 rng) ++ natLe 8 0 ++ rng

/-- A volume's entry of the record: port, VOL_INDEX, SET_ID, EUI-64. (PRESUMED: LOG 46.) -/
def volumeEntry (p : Nat) (v : Volume) : List Byte := natLe 4 p ++ natLe 4 v.index ++ natLe 16 v.setId.toNat ++ natLe 8 v.eui.toNat

/-- Replace bytes at an offset. -/
def patch (l : List Byte) (off : Nat) (b : List Byte) : List Byte := l.take off ++ b ++ l.drop (off + b.length)

/-- The record of one attempt: the volumes it goes to, or the buddy flag, and its HDR_CRC. -/
def sealRecord (d : Dev) (s : Snap) : List Byte :=
  let vols := if s.onBuddy then [] else s.ports.flatMap (fun p => volumeEntry p (tget ⟨p, 0, 0, 0⟩ d.oxb.vols p))
  let flags := (s.record.getD 7 0#8) ||| (if s.onBuddy then 2#8 else 0#8)
  let r := patch (patch (patch s.record 7 [flags]) 0x60 (natLe 4 (if s.onBuddy then 1 else s.ports.length))) 0x100
    (vols ++ List.replicate (128 - vols.length) 0#8)
  patch r 0xFF8 (natLe 8 (crc64 (r.take 0xFF8)))

/-- HDR_CRC of a record. -/
def recordHdrCrc (r : List Byte) : Nat := leNat ((r.drop 0xFF8).take 8)

/-- The data stream in 1 MiB units (R365). -/
def streamUnits (s : Snap) : List (List Byte) :=
  let l := s.stream.flatMap (·.2)
  cutList (l.length / 1048576 + 1) 1048576 l

/-- The units of volume i of n. -/
def unitsOf (s : Snap) (n i : Nat) : List (List Byte) :=
  ((streamUnits s).zipIdx.filter (fun u => u.2 % max 1 n == i)).map (·.1)

/-- A digest table: CRC-64 of each unit. -/
def digestTable (units : List (List Byte)) : List Byte := units.flatMap (fun u => natLe 8 (crc64 u))

/-- Slots' length in blocks on a path. -/
def slotLbas (d : Dev) (q : Policy) (onBuddy : Bool) (p : Nat) : Nat :=
  if onBuddy then q.slotLbas else (tget ⟨p, 0, 0, 0⟩ d.oxb.vols p).slotLbas

/-- The first block of the slot of a snapshot. -/
def slotBlock (lbas seq : Nat) : Nat := 256 + seq % 2 * lbas

/-- Blocks that volume i of n needs within its slot: the stripe begins at block 256 and its digest table follows. -/
def blocksNeeded (bytes n i : Nat) : Nat :=
  let units := (cdiv bytes 1048576 + (n - 1 - i)) / max 1 n
  256 + 256 * units + cdiv (8 * units) 4096

/-! ### Sending a stage (R366, R368) -/

/-- Something sent to a snapshot port. (DESIGN CHOICE: LOG 133.) -/
def nvmeOut (x : NvmeOut) (d : Dev) : Dev := { d with out := { d.out with nvme := d.out.nvme ++ [x] } }

/-- The port of a command. -/
def NvmeOut.port : NvmeOut → Nat
  | .identify k | .createCq k _ | .createSq k _ | .deleteSq k _ | .deleteCq k _ | .smart k | .read k _ _ | .write k _ _ _ | .flush k => k

/-- Send a command whose completion Oxbow awaits. -/
def nvmeSend (now : Nat) (drain : Bool) (x : NvmeOut) (d : Dev) : Dev :=
  nvmeOut x (onOxb (fun o => { o with nvme := o.nvme ++ [⟨x.port, now, drain⟩] }) d)

/-- Commands a port's I/O queues hold at once: pairs of 256 entries, one entry of each staying empty (R363). (PRESUMED: LOG 128.) -/
def queueRoom (o : Oxb) (k : Nat) : Nat := 255 * max 1 (tget 1 o.queues k)

/-- Commands are outstanding at a snapshot port. -/
def nvmeBusy (d : Dev) (k : Nat) : Bool := d.oxb.nvme.any (fun c => c.port == k)

/-- Send the waiting commands for which there is room; what is left waits. -/
def feedGo (now : Nat) : List NvmeOut → Dev → List NvmeOut × Dev
  | [], d => ([], d)
  | x :: xs, d =>
    if (d.oxb.nvme.filter (fun c => c.port == x.port)).length < queueRoom d.oxb x.port then feedGo now xs (nvmeSend now true x d)
    else (x :: (feedGo now xs d).1, (feedGo now xs d).2)

/-- Send what the stage in hand has waiting for the volumes. -/
def pumpNvme (now : Nat) (d : Dev) : Dev :=
  match d.oxb.snap with
  | none => d
  | some s => modSnap (fun s => { s with nvmeQ := (feedGo now s.nvmeQ d).1 }) (feedGo now s.nvmeQ d).2

/-- The writes and flushes of one stage on one volume, and their number. -/
def stageWrites (d : Dev) (s : Snap) (i p : Nat) : List NvmeOut :=
  let seq := s.seq.toNat
  let b := slotBlock (slotLbas d s.policy false p) seq
  let us := unitsOf s s.ports.length i
  let tab := digestTable us
  let hdr := recordHdrCrc (sealRecord d s)
  match s.stage with
  | 1 => [.write p b (commitBlock 0 seq hdr (crc64 tab)) true, .write p (b + 1) (List.replicate 4096 0#8) true]
  | 2 => us.zipIdx.map (fun u => .write p (b + 256 + 256 * u.2) u.1 false) ++
      (if us.isEmpty then [] else [.write p (b + 256 + 256 * us.length) tab false])
  | 3 => [.write p (b + 2) (sealRecord d s) false, .flush p]
  | 4 => [.write p b (commitBlock 1 seq hdr (crc64 tab)) true]
  | _ => match s.loss with | some l => [.write p (b + 1) (verifyBlock seq l.1 l.2) true] | none => []

/-- Bytes of the buddy image as BUDDY_DATA or BUDDY_COMMIT transactions over the buddy ports in turn. (DEDUCED: LOG 47.) -/
def buddyReqs (ports : List Nat) (sub addr : Nat) (data : List Byte) : List QReq :=
  (cutList (data.length / 4096 + 1) 4096 data).zipIdx.map (fun x =>
    { port := ports.getD (x.2 % max 1 ports.length) 0, off := 0, len := 0, far := addr + 4096 * x.2,
      txn := mgmtTxn sub x.1 (addr + 4096 * x.2) })

/-- The header of a buddy image, which is laid out as one volume (R368). -/
def buddyHeader (d : Dev) (s : Snap) : List Byte := headerBlock ⟨0, d.oxb.setId, 0, s.policy.slotLbas⟩

/-- The transactions of one stage on the buddy path; BUDDY_DATA is stages 2 and 3. The image's header goes with them. (DEDUCED: LOG 47.) -/
def stageSends (d : Dev) (s : Snap) : List QReq :=
  let seq := s.seq.toNat
  let b := slotBlock (slotLbas d s.policy true 0) seq
  let us := unitsOf s 1 0
  let tab := digestTable us
  let hdr := recordHdrCrc (sealRecord d s)
  let send := buddyReqs s.ports
  match s.stage with
  | 1 => send 0x21 (4096 * b) (commitBlock 0 seq hdr (crc64 tab)) ++ send 0x21 (4096 * (b + 1)) (List.replicate 4096 0#8)
  | 2 => send 0x20 0 (buddyHeader d s ++ buddyHeader d s) ++ send 0x20 (4096 * (b + 256)) (us.flatMap id) ++ send 0x20 (4096 * (b + 256 + 256 * us.length)) tab ++
      send 0x20 (4096 * (b + 2)) (sealRecord d s)
  | 4 => send 0x21 (4096 * b) (commitBlock 1 seq hdr (crc64 tab))
  | 5 => match s.loss with | some l => send 0x21 (4096 * (b + 1)) (verifyBlock seq l.1 l.2) | none => []
  | _ => []

/-- PERSIST over the far members that drain by partner persistence, on each of their ports (R320, R369). -/
def persistReqs (d : Dev) (q : Policy) (parity : Bool) : List QReq :=
  (q.pairs.filter (fun x => x.1 && persistsAtPartner d (memberOf parity x))).flatMap (fun x =>
    let r := farAt d (memberOf parity x)
    r.portList.map (fun p => { port := p, off := 0, len := 0, far := r.base,
                               txn := { ttype := 0x04, len := 16, addr := r.pbase, payload := natLe 16 r.size } }))

/-- READs of the far members that are copied (R369). (DEDUCED: LOG 48.) -/
def memberReads (d : Dev) (q : Policy) (parity : Bool) : List QReq :=
  (q.pairs.zip (pairOffsets d q parity)).flatMap (fun e =>
    let m := memberOf parity e.1
    if e.1.1 && !persistsAtPartner d m then let r := farAt d m; farReads r r.base r.size e.2 else [])

/-- Issue what waits for the snapshot's ports. -/
def pumpSnap (now : Nat) (d : Dev) : Dev :=
  match d.oxb.snap with
  | none => d
  | some s => let r := issueAll now .oxbow s.txQ [] d; modSnap (fun s => { s with txQ := r.1 }) r.2

/-- Issue the stage the snapshot has reached. -/
def issueStage (now : Nat) (d : Dev) : Dev :=
  match d.oxb.snap with
  | none => d
  | some s =>
    let far := if s.stage = 2 then s.persist else []
    let l := if s.onBuddy then far ++ stageSends d s else far
    let w := if s.onBuddy then [] else s.ports.zipIdx.flatMap (fun x => stageWrites d s x.2 x.1)
    pumpSnap now (pumpNvme now
      (modSnap (fun s => { s with nvmeQ := s.nvmeQ ++ w, acks := s.acks + l.length, txQ := s.txQ ++ l }) d))

/-- The snapshot commits (R366): OXBOW_COMMITTED; an OXBOW_SNAPSHOT that asked for it completes. One that gets no verify block is done. -/
def commitSnap (now : Nat) (s : Snap) (d : Dev) : Dev :=
  let d1 := onOxb (fun o => { o with commitSeq := s.seq, commitStep := s.step, hasCommit := true, nextSeq := s.seq + 1#64 }) d
  let d2 := postEvent now 0x0050 (natLe 8 s.seq.toNat ++ natLe 8 s.step.toNat ++ natLe 1 (if s.onBuddy then 1 else 0)) d1
  oxbowBoot now (completeOpt now s.pkt stOk 0
    (modSnap (fun s => { s with committed := true, pkt := none, stage := if s.noVerify then 6 else s.stage }) d2))

/-- Go on when the stage is durable everywhere, on fuel: stages without writes end at once, and the data goes out when it has been read
(R260). -/
def snapGo : Nat → Nat → Dev → Dev
  | 0, _, d => d
  | f + 1, now, d =>
    match d.oxb.snap with
    | none => d
    | some s =>
      if s.acks ≠ 0 ∨ !s.nvmeQ.isEmpty ∨ d.oxb.nvme.any (·.drain) ∨ (s.stage = 1 ∧ waits d .oxbow) ∨ s.stage ≥ 6 ∨
          (s.committed ∧ s.stage = 4) then d
      else if s.stage = 5 then modSnap (fun s => { s with stage := 6 }) d
      else if s.stage = 4 then commitSnap now s d
      else
        snapGo f now (issueStage now (modSnap (fun s => { s with stage := if s.onBuddy && s.stage = 2 then 4 else s.stage + 1 }) d))

/-- Go on. -/
def snapAdvance (now : Nat) (d : Dev) : Dev := snapGo 5 now d

/-! ### Starting, restarting, port failure (R364, R365, R367) -/

/-- Some volume of the path lacks room: the quadrant that OXBOW_NO_SPACE names (R365). (DEDUCED: LOG 45.) -/
def noSpace (d : Dev) (q : Policy) (onBuddy : Bool) (ports : List Nat) (bytes : Nat) : Option Nat :=
  if onBuddy then (if blocksNeeded bytes 1 0 > slotLbas d q true 0 then some (ports.headD 0 / 12) else none)
  else (ports.zipIdx.find? (fun x => decide (blocksNeeded bytes ports.length x.2 > slotLbas d q false x.1))).map (·.1)

/-- One attempt at the snapshot in hand over the path there is now, under the policy it was started with (R367): what far members the data
stream lacks is read first. (DEDUCED: LOG 44.) -/
def attemptSnap (now : Nat) (d : Dev) : Dev :=
  match d.oxb.snap with
  | none => d
  | some s =>
    if pathOf d s.policy = 2 then drainFail now d
    else
      let onBuddy := pathOf d s.policy == 1
      let ports := if onBuddy then bitsOf 48 s.policy.buddyPorts.toNat else healthyOf d s.policy
      match noSpace d s.policy onBuddy ports (leNat ((s.record.drop 0x58).take 8)) with
      | some k => oxbowBoot now (completeOpt now s.pkt stSnapshot 0
          (postEvent now 0x0053 (natLe 1 k) (onOxb (fun o => { o with snap := none }) (dropStage d))))
      | none =>
        let reads := (memberReads d s.policy s.parity).filter (fun q => !s.stream.any (fun e => e.1 == q.off))
        snapAdvance now (issueStage now (modSnap (fun s => { s with
          stage := 1, onBuddy := onBuddy, ports := ports, acks := reads.length, txQ := reads }) (dropStage d)))

/-- A snapshot port fails (R364): OXBOW_PORT_FAILED. -/
def failPort (now k cause : Nat) (d : Dev) : Dev :=
  if d.oxb.failed.toNat.testBit k then d
  else postEvent now 0x0055 (natLe 1 k ++ natLe 1 cause)
    (onOxb (fun o => { o with failed := BitVec.ofNat 4 (o.failed.toNat + 2 ^ k) }) d)

/-- A port of the drain fails: the attempt is abandoned and made again over what remains (R367); a committed snapshot only loses its
verify block. -/
def drainPortFailed (now : Nat) (d : Dev) : Dev :=
  match d.oxb.snap with
  | none => d
  | some s => if s.committed then drainFail now d else attemptSnap now d

/-- A snapshot port fails with what is outstanding there; a drain over it feels it (R364, R367). -/
def portFails (now k cause : Nat) (d : Dev) : Dev :=
  let d1 := onOxb (fun o => { o with nvme := o.nvme.filter (fun c => c.port != k) }) (failPort now k cause d)
  match d.oxb.snap with
  | none => d1
  | some s => if !s.onBuddy && s.ports.contains k then drainPortFailed now d1 else d1

/-- The overhead of a committed snapshot that the next one replaces is a sample of C (R361). -/
def sampleSnap (o : Oxb) : Oxb :=
  match o.snap with
  | some s => if s.committed then { o with snap := none, cSamples := (s.waitTicks :: o.cSamples).take 8 } else o
  | none => o

/-- Start the snapshot of step b, member PARITY (R357, R366): the SMART logs are read, the record and the near members are taken as at the
mark. -/
def startSnap (p : Plat) (b : W64) (parity : Bool) (pkt : Option Nat) (smart : BitVec 4) (d : Dev) : Dev :=
  match policyOn d.oxb with
  | none => d
  | some q =>
    let d0 := (healthyPorts d).foldl (fun d k => nvmeOut (.smart k) d) (onOxb sampleSnap d)
    let d1 := (healthyPorts d).foldl (fun d k => if smart.toNat.testBit k then failPort p.now k 3 d else d) d0
    let seq := d1.oxb.nextSeq
    let rec0 := recordBase p d1 q seq b parity
    let near := (q.pairs.zip (pairOffsets d1 q parity)).foldl (fun (x : Table (List Byte) × Dev) e =>
      if e.1.1 then x
      else
        let r := regionAt x.2 (memberOf parity e.1)
        let y := readOpen r.base r.size (askOxbow p r.base r.size x.2)
        (tins x.1 e.2 y.1, y.2)) ([], d1)
    let s : Snap := { seq := seq, step := b, parity := parity, policy := q, noVerify := pkt.isSome, record := rec0, stream := near.1,
                      persist := persistReqs d1 q parity, pkt := pkt }
    attemptSnap p.now (onOxb (fun o => { o with snap := some s, lastStart := some b, hostReq := false }) near.2)

/-! ### MARK SNAPSHOT (R357, R359) -/

/-- The mark begins to wait. -/
def markWait (now h t : Nat) (d : Dev) : Dev :=
  onOxb (fun o => { o with waiting := true })
    (modTask h t (fun x => { x with work := { x.work with waitSince := if x.work.waitSince = 0 then now + 1 else x.work.waitSince } }) d)

/-- The mark goes on to a stage; what it waited is the snapshot's overhead and no part of the step's time (R361). -/
def markPass (now h t stage : Nat) (x : TaskRun) (d : Dev) : Dev :=
  let w := if x.work.waitSince = 0 then 0 else now + 1 - x.work.waitSince
  modSnap (fun s => { s with waitTicks := s.waitTicks + w })
    (onOxb (fun o => { o with waiting := false, waitSum := o.waitSum + w })
      (modTask h t (fun x => { x with work := { x.work with markStage := stage, waitSince := 0 } }) d))

/-- b - c > L_max, with c minus infinity before the first commit. -/
def boundBroken (o : Oxb) (q : Policy) (b : W64) : Bool :=
  !o.hasCommit || decide ((b.toNat : Int) - o.commitStep.toNat > q.lMax)

/-- The snapshot is due: no commit yet, K steps since the last start, or a host request. -/
def snapDue (o : Oxb) (b : W64) : Bool :=
  !o.hasCommit || o.hostReq ||
    match o.lastStart with | none => true | some t => decide ((b.toNat : Int) - t.toNat ≥ o.k.toNat)

/-- One step of a MARK SNAPSHOT. -/
def markStep1 (p : Plat) (h t : Nat) (q : Policy) (parity : Bool) (fmt addr : Nat) (smart : BitVec 4) (x : TaskRun) (d : Dev) : Dev :=
  let b := x.work.markStep
  match x.work.markStage with
  | 0 =>
    match d.oxb.snap with
    | none => markPass p.now h t 1 x d
    | some s =>
      if s.stage ≥ 6 then onOxb sampleSnap (markPass p.now h t 1 x d)
      else if s.committed && s.stage == 4 then
        let n := elemBytes fmt
        let v := readOpen addr n d
        markWait p.now h t (snapAdvance p.now (issueStage p.now
          (modSnap (fun s => { s with stage := 5, loss := some (fmt, leNat v.1) }) v.2)))
      else markWait p.now h t d
  | 1 =>
    let d1 := setInterval p.now q parity (onOxb (fun o => { o with parity := parity }) d)
    if snapDue d1.oxb b then
      modTask h t (fun x => { x with work := { x.work with markStage := 2, markTried := true } }) (startSnap p b parity none smart d1)
    else markPass p.now h t 2 x d1
  | 2 =>
    if !boundBroken d.oxb q b then markPass p.now h t 3 x d
    else
      match d.oxb.snap with
      | some s => if s.committed then markPass p.now h t 3 x d else markWait p.now h t d
      | none =>
        if x.work.markTried then markPass p.now h t 3 x (modTask h t (setFate stSnapshot 0) d)
        else modTask h t (fun x => { x with work := { x.work with markTried := true } }) (startSnap p b parity none smart d)
  | _ => d

/-- The mark goes as far as it can. Without a policy, and in a restore's replay, it waits for nothing (R359). -/
def markGo : Nat → Plat → Nat → Nat → BitVec 4 → Dev → Dev
  | 0, _, _, _, _, d => d
  | f + 1, p, h, t, smart, d =>
    match runOf d h with
    | none => d
    | some r =>
      let x := taskAt r t
      let desc := descOf (graphAt d h) t
      let parity := bit (word desc 2) 0
      match policyOn d.oxb with
      | some q =>
        if r.pkt.isNone then
          modTask h t (fun x => { x with work := { x.work with markStage := 3 } }) (onOxb (fun o => { o with parity := parity }) d)
        else markGo f p h t smart (markStep1 p h t q parity (fld (word desc 2) 7 4) (fld (word desc 3) 39 0) smart x d)
      | none =>
        modTask h t (fun x => { x with work := { x.work with markStage := 3 } }) (onOxb (fun o => { o with parity := parity }) d)

/-- MARK SNAPSHOT (R357): dispatched with b the cursor's STEP, then carried on whenever the command comes again; INGRESS_COMPLETE ends
it. `smartWarn` is what the SMART logs show should a drain start. -/
def execMarkSnapshot (h t : Nat) (smartWarn : BitVec 4) (s : State) : Out :=
  onDev s (fun p d =>
    let mine (desc : List W64) : Bool := dKind desc == 5 && dSub desc == 0
    let go (d : Dev) : Dev :=
      match runOf d h with
      | none => d
      | some r =>
        if (preds (graphAt d h) t).all (fun u => (taskAt r u).st == .ended) then markGo 6 p h t smartWarn d else d
    match runOf d h with
    | none => d
    | some r =>
      if (taskAt r t).st == .running then onRunning h t mine (fun _ _ _ _ _ d => go d) p d
      else dispatchIf h t mine (fun _ _ _ _ d =>
        go (modTask h t (fun x => { x with work := { x.work with markStep := cursorStep d.oxb } }) d)) p d)

/-! ### MARK CURSOR (R355, R238) -/

/-- What MARK CURSOR does to the cursor and the streams. -/
def advanceCursor (desc : List W64) (d : Dev) : Dev :=
  let adv (c : Table W64) (j : Nat) (n : W64) : Table W64 := tset 0#64 c j (tget 0#64 c j + n)
  let c0 := adv (adv d.oxb.cursor 0 1#64) 3 (word desc 2)
  let c1 := (List.range 8).foldl (fun c j => adv c (4 + j) (word desc (3 + j))) c0
  { onOxb (fun o => { o with cursor := c1 }) d with
    rng := d.rng.map (fun e => (e.1, if e.2.adv then { e.2 with step := e.2.step + 1#64, next := 0#64 } else e.2)) }

/-- T_step is measured between completions of MARK CURSOR, the waits of R357 apart (R361). -/
def measureStep (now : Nat) (d : Dev) : Dev :=
  onOxb (fun o =>
    let o1 := match o.lastCursor with
      | none => o
      | some l => { o with tSamples := ((now - l - o.waitSum) :: o.tSamples).take 8 }
    { o1 with lastCursor := some now, waitSum := 0 }) d

/-- MARK CURSOR (R355): dispatched, and complete 16 cycles later with its effect. -/
def execMarkCursor (h t : Nat) (s : State) : Out :=
  onDev s (fun p d =>
    let mine (desc : List W64) : Bool := dKind desc == 5 && dSub desc == 1
    match runOf d h with
    | none => d
    | some r =>
      if (taskAt r t).st == .running then
        onRunning h t mine (fun p r _ desc x d =>
          if runCycle p r < x.s + 16 then d else finishTask p h t stOk 0 0 (measureStep p.now (advanceCursor desc d))) p d
      else dispatchIf h t mine (fun _ _ _ _ d => d) p d)

/-! ### NVMe answers (R364, R366, R367) -/

/-- The oldest command outstanding at a port has completed. -/
def takeNvme (k : Nat) (d : Dev) : Dev := onOxb (fun o => { o with nvme := o.nvme.eraseP (fun c => c.port == k) }) d

/-- NVME_COMPLETION (R366): the stage goes on when all are done; an error status fails the port. -/
def execNvmeCompletion (port : Nat) (ok : Bool) (s : State) : Out :=
  onDev s (fun p d =>
    if !(p.alive && nvmeBusy d port) then d
    else if ok then snapAdvance p.now (pumpNvme p.now (takeNvme port d))
    else portFails p.now port 2 d)

/-- NVME_TIMEOUT (R364): 8 s without completion. -/
def execNvmeTimeout (port : Nat) (s : State) : Out :=
  onDev s (fun p d =>
    if p.alive && d.oxb.nvme.any (fun c => c.port == port && decide (c.since + 800000000 ≤ p.now)) then portFails p.now port 2 d
    else d)

/-! ### Power failure (R370) -/

/-- What Oxbow does when the supply fails: a snapshot before stage 4 gets nothing further, every volume is flushed, and
OXBOW_POWER_FAIL tells the host while the link is up. -/
def powerFailOxbow (now : Nat) (linkUp : Bool) (d : Dev) : Dev :=
  let seq := match d.oxb.snap with | some s => if s.committed then 0 else s.seq.toNat | none => 0
  let keep := match d.oxb.snap with | some s => decide (s.stage ≥ 4) | none => true
  let vols := match d.oxb.snap with | some s => (if s.committed then healthyPorts d else healthyOf d s.policy) | none => healthyPorts d
  let d1 := if keep then d else onOxb (fun o => { o with snap := none }) (dropStage d)
  let d2 := vols.foldl (fun d k => nvmeOut (.flush k) d) d1
  if linkUp then postEvent now 0x0056 (natLe 8 seq) d2 else d2

/-! ### OXBOW_SNAPSHOT and OXBOW_POLICY (R359, R376) -/

/-- OXBOW_SNAPSHOT's own checks and effect. (DEDUCED: LOG 52.) -/
def oxbSnapshotBody (p : Plat) (id : Nat) (pkt : Packet) (smart : BitVec 4) (d : Dev) : Dev :=
  let parity := par pkt 0 1
  if parity > 1 || (policyOn d.oxb).isNone then complete p.now id stBadParam 0 d
  else if anyRun d then complete p.now id stOk 0 (onOxb (fun o => { o with hostReq := true }) d)
  else if draining d then complete p.now id stBusy 0 d
  else startSnap p (cursorStep d.oxb) (parity == 1) (some id) smart d

/-- OXBOW_SNAPSHOT. -/
def execOxbowSnapshot (ring : Nat) (pkt : Packet) (smartWarn : BitVec 4) (s : State) : Out :=
  onDev s (fun p => takePacket ring pkt (pkOpcode pkt == 0x41) (fun id d => oxbSnapshotBody p id pkt smartWarn d) p)

/-- PAIR[i] of the packet: far?, member 0, member 1. -/
def pairField (pkt : Packet) (i : Nat) : Bool × Nat × Nat :=
  let v := par pkt (0x80 + 8 * i) 8
  (v % 256 == 1, v / 2 ^ 8 % 1024, v / 2 ^ 18 % 1024)

/-- The pairs a packet names. -/
def policyPairs (pkt : Packet) : List (Bool × Nat × Nat) := (List.range (par pkt 0x32 2)).map (pairField pkt)

/-- A finite FP32 of at least 0. -/
def fp32NonNeg (bits : Nat) : Bool :=
  match decode .fp32 true bits with | .fin false _ _ => true | .zero _ => true | _ => false

/-- The byte fields and the indices of Table 14.10 are within their ranges: the checks before BUSY (R392). -/
def policyRangeOk (pkt : Packet) : Bool :=
  let n := par pkt 0x32 2
  par pkt 0 1 == 0 && decide (par pkt 1 1 ≤ 15) && decide (1 ≤ par pkt 2 1) && decide (par pkt 2 1 ≤ 4) && decide (par pkt 3 1 ≤ 1) &&
    (decide (par pkt 0x30 2 ≤ 1023) || par pkt 0x30 2 == 0xFFFF) &&
    (List.range 64).all (fun i => decide (n ≤ i) ||
      par pkt (0x80 + 8 * i) 1 == 1 ||
        (par pkt (0x80 + 8 * i) 1 == 0 && decide ((pairField pkt i).2.1 ≤ 255) && decide ((pairField pkt i).2.2 ≤ 255)))

/-- The other fields of Table 14.10 are within their ranges (R376). (DEDUCED: LOG 50.) -/
def policyFieldsOk (pkt : Packet) : Bool :=
  let n := par pkt 0x32 2
  decide (1 ≤ par pkt 4 2) && decide (par pkt 6 2 ≤ par pkt 4 2) && decide (60 ≤ par pkt 8 4) && decide (par pkt 8 4 < 2 ^ 31) &&
    fp32NonNeg (par pkt 0xC 4) && fp32NonNeg (par pkt 0x10 4) && decide (fp32Fix (par pkt 0x10 4) ≤ 2 ^ 64) &&
    decide (1 ≤ par pkt 0x18 8) && par pkt 0x20 8 % 256 == 0 && decide (par pkt 0x28 8 < 2 ^ 48) && decide (n ≤ 64) &&
    (List.range 64).all (fun i =>
      let v := par pkt (0x80 + 8 * i) 8
      if i < n then decide (v < 2 ^ 28) else v == 0)

/-- The pairs meet R353. -/
def pairsOk (d : Dev) (l : List (Bool × Nat × Nat)) : Bool :=
  let named := l.flatMap (fun x => [(x.1, x.2.1), (x.1, x.2.2)])
  named.eraseDups.length == named.length &&
    l.all (fun x =>
      if x.1 then
        let a := farAt d x.2.1
        let b := farAt d x.2.2
        a.valid && b.valid && a.persist && b.persist && a.size == b.size
      else
        let a := regionAt d x.2.1
        let b := regionAt d x.2.2
        decide (x.2.1 ≤ 255) && decide (x.2.2 ≤ 255) && a.valid && b.valid && a.persist && b.persist && a.size == b.size)

/-- The policy of a packet. -/
def policyOf (pkt : Packet) : Policy :=
  { snapPorts := par pkt 1 1, minPorts := par pkt 2 1, lMax := par pkt 4 2, kFixed := par pkt 6 2, halfLife := par pkt 8 4,
    lambda0 := par pkt 0xC 4, ovhCeil := par pkt 0x10 4, cMin := par pkt 0x18 8, slotLbas := par pkt 0x20 8,
    buddyPorts := BitVec.ofNat 48 (par pkt 0x28 8), buddyFreg := par pkt 0x30 2, buddyFor := pkBytes pkt (64 + 0x40) 32,
    pairs := policyPairs pkt }

/-- The snapshot ports a policy enables and the part can reach. -/
def enabledPorts (d : Dev) (mask : Nat) : List Nat :=
  (List.range 4).filter (fun k => mask.testBit k && d.geom.quadAvail.toNat.testBit k && !((quadAt d k).state == .drained))

/-- What a port shows; one that is not told of has no link. (DESIGN CHOICE: LOG 51.) -/
def volPortOf (vols : List VolPort) (k : Nat) : VolPort :=
  (vols.find? (fun v => v.port == k)).getD ⟨k, false, false, false, 0, false, 0, 0, 0, 0⟩

/-- The commands that bring a port up (R363): queues from before are deleted, the controller is identified, min(8, granted) pairs are
created, the header and its copy are read. A port without a link gets none. (DESIGN CHOICE: LOG 51.) -/
def bringUp (had : Nat) (v : VolPort) : List NvmeOut :=
  if !v.link then []
  else
    (List.range had).flatMap (fun i => [.deleteSq v.port (i + 1), .deleteCq v.port (i + 1)]) ++ .identify v.port ::
      (if v.nsOk then
        (List.range (min 8 v.granted)).flatMap (fun i => [.createCq v.port (i + 1), .createSq v.port (i + 1)]) ++ [.read v.port 0 2]
      else [])

/-- Bring one port up: it fails when its link does not train, a command fails, or its namespace breaks R363 (R364). -/
def openPort (now : Nat) (vols : List VolPort) (d : Dev) (k : Nat) : Dev :=
  let v := { volPortOf vols k with port := k }
  let d1 := (bringUp (tget 0 d.oxb.queues k) v).foldl (fun d o => nvmeOut o d) d
  let d2 := onOxb (fun o => { o with queues := tset 0 o.queues k (if v.link && v.nsOk then min 8 v.granted else 0) }) d1
  if !v.link then failPort now k 0 d2 else if !v.cmdOk then failPort now k 2 d2 else if !v.nsOk then failPort now k 1 d2 else d2

/-- Write new headers and empty slots to a volume (R376): commit blocks of both slots read as invalid. -/
def formatVolume (now k : Nat) (v : Volume) (d : Dev) : Dev :=
  [NvmeOut.write k 0 (headerBlock v) true, .write k 1 (headerBlock v) true, .write k 256 (commitBlock 0 0 0 0) true,
    .write k (256 + v.slotLbas) (commitBlock 0 0 0 0) true].foldl (fun d o => nvmeSend now false o d) d

/-- Read or write the header of one port: the volume it is, if its port is up and its namespace fits. -/
def openVolume (now : Nat) (q : Policy) (setId : BitVec 128) (vols : List VolPort) (d : Dev) (k : Nat) : Dev :=
  let v := volPortOf vols k
  if d.oxb.failed.toNat.testBit k then d
  else if v.isFmt3 then onOxb (fun o => { o with vols := tins o.vols k ⟨v.volIndex, v.setId, v.eui, v.slotLbas⟩ }) d
  else
    let idx := ((enabledPorts d q.snapPorts).filter (fun j => decide (j < k))).length
    let x : Volume := ⟨idx, setId, v.eui, q.slotLbas⟩
    formatVolume now k x (onOxb (fun o => { o with vols := tins o.vols k x }) d)

/-- OXBOW_POLICY SET's own checks and effect. (DEDUCED: LOG 50.) -/
def policySetBody (now : Nat) (pkt : Packet) (vols : List VolPort) (d : Dev) : Nat × Nat × Dev :=
  if !policyRangeOk pkt then (stBadParam, 0, d)
  else if anyRun d || draining d then (stBusy, 0, d)
  else if !policyFieldsOk pkt || !pairsOk d (policyPairs pkt) then (stBadParam, 0, d)
  else
    let q := policyOf pkt
    let ks := enabledPorts d q.snapPorts
    let d2 := ks.foldl (openPort now vols) (onOxb (fun o => { o with failed := 0#4, nvme := [] }) d)
    let bad := ks.filter (fun k => !d2.oxb.failed.toNat.testBit k && !(volPortOf vols k).isFmt3)
    if !bad.isEmpty && par pkt 3 1 = 0 then (stSnapshot, bad.foldl (fun a k => a + 2 ^ k) 0, d2)
    else
      let v := freeVal 128 d2
      let d3 := ks.foldl (openVolume now q v.1 vols) (onOxb (fun o => { o with policy := some q, vols := [], setId := v.1 }) v.2)
      (stOk, 0, if q.pairs.isEmpty then onOxb (fun o => { o with k := 1#32, lambda := 0 }) d3
        else onOxb (fun o => { o with lambda := fp32Fix q.lambda0, lambdaAt := now }) d3)

/-- OXBOW_POLICY with OP = SET, or an OP outside its values. -/
def execOxbowPolicySet (ring : Nat) (pkt : Packet) (vols : List VolPort) (s : State) : Out :=
  onDev s (fun p => takePacket ring pkt (pkOpcode pkt == 0x40 && par pkt 0 1 != 1)
    (fun id d => finish p.now id (policySetBody p.now pkt vols d)) p)

/-- OXBOW_POLICY with OP = REPORT: node losses are failure-class events (R361). -/
def execOxbowPolicyReport (ring : Nat) (pkt : Packet) (s : State) : Out :=
  onDev s (fun p => takePacket ring pkt (pkOpcode pkt == 0x40 && par pkt 0 1 == 1)
    (fun id d => complete p.now id stOk 0 (failureEvents p.now (par pkt 0x14 4) d)) p)

/-! ### The buddy peer (R368) -/

/-- The far region that keeps the buddy's images, when the sender on a port is the one the policy names. -/
def buddyRegion (d : Dev) (p : Nat) : Option FarRegion :=
  match d.oxb.policy with
  | none => none
  | some q =>
    let r := farAt d q.buddyFreg
    if q.buddyFreg ≤ 1023 && r.valid && (portAt d p).partner == q.buddyFor && !allZero q.buddyFor then some r else none

/-- Issue what waits on behalf of peers' images, each port's in order; what is left waits. -/
def peerGo (now : Nat) : List (Requester × QReq) → List Nat → Dev → List (Requester × QReq) × Dev
  | [], _, d => ([], d)
  | x :: xs, stuck, d =>
    if stuck.contains x.2.port || !canIssue (portAt d x.2.port) x.2.len then
      (x :: (peerGo now xs (x.2.port :: stuck) d).1, (peerGo now xs (x.2.port :: stuck) d).2)
    else peerGo now xs stuck (sendReq x.2.port now x.1 x.2.off x.2.len x.2.far x.2.txn d)

/-- Issue what the ports can take (R301, R304). -/
def pumpPeer (now : Nat) (d : Dev) : Dev :=
  let r := peerGo now d.oxb.peerQ [] d
  onOxb (fun o => { o with peerQ := r.1 }) r.2

/-- Requests on behalf of a peer's image join those that wait. -/
def askPeer (now : Nat) (who : Requester) (l : List QReq) (d : Dev) : Dev :=
  pumpPeer now (onOxb (fun o => { o with peerQ := o.peerQ ++ l.map (fun q => (who, q)) }) d)

/-- Far writes for a peer's image; the transaction is answered when all of them are acknowledged. -/
def buddyStore (p now : Nat) (t : Txn) (d : Dev) : Dev :=
  match buddyRegion d p with
  | none => respond p now t 0x11 3 [] d
  | some r =>
    if t.addr.toNat + t.payload.length > r.size then respond p now t 0x11 3 [] d
    else askPeer now (.peer p t.tag) (farWrites r (r.base + t.addr.toNat) t.payload none) d

/-- BUDDY_COMMIT: a commit or verify block of the peer's image. -/
def execBuddyCommit (p : Nat) (s : State) : Out :=
  onDev s (onReq p (fun t => mgmtSub t == 0x21) (fun pl t d => buddyStore p pl.now t d))

/-- BUDDY_FETCH: served on any ATTACHED ROLE = 0 port to a PEER, for the owner whose images this part keeps; the bytes come from the far
region and go back as BUDDY_DATA. -/
def execBuddyFetch (p : Nat) (s : State) : Out :=
  onDev s (onReq p (fun t => mgmtSub t == 0x22) (fun pl t d =>
    let x := portAt d p
    match d.oxb.policy with
    | none => respond p pl.now t 0x11 3 [] d
    | some q =>
      let r := farAt d q.buddyFreg
      let off := leNat ((t.payload.drop 32).take 8)
      let n := leNat ((t.payload.drop 40).take 8)
      if !(x.state == .attached && x.role == 0 && x.profile == 1) || q.buddyFreg > 1023 || !r.valid ||
          t.payload.take 32 != q.buddyFor || off + n > r.size then respond p pl.now t 0x11 3 [] d
      else askPeer pl.now (.fetch p) (farReads r (r.base + off) n off) d))

end Sys2Proof.Machine
end

