-- ==== Sys2Proof/Machine/Restore.lean ====
section
/-! DEFINITION. OXBOW_RESTORE and OXBOW_VERIFY (14 R366, R371 to R376): committed snapshots among slot images, the checks of records and
digests, loading, RNG counters, replay. -/

namespace Sys2Proof.Machine

/-! ### Reading images (Tables 14.3 to 14.5) -/

/-- A field of a block or record. -/
def fieldAt (l : List Byte) (off n : Nat) : Nat := leNat ((l.drop off).take n)

/-- A commit or verify block whose MAGIC and CRC are right. -/
def blockOk (magic : Nat) (b : List Byte) : Bool :=
  b.length == 4096 && fieldAt b 0 4 == magic && fieldAt b 0xFF8 8 == crc64 (b.take 0xFF8)

/-- SEQ, HDR_CRC and table CRC of a valid STATE = 1 commit block. -/
def committedOf (b : List Byte) : Option (Nat × Nat × Nat) :=
  if blockOk 0x4D435A44 b && fieldAt b 4 4 == 1 then some (fieldAt b 8 8, fieldAt b 0x10 8, fieldAt b 0x18 8) else none

/-- HDR_CRC and RNG_CRC of a record are right (Table 14.9 step 4). -/
def recordOk (r : List Byte) : Bool :=
  r.length == 0x29000 && fieldAt r 0 4 == 0x43525A44 && fieldAt r 0xFF8 8 == crc64 (r.take 0xFF8) &&
    fieldAt r 0xFF0 8 == crc64 (r.drop 0x1000)

/-- The volume a record lists under number i, found among some images by SET_ID and VOL_INDEX. -/
def listedImage (d : Dev) (imgs : List SlotImage) (r : List Byte) (i : Nat) : Option SlotImage :=
  let o := 0x100 + 32 * i
  imgs.find? (fun m => d.oxb.vols.any (fun v =>
    v.1 == m.port && v.2.index == fieldAt r (o + 4) 4 && v.2.setId.toNat == fieldAt r (o + 8) 16))

/-- The committed snapshot that the images of one slot hold, by the record of one of them (R366). -/
def candidateBy (d : Dev) (buddy : Bool) (imgs : List SlotImage) (m : SlotImage) : Option Candidate :=
  match committedOf m.commit with
  | none => none
  | some c =>
    let listed := if buddy then some [m] else (List.range (fieldAt m.record 0x60 4)).mapM (listedImage d imgs m.record)
    match listed with
    | none => none
    | some l =>
      if l.isEmpty then none
      else if l.all (fun x => match committedOf x.commit with | some y => y.1 == c.1 && y.2.1 == c.2.1 | none => false) then
        some ⟨c.1, l⟩
      else none

/-- The committed snapshots of both slots, by descending SEQ (Table 14.9 step 2). -/
def candidatesOf (d : Dev) (buddy : Bool) (imgs : List SlotImage) : List Candidate :=
  (([0, 1].filterMap (fun s =>
    let l := imgs.filter (fun m => m.slot == s)
    l.findSome? (candidateBy d buddy l))).mergeSort (fun a b => decide (b.seq ≤ a.seq)))

/-- The record of a candidate: the first copy whose CRCs are right and that its commit block names. -/
def recordOf (c : Candidate) : Option (List Byte) :=
  (c.images.find? (fun m => recordOk m.record &&
    (match committedOf m.commit with | some y => y.2.1 == fieldAt m.record 0xFF8 8 | none => false))).map (·.record)

/-- Unit k of the data stream, if it is there and agrees with its digest (R365). -/
def unitOf (c : Candidate) (k : Nat) : Option (List Byte) :=
  let n := c.images.length
  match c.images[k % n]? with
  | none => none
  | some m =>
    match m.units[k / n]?, committedOf m.commit with
    | some u, some y =>
      if y.2.2 == crc64 (m.table.take (8 * m.units.length)) && fieldAt m.table (8 * (k / n)) 8 == crc64 u then some u else none
    | _, _ => none

/-- The units from the first on, up to the first that fails. -/
def goodUnits (c : Candidate) : Nat → Nat → List (List Byte)
  | 0, _ => []
  | f + 1, k => match unitOf c k with | none => [] | some u => u :: goodUnits c f (k + 1)

/-- How many units a record's data stream has. -/
def unitCount (r : List Byte) : Nat := cdiv (fieldAt r 0x58 8) 1048576

/-- The valid verify block of a candidate: LOSS_FMT and LOSS. -/
def verifyOf (c : Candidate) : Option (Nat × Nat) :=
  (c.images.find? (fun m => blockOk 0x46565A44 m.verify && fieldAt m.verify 8 8 == c.seq)).map (fun m =>
    (fieldAt m.verify 0x10 1, fieldAt m.verify 0x18 8))

/-- Entry i of PAIRS: far?, partner-persisted?, SIZE, offset, partner bytes. -/
def pairOfRecord (r : List Byte) (i : Nat) : Bool × Bool × Nat × Nat × List Byte :=
  let o := 0x180 + 32 * i
  (fieldAt r o 1 == 1, fieldAt r (o + 1) 1 % 2 == 1, fieldAt r (o + 8) 8, fieldAt r (o + 16) 8, (r.drop (o + 24)).take 8)

/-- NPAIRS and each pair's space and SIZE match the policy. -/
def pairsMatch (d : Dev) (q : Policy) (parity : Bool) (r : List Byte) : Bool :=
  fieldAt r 0x64 4 == q.pairs.length &&
    q.pairs.zipIdx.all (fun x =>
      let e := pairOfRecord r x.2
      let m := memberOf parity x.1
      e.1 == x.1.1 && e.2.2.1 == (if x.1.1 then (farAt d m).size else (regionAt d m).size))

/-- PARITY and FARP of a record. -/
def recordParity (r : List Byte) : Bool := fieldAt r 7 1 % 2 == 1
def recordFarp (r : List Byte) : Bool := fieldAt r 7 1 / 4 % 2 == 1

/-! ### Reading the volumes (R363, R364) -/

/-- The volumes' headers, and the commit block, the verify block and the record of both slots. -/
def scanReads (d : Dev) : List NvmeOut :=
  (healthyPorts d).flatMap (fun k =>
    let n := (tget ⟨k, 0, 0, 0⟩ d.oxb.vols k).slotLbas
    [.read k 0 2, .read k 256 43, .read k (256 + n) 43])

/-- The data stripe and the digest table of each volume of a candidate. -/
def dataReads (d : Dev) (c : Candidate) : List NvmeOut :=
  c.images.map (fun m =>
    .read m.port (256 + m.slot * (tget ⟨m.port, 0, 0, 0⟩ d.oxb.vols m.port).slotLbas + 256)
      (256 * m.units.length + cdiv (8 * m.units.length) 4096))

/-- Send some commands whose answers the operands give. -/
def nvmeOuts (l : List NvmeOut) (d : Dev) : Dev := l.foldl (fun d x => nvmeOut x d) d

/-- The volumes are scanned: a port whose reads fail fails, and its images are not read (R364). -/
def scanVolumes (now : Nat) (imgs : List SlotImage) (d : Dev) : List SlotImage × Dev :=
  let d1 := (imgs.filter (fun m => (healthyPorts d).contains m.port && !m.readOk)).foldl (fun d m => failPort now m.port 2 d)
    (nvmeOuts (scanReads d) d)
  (imgs.filter (fun m => (healthyPorts d1).contains m.port), d1)

/-! ### OXBOW_VERIFY (R376) -/

/-- The named snapshot is committed, its record is right and every unit agrees with its digest. -/
def verifySeq (d : Dev) (imgs : List SlotImage) (seq : Nat) : Bool :=
  match (candidatesOf d false imgs).find? (fun c => c.seq == seq) with
  | none => false
  | some c =>
    match recordOf c with
    | none => false
    | some r => (goodUnits c (unitCount r) 0).length == unitCount r

/-- OXBOW_VERIFY's effect: the scan, then the named snapshot's data. -/
def verifyBody (now id : Nat) (pkt : Packet) (images : List SlotImage) (d : Dev) : Dev :=
  let x := scanVolumes now images d
  let c := (candidatesOf x.2 false x.1).find? (fun c => c.seq == par pkt 0 8)
  complete now id (if verifySeq x.2 x.1 (par pkt 0 8) then stOk else stSnapshot) 0
    (nvmeOuts (match c with | some c => dataReads x.2 c | none => []) x.2)

/-- OXBOW_VERIFY. -/
def execOxbowVerify (ring : Nat) (pkt : Packet) (images : List SlotImage) (s : State) : Out :=
  onDev s (fun p => takePacket ring pkt (pkOpcode pkt == 0x43) (fun id d => verifyBody p.now id pkt images d) p)

/-! ### Loading a candidate (Table 14.9 steps 3 to 5) -/

/-- Load what was read of the data stream into member PARITY of each pair; far members get their WRITEs queued. -/
def loadPairs (q : Policy) (parity : Bool) (r data : List Byte) (d : Dev) : List QReq × Dev :=
  q.pairs.zipIdx.foldl (fun x y =>
    let e := pairOfRecord r y.2
    let m := memberOf parity y.1
    let b := (data.drop e.2.2.2.1).take e.2.2.1
    if e.2.1 then x
    else if y.1.1 then let f := farAt x.2 m; (x.1 ++ farWrites f f.base b none, x.2)
    else (x.1, nearWrite (regionAt x.2 m).base b x.2)) ([], d)

/-- The partners of the partner-persisted pairs are those of the record. -/
def partnersOk (d : Dev) (q : Policy) (parity : Bool) (r : List Byte) : Bool :=
  q.pairs.zipIdx.all (fun x =>
    let e := pairOfRecord r x.2
    !e.2.1 || (portAt d ((farAt d (memberOf parity x.1)).portList.headD 0)).partner.take 8 == e.2.2.2.2)

/-- What became of a candidate: invalid, the command ends, or loaded. -/
inductive Taken14 where
  | invalid | ends (st : Nat) | loaded (q : List QReq)
deriving DecidableEq, Repr

/-- Steps 4 and 5 on one candidate. -/
def tryCandidate (buddy : Bool) (q : Policy) (c : Candidate) (d : Dev) : Taken14 × Dev :=
  match recordOf c with
  | none => (.invalid, d)
  | some r =>
    let parity := recordParity r
    if !pairsMatch d q parity r then (.ends stBadParam, d)
    else
      let us := goodUnits c (unitCount r) 0
      let l := loadPairs q parity r (us.flatMap id) (nvmeOuts (if buddy then [] else dataReads d c) d)
      if us.length < unitCount r || !partnersOk d q parity r then (.invalid, l.2) else (.loaded l.1, l.2)

/-- A candidate is passed over: FARP and not the latest, or no verify block under VERIFY = 1. -/
def skipCandidate (r : Restore) (c : Candidate) : Bool :=
  (match recordOf c with | some x => recordFarp x && c.seq != r.latest | none => false) ||
    (par r.par 4 1 == 1 && (verifyOf c).isNone)

/-- Take up candidates until one is loaded or the command's end is known. -/
def selectGo (q : Policy) : List Candidate → Restore → Dev → Restore × Dev
  | [], r, d => ({ r with left := [], cand := none, result := some (r.lastFail, 0) }, d)
  | c :: cs, r, d =>
    if skipCandidate r c then selectGo q cs r d
    else
      match tryCandidate (par r.par 0 1 == 1) q c d with
      | (.invalid, d1) => selectGo q cs { r with failedFirst := true, lastFail := stSnapshot } d1
      | (.ends st, d1) => ({ r with left := [], cand := none, result := some (st, 0) }, d1)
      | (.loaded l, d1) => ({ r with left := cs, cand := some c, acks := l.length, txQ := l, asked := false, replaying := false, replayed := none }, d1)

/-- Issue the far writes that their ports can take. -/
def pumpRestore (now : Nat) (d : Dev) : Dev :=
  match d.host.longOp with
  | some (_, .restore r) => let x := issueAll now .restore r.txQ [] d; onRestore (fun r => { r with txQ := x.1 }) x.2
  | _ => d

/-- Select among the candidates left and start loading. -/
def restoreSelect (now : Nat) (d : Dev) : Dev :=
  match d.host.longOp, d.oxb.policy with
  | some (_, .restore r), some q => let x := selectGo q r.left r d; pumpRestore now (onRestore (fun _ => x.1) x.2)
  | _, _ => d

/-- The writes of a candidate just loaded into the near members go to their channels (R260). -/
def askRestore (p : Plat) (d : Dev) : Dev :=
  match d.host.longOp, d.oxb.policy with
  | some (_, .restore r), some q =>
    match r.cand with
    | some c =>
      if r.asked || r.result.isSome then d
      else
        match recordOf c with
        | none => d
        | some rec0 =>
          onRestore (fun r => { r with asked := true }) ((q.pairs.filter (fun x => !x.1)).foldl (fun d x =>
            askOxbow p (regionAt d (memberOf (recordParity rec0) x)).base (regionAt d (memberOf (recordParity rec0) x)).size d) d)
    | none => d
  | _, _ => d

/-- The fields of Table 14.7 are within their values. -/
def restoreFieldsOk (pkt : Packet) : Bool :=
  decide (par pkt 0 1 ≤ 1) && decide (par pkt 1 1 ≤ 47) && decide (par pkt 2 1 ≤ 1) && decide (par pkt 3 1 ≤ 63) &&
    decide (par pkt 4 1 ≤ 1) && decide (par pkt 5 1 ≤ 1)

/-- The conditions of step 1 that end with BAD_PARAM. (DEDUCED: LOG 54.) -/
def restoreParOk (d : Dev) (pkt : Packet) : Bool :=
  (match policyOn d.oxb with | some q => pairsOk d q.pairs | none => false) &&
    (par pkt 2 1 == 0 || (graphAt d (par pkt 3 1)).state != .free)

/-- Step 3 begins with the committed snapshots that step 2 listed, or the one of SEQ; none listed ends the command. -/
def restoreScan (p : Plat) (id : Nat) (imgs : List SlotImage) (d : Dev) : Dev :=
  match d.host.longOp with
  | some (_, .restore r) =>
    let all := candidatesOf d (par r.par 0 1 == 1) imgs
    let l := if par r.par 8 8 = 0 then all else all.filter (fun c => c.seq == par r.par 8 8)
    if l.isEmpty then complete p.now id stSnapshot 0 (onHost (fun h => { h with longOp := none }) d)
    else askRestore p (restoreSelect p.now (onRestore (fun r => { r with
      left := l, latest := (all.map (·.seq)).foldl max 0, imgs := [], got := [] }) d))
  | _ => d

/-! ### A buddy image (R368, Table 14.6) -/

/-- Bytes of the image from an offset, as far as they have come; each fetch brings 4,096. -/
def gotBytes (r : Restore) (off n : Nat) : List Byte := ((List.range (cdiv n 4096)).flatMap (fun i => tget [] r.got (off + 4096 * i))).take n

/-- SLOT_LBAS of the image's header, if that is a volume header. -/
def imageSlotLbas (r : Restore) : Option Nat :=
  let b := gotBytes r 0 4096
  if blockOk 0x4C565A44 b then some (fieldAt b 32 8) else none

/-- Where slot s of the image begins, in bytes. -/
def imageSlot (r : Restore) (s : Nat) : Nat := 4096 * slotBlock ((imageSlotLbas r).getD 0) s

/-- The units of slot s, as its record counts them. -/
def imageUnits (r : Restore) (s : Nat) : Nat :=
  let x := gotBytes r (imageSlot r s + 8192) 0x29000
  if recordOk x then unitCount x else 0

/-- The range that a fetch in hand reads: offset and bytes. -/
def fetchRange (r : Restore) (k : Nat) : Nat × Nat :=
  match k with
  | 1 => (0, 4096)
  | 2 => (imageSlot r 0, 43 * 4096)
  | 3 => (imageSlot r 1, 43 * 4096)
  | n => (imageSlot r (n - 4) + 256 * 4096, imageUnits r (n - 4) * 1048576 + 4096 * cdiv (8 * imageUnits r (n - 4)) 4096)

/-- Slot s of the image, as fetched. -/
def fetchedSlot (r : Restore) (port s : Nat) : SlotImage :=
  let o := imageSlot r s
  let n := imageUnits r s
  { port := port, slot := s, readOk := true, commit := gotBytes r o 4096, verify := gotBytes r (o + 4096) 4096,
    record := gotBytes r (o + 8192) 0x29000,
    units := (List.range n).map (fun u => (gotBytes r (o + 256 * 4096 + u * 1048576) 1048576).take
      (fieldAt (gotBytes r (o + 8192) 0x29000) 0x58 8 - u * 1048576)),
    table := gotBytes r (o + 256 * 4096 + n * 1048576) (8 * n) }

/-- The BUDDY_FETCHes of a range, 4,096 bytes each, for the images of an owner. (DEDUCED: LOG 53.) -/
def fetchReqs (port : Nat) (owner : List Byte) (off n : Nat) : List QReq :=
  (List.range (cdiv n 4096)).map (fun i =>
    { port := port, off := off + 4096 * i, len := 0, far := off + 4096 * i,
      txn := mgmtTxn 0x22 (owner ++ natLe 8 (off + 4096 * i) ++ natLe 8 4096) })

/-- The owner whose image a restore reads: zero means this part (Table 14.7, R374). -/
def ownerOf (pkt : Packet) : List Byte :=
  let o := pkBytes pkt (64 + 0x10) 32
  if allZero o then natLe 32 Config.ownId.toNat else o

/-- Issue the link requests of the restore that their ports can take. -/
def askFetch (now k : Nat) (d : Dev) : Dev :=
  match d.host.longOp with
  | some (_, .restore r) =>
    let x := fetchRange r k
    let l := fetchReqs (par r.par 1 1) (ownerOf r.par) x.1 x.2
    pumpRestore now (onRestore (fun r => { r with fetch := some k, acks := l.length, txQ := l }) d)
  | _ => d

/-- Fetches go on from the one that is finished: a header that is none ends the scan, a slot without data needs no further one, and after
the last the scan is over. -/
def fetchNext (p : Plat) (id k : Nat) : Nat → Dev → Dev
  | 0, d => d
  | f + 1, d =>
    match d.host.longOp with
    | some (_, .restore r) =>
      if (imageSlotLbas r).isNone then restoreScan p id [] (onRestore (fun r => { r with fetch := none }) d)
      else if k = 5 then
        restoreScan p id [fetchedSlot r (par r.par 1 1) 0, fetchedSlot r (par r.par 1 1) 1] (onRestore (fun r => { r with fetch := none }) d)
      else if (fetchRange r (k + 1)).2 = 0 then fetchNext p id (k + 1) f d
      else askFetch p.now (k + 1) d
    | _ => d

/-- A BUDDY_DATA that answers a fetch of the restore in hand: its bytes are kept and its fetch is no longer outstanding. -/
def takeFetched (p : Plat) (port id : Nat) (r : Restore) (t : Txn) (q : Req) (d : Dev) : Dev :=
  let d1 := modPort port (fun x => { x with pending := x.pending.filter (fun y => y.tag != q.tag) }) d
  let d2 := pumpRestore p.now (onRestore (fun r => { r with got := tset [] r.got t.addr.toNat t.payload, acks := r.acks - 1 }) d1)
  if r.acks ≤ 1 then fetchNext p id (r.fetch.getD 5) 5 d2 else d2

/-- The fetch of the restore in hand that a BUDDY_DATA answers: it carries the bytes at the offset asked for. -/
def fetchOf (d : Dev) (p : Nat) (t : Txn) : Option (Nat × Restore × Req) :=
  match d.host.longOp with
  | some (id, .restore r) =>
    if r.fetch.isSome && par r.par 1 1 == p then
      ((portAt d p).pending.find? (fun q => q.who == .restore && q.off == t.addr.toNat)).map (fun q => (id, r, q))
    else none
  | _ => none

/-- BUDDY_DATA: an answer to a fetch of this part's restore, or image data of the peer whose images this part keeps. -/
def execBuddyData (p : Nat) (s : State) : Out :=
  onDev s (onReq p (fun t => mgmtSub t == 0x20) (fun pl t d =>
    match fetchOf d p t with
    | some x => takeFetched pl p x.1 x.2.1 t x.2.2 d
    | none => buddyStore p pl.now t d))

/-- OXBOW_RESTORE's steps 1 to 5 (R371); a buddy image is fetched from a PEER ATTACHED with ROLE = 0 on BUDDY_PORT. (DESIGN CHOICE: LOG 53.) -/
def restoreBody (p : Plat) (id : Nat) (pkt : Packet) (imgs : List SlotImage) (d : Dev) : Dev :=
  if !restoreFieldsOk pkt then complete p.now id stBadParam 0 d
  else if anyRun d || draining d then complete p.now id stBusy 0 d
  else if !restoreParOk d pkt then complete p.now id stBadParam 0 d
  else
    let d1 := onOxb (fun o => { o with restored := false }) d
    let x := portAt d (par pkt 1 1)
    if par pkt 0 1 = 0 then
      let y := scanVolumes p.now imgs (startLong id (.restore { par := pkt }) d1)
      restoreScan p id y.1 y.2
    else if x.state == .attached && x.role == 0 && x.profile == 1 then askFetch p.now 1 (startLong id (.restore { par := pkt }) d1)
    else complete p.now id stSnapshot 0 d1

/-- OXBOW_RESTORE (R371): a long operation, which LONG_OPERATION_DONE carries on and ends. -/
def execOxbowRestore (ring : Nat) (pkt : Packet) (images : List SlotImage) (s : State) : Out :=
  onDev s (fun p => takePacket ring pkt (pkOpcode pkt == 0x42) (fun id d => restoreBody p id pkt images d) p)

/-! ### State, replay, end (Table 14.9 steps 6 to 8, R372, R373) -/

/-- The recorded stream s of a record. -/
def recordStream (r : List Byte) (s : Nat) : RngStream :=
  let o := 0x1000 + 32 * s
  { key := BitVec.ofNat 64 (fieldAt r o 8), step := BitVec.ofNat 64 (fieldAt r (o + 8) 8), next := BitVec.ofNat 64 (fieldAt r (o + 16) 8),
    adv := fieldAt r (o + 24) 1 % 2 == 1 }

/-- ORIGIN(s) of a record. -/
def recordOrigin (r : List Byte) (s : Nat) : W64 := BitVec.ofNat 64 (fieldAt r (0x21000 + 8 * s) 8)

/-- A cursor word of a record. -/
def recordCursor (r : List Byte) (j : Nat) : W64 := BitVec.ofNat 64 (fieldAt r (0x80 + 8 * j) 8)

/-- The stream as restored: STEP from the cursor and the origin, NEXT = 0 (R372). -/
def derivedStream (r : List Byte) (s : Nat) : RngStream :=
  let x := recordStream r s
  if x.adv then { x with step := recordCursor r 0 + recordOrigin r s, next := 0#64 } else x

/-- Some derived counter differs from the recorded one. -/
def rngSkewed (r : List Byte) : Bool := (List.range 4096).any (fun s => derivedStream r s != recordStream r s)

/-- Install cursor, RNG table, ORIGIN and parity of a record. -/
def installRecord (r : List Byte) (d : Dev) : Dev :=
  let d1 := { d with rng := (List.range 4096).foldl (fun t s => tset {} t s (derivedStream r s)) [] }
  onOxb (fun o => { o with
    cursor := (List.range 12).foldl (fun t j => tset 0#64 t j (recordCursor r j)) [],
    origin := (List.range 4096).foldl (fun t s => tset 0#64 t s (recordOrigin r s)) [],
    parity := recordParity r }) d1

/-- Put back what the part held before a replay (R375). -/
def undoInstall (r : Restore) (d : Dev) : Dev :=
  if r.replaying then
    onOxb (fun o => { o with cursor := r.oldCursor, origin := r.oldOrigin, parity := r.oldParity }) { d with rng := r.oldRng }
  else d

/-- End the restore. -/
def endRestore (now id st detail : Nat) (d : Dev) : Dev :=
  complete now id st detail (onHost (fun h => { h with longOp := none }) (onOxb (fun o => { o with restored := st == stOk }) d))

/-- DETAIL of a restore that ends OK (R371): how it was verified, RNG corrected, a later candidate failed, buddy, slot. -/
def restoreDetail (r : Restore) (c : Candidate) (how : Nat) : Nat :=
  how + (if r.corrected then 8 else 0) + (if r.failedFirst then 16 else 0) + (if par r.par 0 1 = 1 then 32 else 0) + 64 * (c.seq % 2)

/-- Step 8: DONE. The next snapshot gets the number after the candidate's, so that it leaves the candidate's slot alone. -/
def restoreDone (now id : Nat) (r : Restore) (c : Candidate) (rec0 : List Byte) (how : Nat) (d : Dev) : Dev :=
  let step : W64 := BitVec.ofNat 64 (fieldAt rec0 0x10 8)
  endRestore now id stOk (restoreDetail r c how)
    (onOxb (fun o => { o with commitSeq := BitVec.ofNat 64 c.seq, commitStep := step, hasCommit := true, lastStart := some step,
                              nextSeq := BitVec.ofNat 64 c.seq + 1#64 }) (onOxb sampleSnap (installRecord rec0 d)))

/-- The MARK SNAPSHOT of a graph: LOSS_FMT and LOSS_ADDR. -/
def lossOf (g : Graph) : Option (Nat × Nat) :=
  (g.tasks.find? (fun w => dKind w == 5 && dSub w == 0)).map (fun w => (fld (word w 2) 7 4, fld (word w 3) 39 0))

/-- |L - R| ≤ TOL * |R|; NaN and NaR match nothing (R373). -/
def lossWithin (tol l r : Num) : Bool :=
  let diff := numAbs (numAdd false l (numMinus r)).1
  let lim := (numMul tol (numAbs r)).1
  match diff, lim with
  | .nar, _ => false
  | _, .nar => false
  | a, b => numCmp a b != .gt

/-- How a replay's loss compares: 1 EXACT, 2 BOUND, 0 no match. -/
def compareLoss (d : Dev) (r : Restore) (rec0 : List Byte) (v : Nat × Nat) (bits fmt : Nat) : Nat :=
  if fieldAt rec0 0x18 8 = d.fw.nid.toNat then (if bits = v.2 then 1 else 0)
  else if !(graphAt d (par r.par 3 1)).override then 0
  else if lossWithin (decode .fp32 true (par r.par 0x30 4)) (decode (fmtOf fmt) true bits) (decode (fmtOf v.1) true v.2) then 2
  else 0

/-- What a GRAPH_RUN of HANDLE would end with at once (R466): replay runs it as a GRAPH_RUN would (R373). -/
def replayRefused (d : Dev) (h : Nat) : Option Nat :=
  let g := graphAt d h
  if g.state == .invalid then some stGeometry
  else if resourceGone d g then some stBusy
  else if isPaired d && !lockGraphOk d g then some stBadParam
  else none

/-- Step 7 begins: cursor, RNG and parity are installed and HANDLE is queued as a run without packet and record. A HANDLE that a GRAPH_RUN
would turn away ends its replay at once. -/
def startReplay (r : Restore) (rec0 : List Byte) (d : Dev) : Dev :=
  let r1 := { r with replaying := true, replayed := none, oldCursor := d.oxb.cursor, oldOrigin := d.oxb.origin, oldRng := d.rng,
                     oldParity := d.oxb.parity }
  let d1 := installRecord rec0 (onRestore (fun _ => r1) d)
  match replayRefused d (par r.par 3 1) with
  | some st => onRestore (fun r => { r with replayed := some (st, 0) }) d1
  | none => { d1 with runs := d1.runs ++ [{ handle := par r.par 3 1, pkt := none, ring := 8 }] }

/-- A replay has ended: the loss is compared; without a match the next candidate is taken up. -/
def afterReplay (now id : Nat) (r : Restore) (c : Candidate) (rec0 : List Byte) (st : Nat) (d : Dev) : Dev :=
  let v := (verifyOf c).getD (0, 0)
  let l := lossOf (graphAt d (par r.par 3 1))
  let x := match l with | some l => readOpen l.2 (elemBytes l.1) d | none => ([], d)
  let m := match l with | some l => compareLoss d r rec0 v (leNat x.1) l.1 | none => 0
  if m ≠ 0 && !isFatal st then restoreDone now id r c rec0 m x.2
  else
    let r1 := { r with failedFirst := true, lastFail := stReplay, replaying := false }
    restoreSelect now (onRestore (fun _ => r1) (undoInstall r x.2))

/-- One step of a restore once its far writes are acknowledged and its replay has ended. -/
def restoreStep (now id : Nat) (r : Restore) (d : Dev) : Dev :=
  match r.result with
  | some e => endRestore now id e.1 e.2 (undoInstall r d)
  | none =>
    match r.cand with
    | none => d
    | some c =>
      match recordOf c with
      | none => d
      | some rec0 =>
        if r.replaying then
          match r.replayed with | some y => afterReplay now id r c rec0 y.1 d | none => d
        else
          let skew := rngSkewed rec0
          let r1 := { r with corrected := skew }
          if skew && par r.par 5 1 = 1 then endRestore now id 0x0030 0 d
          else if par r.par 2 1 = 1 && (verifyOf c).isSome then startReplay r1 rec0 d
          else restoreDone now id r1 c rec0 4 d

/-- LONG_OPERATION_DONE on a restore: nothing while near or far writes are outstanding. -/
def restoreGo (now id : Nat) (r : Restore) (d : Dev) : Dev :=
  if r.result.isNone && (r.fetch.isSome || r.acks ≠ 0 || !r.txQ.isEmpty || waits d .oxbow) then d
  else
    let d1 := restoreStep now id r d
    match d1.host.longOp with
    | some (_, .restore r1) => (match r1.result with | some e => endRestore now id e.1 e.2 d1 | none => d1)
    | _ => d1

end Sys2Proof.Machine
end

