-- ==== Sys2Proof/Machine/Moves.lean ====
section
/-! DEFINITION. MOVE tasks (09 R207, 11 R267 to R271, 12 R304 to R321): dispatch, sources and destinations, completion; the responses and
messages that carry them; the accesses of partners that this part serves (R307). -/

namespace Sys2Proof.Machine

/-! ### What a MOVE needs at dispatch -/

/-- Change what a running task holds. -/
def modWork (h t : Nat) (f : Work → Work) (d : Dev) : Dev := modTask h t (fun x => { x with work := f x.work }) d

/-- The ports a range of a far region uses, ascending (R316). -/
def farPorts (r : FarRegion) (a n : Nat) : List Nat :=
  let ps := r.portList
  let s0 := (a - r.base) / 2 ^ r.stripe
  let s1 := (a + n - 1 - r.base) / 2 ^ r.stripe
  let used := (upFrom s0 (min ps.length (s1 - s0 + 1))).map (fun s => ps.getD (s % ps.length) 0)
  ps.filter (fun p => used.contains p)

/-- The end a far endpoint gives a MOVE at dispatch, if any: no region holds the range, a port outside PORT_MASK, a port that is not
ATTACHED, a port of ROLE 1, a reduce-write type that a port of the region does not advertise (R207, R312, R314, R317, R319). -/
def farEndFate (d : Dev) (g : Graph) (a n : Nat) (red : Option Nat) : Option (Nat × Nat) :=
  match farOf d a n with
  | none => some (stBadParam, 0)
  | some r =>
    let ps := farPorts r a n
    if ps.any (fun p => !g.portMask.toNat.testBit p) then some (stBadParam, 0)
    else
      match ps.find? (fun p => (portAt d p).state != .attached) with
      | some p => some (stLinkDown, farDetail p 0)
      | none =>
        if ps.any (fun p => (portAt d p).role != 0) ||
            (match red with | some rt => r.portList.any (fun p => !(portAt d p).capRed.toNat.testBit rt) | none => false) then
          some (stBadParam, 0)
        else none

/-- The end a link endpoint gives a MOVE at dispatch (R310, R312, R314). -/
def linkEndFate (d : Dev) (p : Nat) : Option (Nat × Nat) :=
  let x := portAt d p
  if x.state != .attached then some (stLinkDown, farDetail p 0)
  else if x.role != 0 || x.profile == 2 then some (stBadParam, 0)
  else none

/-- The end one endpoint gives a MOVE at dispatch (R254, R223). -/
def endFate (d : Dev) (g : Graph) (space a n port : Nat) (red : Option Nat) : Option (Nat × Nat) :=
  match space with
  | 0 => if covered d a n then none else some (stBadParam, 0)
  | 1 => farEndFate d g a n red
  | 2 => none
  | _ => linkEndFate d port

/-- The end a MOVE has at dispatch, if any: LINK_DOWN names the lowest port of both endpoints that is not ATTACHED (R223). -/
def moveFate (d : Dev) (g : Graph) (desc : List W64) : Option (Nat × Nat) :=
  match endFate d g (mvSrcSp desc) (mvSrc desc) (mvLen desc) (mvPort desc) none,
    endFate d g (mvDstSp desc) (mvDst desc) (mvLen desc) (mvPort desc) (if mvRed desc then some (mvRtype desc) else none) with
  | some a, some b => some (if a.1 = stLinkDown ∧ b.1 = stLinkDown then (stLinkDown, min a.2 b.2) else a)
  | some a, none => some a
  | none, b => b

/-! ### The destination -/

/-- The boundary at which a destination cuts what it takes: 2 KiB near, 4 KiB far, host and link. -/
def sinkSize (desc : List W64) : Nat := if mvDstSp desc = 0 then 2048 else 4096

/-- Where offset 0 lies in the destination's space; a message starts at 0. -/
def sinkBase (desc : List W64) : Nat := if mvDstSp desc = 3 then 0 else mvDst desc

/-- Bytes read that follow one another from an offset on. -/
def heldRun (held : Table (List Byte)) (off : Nat) : List Byte :=
  held.foldl (fun acc e => if e.1 = off + acc.length then acc ++ e.2 else acc) []

/-- What is left of them below a new offset. -/
def dropHeld (held : Table (List Byte)) (off : Nat) : Table (List Byte) :=
  held.filterMap (fun e =>
    if e.1 + e.2.length ≤ off then none else if e.1 < off then some (off, e.2.drop (off - e.1)) else some e)

/-- One part of a message. -/
def messageTxn (off len : Nat) (b : List Byte) : Txn :=
  { ttype := 0x08, len := b.length, attr := (if off = 0 then 1 else 0) + (if off + b.length = len then 2 else 0),
    addr := BitVec.ofNat 64 off, payload := b }

/-- A MOVE's write is accepted, or acknowledged, in this cycle (R267, R317). -/
def touchWork (p : Plat) (h t : Nat) (d : Dev) : Dev :=
  match runOf d h with
  | none => d
  | some r => modWork h t (fun w => { w with lastAt := runCycle p r }) d

/-- Deliver bytes at an offset to the destination, `l` being the runs of a near-tier one. -/
def sinkWrite (p : Plat) (h t : Nat) (timed : Bool) (desc : List W64) (off : Nat) (b : List Byte) (l : List Run2K) (d : Dev) : Dev :=
  let d0 := touchWork p h t (modWork h t (fun w => { w with fed := off + b.length, held := dropHeld w.held (off + b.length), pieces := tins w.pieces off b }) d)
  match mvDstSp desc with
  | 0 =>
    if mvRed desc then
      let r := reduceRuns p 2 (mvHint desc) (mvRtype desc) timed (some h) (mvDst desc + off) l b d0
      let d1 := modWork h t (fun w => { w with flags := w.flags ||| r.2.flags }) r.1
      match lowDetail r.2.bad with
      | some v => modTask h t (setFate stMem v) d1
      | none => d1
    else l.foldl (fun d q => writeRunAll p.cyc (mvHint desc) timed q ((b.drop (q.addr - (mvDst desc + off))).take q.len) d) d0
  | 1 => modWork h t (fun w => { w with outq := w.outq ++ [(off, b)] }) d0
  | 2 => hostWrite (mvDst desc + off) b d0
  | _ =>
    let q := mvPort desc
    let last := off + b.length = mvLen desc
    let d1 := if last then modPort q (fun x => { x with msgQueued := x.msgQueued + 1 }) d0 else d0
    let d2 := if last then modWork h t (fun w => { w with ticket := some (q, (portAt d1 q).msgQueued) }) d1 else d1
    sendTxn q p.now (messageTxn off (mvLen desc) b) d2

/-- How much the destination takes next from an offset: up to its boundary, or what is left once the source brings no more. -/
def sinkTake (desc : List W64) (off have_ : Nat) (ended : Bool) : Nat :=
  let k := min (mvLen desc - off) (sinkSize desc - (sinkBase desc + off) % sinkSize desc)
  if have_ ≥ k then k else if ended then have_ else 0

/-- A range an access reaches for lies in no valid region any more: the MOVE ends as at dispatch (R223, R254). -/
def moveLost (h t : Nat) (d : Dev) : Dev := modTask h t (setFate stBadParam 0) (modWork h t (fun w => { w with msgDone := true }) d)

/-- Deliver what can be delivered, in ascending offset, on fuel; a MOVE whose end is known after a unit delivers no more. A unit read
from the near tier for a near or host destination is written completely (R267). Where its accesses queue, a piece for the near tier first
waits at its channels (R260). -/
def deliverGo : Nat → Plat → Nat → Nat → Bool → List W64 → Dev → Dev
  | 0, _, _, _, _, _, d => d
  | f + 1, p, h, t, timed, desc, d =>
    match runOf d h with
    | none => d
    | some r =>
      let w := (taskAt r t).work
      let l := heldRun w.held w.fed
      let whole := mvSrcSp desc == 0 && (mvDstSp desc == 0 || mvDstSp desc == 2)
      let n := sinkTake desc w.fed l.length (w.msgDone || whole || w.halting)
      if !w.dstRuns.isEmpty then
        if waits d (.task h t true) then d
        else
          let m := w.dstRuns.foldl (fun a q => a + q.len) 0
          deliverGo f p h t timed desc
            (sinkWrite p h t timed desc w.fed (l.take m) w.dstRuns (modWork h t (fun w => { w with dstRuns := [] }) d))
      else if n = 0 || (mvRed desc && w.fate.isSome) then d
      else if mvDstSp desc != 0 then deliverGo f p h t timed desc (sinkWrite p h t timed desc w.fed (l.take n) [] d)
      else
        match runsOf d (mvDst desc + w.fed) n with
        | none => moveLost h t d
        | some q =>
          if queues d timed then
            submit p 3 (fun _ => 3) (.task h t true) (some h) (mvDst desc + w.fed) q (modWork h t (fun w => { w with dstRuns := q }) d)
          else deliverGo f p h t timed desc (sinkWrite p h t timed desc w.fed (l.take n) q d)

/-! ### Far requests of a MOVE (R305, R317) -/

/-- A MOVE with traffic to issue on a port that is no longer ATTACHED ends: PARTNER_LOST where the port has returned to UP, else LINK_DOWN
(R314). -/
def losePort (p h t : Nat) (d : Dev) : Dev :=
  let back := (portAt d p).state == .up || (portAt d p).state == .incompatible
  modTask h t (setFate (if back then stPartner else stLinkDown) (farDetail p 0)) d

/-- Issue the next READs of a far source, on fuel. -/
def readGo : Nat → Nat → Nat → Nat → FarRegion → List W64 → Dev → Dev
  | 0, _, _, _, _, _, d => d
  | f + 1, now, h, t, reg, desc, d =>
    match runOf d h with
    | none => d
    | some r =>
      let w := (taskAt r t).work
      match (farReads reg (mvSrc desc + w.issued) (min (mvLen desc - w.issued) (4096 - (mvSrc desc + w.issued) % 4096)) w.issued).head? with
      | none => d
      | some q =>
        if w.issued ≥ mvLen desc || w.fate.isSome || w.halting then d
        else if (portAt d q.port).state != .attached then losePort q.port h t d
        else if !canIssue (portAt d q.port) q.len then d
        else readGo f now h t reg desc
          (sendReq q.port now (.task h t) q.off q.len q.far q.txn (modWork h t (fun w => { w with issued := w.issued + q.len }) d))

/-- Issue the waiting WRITEs or REDWRITEs of a far destination, each part being one transaction, on fuel; every REDWRITE counts
(R319). -/
def writeGo : Nat → Plat → Nat → Nat → FarRegion → List W64 → Dev → Dev
  | 0, _, _, _, _, _, d => d
  | f + 1, p, h, t, reg, desc, d =>
    match runOf d h with
    | none => d
    | some r =>
      let w := (taskAt r t).work
      match w.outq with
      | [] => d
      | (off, b) :: rest =>
        match (farWrites reg (mvDst desc + off) b (if mvRed desc then some (mvRtype desc) else none)).head? with
        | none => d
        | some q =>
          if w.fate.isSome then d
          else if (portAt d q.port).state != .attached then losePort q.port h t d
          else if !canIssue (portAt d q.port) 0 then d
          else
            let d1 := sendReq q.port p.now (.task h t) off 0 q.far q.txn (modWork h t (fun w => { w with outq := rest }) d)
            writeGo f p h t reg desc (if mvRed desc then tdcLink p.cyc h q.port d1 else d1)

/-! ### Transfer units (R226, R267) -/

/-- How many bytes of its source a MOVE may have moved in its present cycle: whole transfer units, the 2 KiB blocks of the source,
between near ranges at the rate of R267, otherwise all of them from the cycle after dispatch on. (DEDUCED: LOG 105.) -/
def unitsDue (p : Plat) (r : Run) (d : Dev) (desc : List W64) (x : TaskRun) : Nat :=
  let c := runCycle p r
  if c ≤ x.s then 0
  else if mvSrcSp desc = 0 ∧ mvDstSp desc = 0 then
    let rate := max 1 (min (mvRate desc) (96 * (spanOf d (mvRanges desc) (ownHub desc)).1))
    let k := (c - x.s - 1) * rate / 2048 + 1
    min (mvLen desc) (2048 * (mvSrc desc / 2048 + k) - mvSrc desc)
  else mvLen desc

/-- The bytes of a unit of a near-tier source, served by its channels, from offset `off` on; a unit with a poisoned beat ends the reading
and is not delivered (R273). -/
def unitRead (p : Plat) (h t : Nat) (timed : Bool) (desc : List W64) (off : Nat) (l : List Run2K) (d : Dev) : Dev :=
  let b := l.flatMap (runBytes d)
  let bad := l.flatMap (badOf d)
  let d1 := l.foldl (fun d q => readRun p 2 (mvHint desc) timed q d) d
  match lowDetail bad with
  | some v => modTask h t (setFate stMem v) (modWork h t (fun w => { w with msgDone := true, srcRuns := [] }) d1)
  | none => modWork h t (fun w => { w with
      held := tins w.held off b, issued := off + b.length, msgDone := decide (off + b.length = mvLen desc), srcRuns := [] }) d1

/-- Read units of a near-tier source: where accesses queue, the first goes to its channels, otherwise each is read (R260). -/
def readNear (p : Plat) (h t : Nat) (timed : Bool) (desc : List W64) : List (Nat × Nat) → Dev → Dev
  | [], d => d
  | (a, n) :: rest, d =>
    match runsOf d a n with
    | none => moveLost h t d
    | some l =>
      if queues d timed then submit p 3 (fun _ => 3) (.task h t false) (some h) a l (modWork h t (fun w => { w with srcRuns := l }) d)
      else if (l.flatMap (badOf d)).isEmpty then readNear p h t timed desc rest (unitRead p h t timed desc (a - mvSrc desc) l d)
      else unitRead p h t timed desc (a - mvSrc desc) l d

/-- Bring in the units of a near-tier source that are due and not yet read; a unit whose requests are served is read. -/
def feedNear (p : Plat) (h t : Nat) (timed : Bool) (desc : List W64) (due : Nat) (d : Dev) : Dev :=
  match taskOf d h t with
  | none => d
  | some x =>
    if !x.work.srcRuns.isEmpty && waits d (.task h t false) then d
    else
      let d1 := if x.work.srcRuns.isEmpty then d else unitRead p h t timed desc x.work.issued x.work.srcRuns d
      let w := ((taskOf d1 h t).getD x).work
      if w.msgDone || w.fate.isSome || w.halting || due ≤ w.issued then d1
      else readNear p h t timed desc (cutRange 2048 (mvSrc desc + w.issued) (due - w.issued)) d1

/-- A task has requests outstanding on some port. -/
def hasRequests (d : Dev) (h t : Nat) : Bool := d.links.ports.any (fun e => e.2.pending.any (fun q => q.who == .task h t))

/-- A MOVE that an abort is stopping stops once every transfer unit that had started is written, or has failed (R207, R226). -/
def settleHalt (h t : Nat) (d : Dev) : Dev :=
  match taskOf d h t with
  | none => d
  | some x =>
    if x.st == .running && x.work.halting &&
        ((!hasRequests d h t && x.work.outq.isEmpty && x.work.srcRuns.isEmpty && x.work.dstRuns.isEmpty) || x.work.fate.isSome) then
      dropRequests h (fun u => u == t) (modTask h t (fun y => { y with st := .stopped }) d)
    else d

/-- Carry a MOVE on: reads issued, data delivered, writes issued. -/
def movePump (p : Plat) (h t : Nat) (d : Dev) : Dev :=
  match runOf d h with
  | none => d
  | some r =>
    let g := graphAt d h
    let desc := descOf g t
    let x := taskAt r t
    let due := unitsDue p r d desc x
    if dKind desc ≠ 3 ∨ x.st ≠ .running ∨ x.work.atDispatch ∨ due = 0 then d
    else
      let timed := g.still && isTimed desc
      let d1 := match mvSrcSp desc, farOf d (mvSrc desc) (mvLen desc) with
        | 0, _ => feedNear p h t timed desc due d
        | 1, some reg => readGo 196608 p.now h t reg desc d
        | _, _ => d
      let d2 := deliverGo (mvLen desc / 2048 + 4) p h t timed desc d1
      settleHalt h t (match mvDstSp desc, farOf d2 (mvDst desc) (mvLen desc) with
        | 1, some reg => writeGo 196608 p h t reg desc d2
        | _, _ => d2)

/-- An abort reaches a MOVE (R226): what is due by now has started; with a far source its READs in flight are written, with a far
destination the WRITEs not yet issued have not started. -/
def haltMove (p : Plat) (h t : Nat) (desc : List W64) (d : Dev) : Dev :=
  settleHalt h t (modWork h t (fun w => { w with halting := true, outq := if mvSrcSp desc = 1 then w.outq else [] }) (movePump p h t d))

/-- Carry everything on that may wait for a port. -/
def pumpAll (p : Plat) (d : Dev) : Dev :=
  let d1 := d.runs.foldl (fun d r =>
    if r.started then (r.tasks.filter (fun e => e.2.st == .running)).foldl (fun d e => movePump p r.handle e.1 d) d else d) d
  pumpPeer p.now (pumpRestore p.now (pumpSnap p.now d1))

/-! ### The source -/

/-- The bytes of a host source that arrived whole units long; all of them when nothing failed. -/
def hostPrefix (desc : List W64) (data : List Byte) : List Byte :=
  if data.length ≥ mvLen desc then data.take (mvLen desc)
  else data.take ((mvSrc desc + data.length) / 2048 * 2048 - mvSrc desc)

/-- What a MOVE with a host source holds at dispatch. -/
def startSource (h t : Nat) (desc : List W64) (hostData : List Byte) (d : Dev) : Dev :=
  if mvSrcSp desc = 2 then
    modWork h t (fun w => { w with held := if (hostPrefix desc hostData).isEmpty then [] else [(0, hostPrefix desc hostData)],
                                   msgDone := decide (mvLen desc ≤ hostData.length) }) d
  else d

/-- Dispatch a MOVE of one SUB. -/
def moveRun (h t sub : Nat) (hostData : List Byte) (s : State) : Out :=
  onDev s (dispatchIf h t (fun desc => dKind desc == 3 && dSub desc == sub) (fun _ _ g desc d =>
    match moveFate d g desc with
    | some e => failAtDispatch h t e.1 e.2 d
    | none => startSource h t desc hostData d))

/-- MOVE that copies (R207). `hostData` is what a host source returns; less than LEN bytes means a read that fails. -/
def execMoveCopy (h t : Nat) (hostData : List Byte) (s : State) : Out := moveRun h t 0 hostData s

/-- MOVE that reduce-writes (R207, R269, R319). -/
def execMoveReduceWrite (h t : Nat) (hostData : List Byte) (s : State) : Out := moveRun h t 1 hostData s

/-! ### Completion (R267, R271, R317, R321) -/

/-- The link has acknowledged the message the MOVE sent. -/
def ticketDone (d : Dev) (w : Work) : Bool :=
  match w.ticket with | none => false | some k => decide (k.2 ≤ (portAt d k.1).msgAcked)

/-- Every byte has been read, delivered and accepted. -/
def moveDone (d : Dev) (h t : Nat) (desc : List W64) (w : Work) : Bool :=
  let total := if mvSrcSp desc = 3 then min w.msgLen (mvLen desc) else mvLen desc
  (w.msgDone || mvSrcSp desc == 1) && w.fed == total && w.outq.isEmpty && !hasRequests d h t && (mvDstSp desc != 3 || ticketDone d w)

/-- The earliest run cycle in which a MOVE that has done its work may end: S + D between near ranges, else the cycle after its last write
or ACK, or after the link acknowledged its message's last byte (R267, R317, R321). -/
def moveDue (d : Dev) (r : Run) (desc : List W64) (x : TaskRun) : Nat :=
  if mvSrcSp desc = 0 ∧ mvDstSp desc = 0 then x.s + moveLength d desc
  else
    let sent := match x.work.ticket with | some k => (portAt d k.1).msgAckAt - r.cycle0 - r.slipPause | none => 0
    max x.s (max x.work.lastAt sent) + 1

/-- Status and DETAIL of a MOVE that did its work. -/
def moveStatus (desc : List W64) (w : Work) : Nat × Nat :=
  let st := flagStatus (fInvalid ||| fOverflow ||| fUnderflow ||| fQuireOvf) w.flags
  if mvSrcSp desc = 3 then
    if w.msgLen > mvLen desc then (stBadParam, farDetail (mvPort desc) 0)
    else if st = stOk then (stOk, min w.msgLen 0xFFFFFFFF)
    else (st, w.flags.toNat)
  else (st, w.flags.toNat)

/-- MOVE_COMPLETE: the MOVE is carried on, and ends after the last accepted write, acknowledgement or response; an end already
known comes at the unit in progress. -/
def execMoveComplete (h t : Nat) (s : State) : Out :=
  onDev s (onRunning h t (fun desc => dKind desc == 3) (fun p r _ desc x d =>
    if x.work.halting then settleHalt h t (movePump p h t d)
    else
    match x.work.fate with
    | some e =>
      if runCycle p r < x.s + 1 then d
      else dropRequests h (fun u => u == t) (finishTaskAt p h t (if x.work.atDispatch then x.s + 1 else runCycle p r) e.1 e.2 x.work.flags.toNat d)
    | none =>
      let d1 := movePump p h t d
      let y := (taskOf d1 h t).getD x
      let w := y.work
      let due := moveDue d1 r desc y
      if w.fate.isSome || !moveDone d1 h t desc w || runCycle p r < due then d1
      else
        let st := moveStatus desc w
        let near := mvSrcSp desc == 0 && mvDstSp desc == 0
        finishTaskAt p h t (if near && !isStill d r then runCycle p r else due) st.1 st.2 w.flags.toNat d1))

/-! ### Responses (R306) -/

/-- The status a task ends with for a response STATUS (Table 12.9a). -/
def respStatus (status : Nat) : Nat :=
  match status with | 0 => stOk | 1 => stBadParam | 2 => stMem | 3 => stBadParam | _ => stPartner

/-- The request of a tag. -/
def reqOf (x : Port) (tag : Nat) : Option Req := x.pending.find? (fun q => q.tag == tag)

/-- It is no longer outstanding. -/
def dropReq (p tag : Nat) (d : Dev) : Dev := modPort p (fun x => { x with pending := x.pending.filter (fun q => q.tag != tag) }) d

/-- A request that failed with a status, or was never answered (status 0): its requester ends. A peer whose far write was never
acknowledged gets no ACK (R368). -/
def reqFailed (p now : Nat) (q : Req) (status st : Nat) (d : Dev) : Dev :=
  match q.who with
  | .task h t => modTask h t (setFate st (farDetail p status)) (modWork h t (fun w => { w with msgDone := true }) d)
  | .oxbow => drainFail now d
  | .restore => onRestore (fun r => { r with
      acks := 0, txQ := [], fetch := none, result := some (if r.fetch.isSome && status ≠ 0 then stSnapshot else st, 0) }) (forget .restore d)
  | .peer port tag =>
    let d1 := forget q.who (onOxb (fun o => { o with peerQ := o.peerQ.filter (fun x => x.1 != q.who) }) d)
    if status = 0 then d1 else sendTxn port now { ttype := 0x11, tag := tag, status := status } d1
  | .fetch _ => d

/-- FAR_ERROR (Table 15.13). -/
def farError (p now status far : Nat) (d : Dev) : Dev :=
  postEvent now 0x0036 (natLe 1 p ++ natLe 1 status ++ List.replicate 6 0#8 ++ natLe 8 far) d

/-- The bytes a READ brought go to its requester. -/
def readArrived (now : Nat) (q : Req) (b : List Byte) (d : Dev) : Dev :=
  match q.who with
  | .task h t => modWork h t (fun w => { w with held := tins w.held q.off b }) d
  | .oxbow => snapAdvance now (modSnap (fun s => { s with stream := tins s.stream q.off b, acks := s.acks - 1 }) d)
  | .fetch port => sendTxn port now (mgmtTxn 0x20 b q.off) d
  | _ => d

/-- A write was acknowledged; a peer's transaction is answered when all of its far writes are. -/
def writeAcked (now : Nat) (q : Req) (d : Dev) : Dev :=
  match q.who with
  | .task _ _ => d
  | .oxbow => snapAdvance now (modSnap (fun s => { s with acks := s.acks - 1 }) d)
  | .restore => onRestore (fun r => { r with acks := r.acks - 1 }) d
  | .peer port tag =>
    if d.oxb.peerQ.any (fun x => x.1 == q.who) || d.links.ports.any (fun e => e.2.pending.any (fun r => r.who == q.who)) then d
    else sendTxn port now { ttype := 0x11, tag := tag } d
  | .fetch _ => d

/-- A response at the head of a port's RSP class, of one type; one whose TAG waits for nothing is dropped. -/
def onRsp (p ttype : Nat) (f : Plat → Req → Txn → Dev → Dev) (s : State) : Out :=
  onDev s (fun pl d =>
    match (portAt d p).rsp with
    | [] => d
    | t :: _ =>
      if !(pl.alive && t.ttype == ttype) then d
      else
        match reqOf (portAt d p) t.tag with
        | none => popRsp p t d
        | some q =>
          let d1 := dropReq p t.tag (popRsp p t d)
          pumpAll pl (if t.status = 0 then f pl q t d1
            else reqFailed p pl.now q t.status (respStatus t.status) (farError p pl.now t.status q.far d1)))

/-- READRSP. -/
def execReadrsp (p : Nat) (s : State) : Out := onRsp p 0x10 (fun pl q t d => readArrived pl.now q t.payload d) s

/-- TL_ACK. -/
def execTlAck (p : Nat) (s : State) : Out :=
  onRsp p 0x11 (fun pl q _ d => writeAcked pl.now q (match q.who with | .task h t => touchWork pl h t d | _ => d)) s

/-- RESPONSE_TIMEOUT (R306): 50 ms without a response while the port stays ATTACHED; FAR_ERROR carries the far address, with STATUS 0.
(DEDUCED: LOG 126.) -/
def execResponseTimeout (p tag : Nat) (s : State) : Out :=
  onDev s (fun pl d =>
    match reqOf (portAt d p) tag with
    | none => d
    | some q =>
      if pl.alive && (portAt d p).state == .attached && decide (q.since + 5000000 ≤ pl.now) then
        pumpAll pl (reqFailed p pl.now q 0 stPartner (farError p pl.now 0 q.far (dropReq p tag d)))
      else d)

/-! ### Messages (R321) -/

/-- The receiving MOVEs of a port that have not got their whole message: handle, task, CYCLE of dispatch, begun. -/
def receivers (d : Dev) (p : Nat) : List (Nat × Nat × Nat × Bool) :=
  d.runs.flatMap (fun r =>
    if r.started then
      (r.tasks.filter (fun e =>
        let desc := descOf (graphAt d r.handle) e.1
        e.2.st == .running && dKind desc == 3 && mvSrcSp desc == 3 && mvPort desc == p && !e.2.work.msgDone &&
          !e.2.work.halting && e.2.work.fate.isNone)).map
        (fun e => (r.handle, e.1, r.cycle0 + e.2.s, e.2.work.msgLen != 0))
    else [])

/-- The MOVE a part of a message belongs to: the first part to the one dispatched earliest among those that wait, a later part to the
one that has begun. -/
def receiverOf (d : Dev) (p : Nat) (first : Bool) : Option (Nat × Nat) :=
  let l := (receivers d p).filter (fun x => x.2.2.2 == !first)
  (l.foldl (fun (a : Option (Nat × Nat × Nat × Bool)) x =>
    match a with | none => some x | some y => if x.2.2.1 < y.2.2.1 then some x else some y) none).map (fun x => (x.1, x.2.1))

/-- MESSAGE: a part goes to its MOVE; without a receiving MOVE it waits; a later part whose MOVE is gone is discarded. -/
def execMessage (p : Nat) (s : State) : Out :=
  onDev s (fun pl d =>
    match (portAt d p).msg with
    | [] => d
    | t :: _ =>
      let first := t.attr.testBit 0
      let last := t.attr.testBit 1
      let pop (d : Dev) : Dev := modPort p (fun x => oweCredits 2 t { x with msg := x.msg.drop 1 }) d
      if !pl.alive then d
      else
        match receiverOf d p first with
        | none => if first then d else pop d
        | some (h, u) =>
          let len := mvLen (descOf (graphAt d h) u)
          let off := t.addr.toNat
          let b := t.payload.take (len - off)
          movePump pl h u (modWork h u (fun w => { w with
            held := if b.isEmpty then w.held else tins w.held off b, msgLen := off + t.payload.length, msgDone := last }) (pop d)))

/-! ### Accesses of partners (R307) -/

/-- The range lies within the port's inbound window and one valid near-tier region, on an ATTACHED data port to a PEER or to this
part itself. (DEDUCED: LOG 59.) -/
def inbound (d : Dev) (p a n : Nat) : Bool :=
  let x := portAt d p
  x.state == .attached && x.role == 0 && (x.profile == 1 || x.profile == 3) && decide (x.wbase ≤ a) &&
    decide (a + n ≤ x.wbase + x.wsize) &&
    match regionOf d a with | none => false | some r => decide (a + n ≤ r.base + r.size)

/-- Inbound READ: BULK requests at port 3 (R260, R307). -/
def execTlRead (p : Nat) (s : State) : Out :=
  onDev s (onReq p (fun t => t.ttype == 0x01) (fun pl t d =>
    if !inbound d p t.addr.toNat t.len then respond p pl.now t 0x10 1 [] d
    else openAccess pl 3 (.partner p) .read t.addr.toNat t.len [] (some t) d))

/-- Inbound WRITE. -/
def execTlWrite (p : Nat) (s : State) : Out :=
  onDev s (onReq p (fun t => t.ttype == 0x02) (fun pl t d =>
    if !inbound d p t.addr.toNat t.payload.length then respond p pl.now t 0x11 1 [] d
    else openAccess pl 3 (.partner p) .write t.addr.toNat t.payload.length t.payload (some t) d))

/-- Inbound REDWRITE (Table 11.8), a feature of TL 1.1 (R309); a type without adders, or data that is not whole aligned elements, is not served. -/
def execRedwrite (p : Nat) (s : State) : Out :=
  onDev s (onReq p (fun t => t.ttype == 0x03) (fun pl t d =>
    let a := t.addr.toNat
    let z := redSize t.rtype
    if z = 0 || !((portAt d p).version.any (fun v => decide (1 ≤ v))) || a % z ≠ 0 || t.payload.length % z ≠ 0 then respond p pl.now t 0x11 3 [] d
    else if !inbound d p a t.payload.length then respond p pl.now t 0x11 1 [] d
    else openAccess pl 3 (.partner p) (.reduce t.rtype) a t.payload.length t.payload (some t) d))

/-- Inbound PERSIST: always UNSUPPORTED. -/
def execTlPersist (p : Nat) (s : State) : Out :=
  onDev s (onReq p (fun t => t.ttype == 0x04) (fun pl t d => respond p pl.now t 0x11 3 [] d))

end Sys2Proof.Machine
end

