-- ==== Sys2Proof/Machine/Collectives.lean ====
section
/-! DEFINITION. COLL tasks (12 R322 to R329): the ring, chunk by chunk; segments and their encodings; the arithmetic of each mode. -/

namespace Sys2Proof.Machine

/-! ### The ring (R323, R325) -/

/-- SUB = 2 with an arithmetic operation. -/
def clFast (desc : List W64) : Bool := dSub desc == 2 && clArith desc

/-- EXACT arithmetic. -/
def clExact (desc : List W64) : Bool := dSub desc == 0 && clArith desc

/-- h = floor((N - 1) / 2) in FAST mode, else 0. -/
def clH (desc : List W64) : Nat := if clFast desc then (clN desc - 1) / 2 else 0

/-- The rank a chunk's values come from: its owner, or ROOT. -/
def clOwner (desc : List W64) (c : Nat) : Nat := if clOp desc = 3 then clRoot desc else c

/-- How many ranks after a chunk's owner this rank stands. -/
def clDist (desc : List W64) (c : Nat) : Nat := (clRank desc + clN desc - clOwner desc c) % clN desc

/-- The last distance the gather reaches by way of NEXT. -/
def clReach (desc : List W64) : Nat := clN desc - 1 - clH desc

/-- The steps of this rank: 0 reduce toward NEXT, 1 reduce toward PREV, 2 the own chunk's last addition, 3 gather from PREV, 4 gather from
NEXT, 5 the rank's own data; each with its chunk. -/
def collSteps (desc : List W64) : List (Nat × Nat) :=
  let others := (List.range (clN desc)).filter (fun c => c != clRank desc)
  let h := clH desc
  if clN desc = 1 then [(5, 0)]
  else if clArith desc then
    others.map (fun c => (if clFast desc && decide (clDist desc c ≤ h) then 1 else 0, c)) ++ [(2, clRank desc)] ++
      (if clOp desc = 0 then others.map (fun c => (if clDist desc c ≤ clReach desc then 3 else 4, c)) else [])
  else if clOp desc = 2 then (5, clRank desc) :: others.map (fun c => (3, c))
  else (List.range (clN desc)).map (fun c => (if clRank desc = clRoot desc then 5 else 3, c))

/-! ### Arithmetic (R325) -/

/-- An element as a quire image relative to ANCHOR (R67, R39). -/
def toQuire (desc : List W64) (v : Nat) : Nat × Flags :=
  let w := clQuire desc
  if clFmt desc = 0xC then (v, fNone)
  else
    match decode (fmtOf (clFmt desc)) true v with
    | .nar => (narField w, fNone)
    | .inf _ => quireExc w 0 true
    | x => quireAdd w (clAnchor desc) 0 (numDyadic x)

/-- ⊕ of the mode. -/
def collAdd (desc : List W64) (a b : Nat) : Nat × Flags :=
  if clExact desc then quireSum (clQuire desc) a b
  else if clFmt desc = 0xB then satSum 32 a b
  else fmtSum (fmtOf (clFmt desc)) a b

/-- What the own chunk's sum becomes: EXACT rounds once into FMT, or keeps the raw field. -/
def collRound (desc : List W64) (v : Nat) : Nat × Flags :=
  if clExact desc && clFmt desc != 0xC then
    roundTo (fmtOf (clFmt desc)) true {} false (fieldValue (clQuire desc) v (clAnchor desc))
  else (v, fNone)

/-- Elementwise sums with their flags. -/
def addLists (desc : List W64) (a b : List Nat) : List Nat × Flags :=
  let l := (a.zip b).map (fun x => collAdd desc x.1 x.2)
  (l.map (·.1), l.foldl (fun f x => f ||| x.2) fNone)

/-! ### Segments (R326, R327) -/

/-- Limb i of a quire of w bits. -/
def limb (v i : Nat) : Nat := v / 2 ^ (32 * i) % 2 ^ 32

/-- The sparse-limb form of a quire image. -/
def sparseBytes (w v : Nat) : List Byte :=
  let n := w / 32
  let fill := if v / 2 ^ (w - 1) % 2 = 1 then 2 ^ 32 - 1 else 0
  if v % 2 ^ w = 0 then natLe 2 512
  else
    let lo := ((List.range n).find? (fun i => limb v i != 0)).getD 0
    let hi := ((List.range n).filter (fun i => limb v i != fill)).foldl max lo
    natLe 2 (lo + hi * 16 + (if fill = 0 then 0 else 256)) ++ (upFrom lo (hi + 1 - lo)).flatMap (fun i => natLe 4 (limb v i))

/-- Read one sparse-limb element, with what is left. -/
def sparseRead (w : Nat) (l : List Byte) : Nat × List Byte :=
  let hd := leNat (l.take 2)
  let n := w / 32
  if hd / 512 % 2 = 1 then (0, l.drop 2)
  else
    let lo := hd % 16
    let hi := hd / 16 % 16
    let fill := if hd / 256 % 2 = 1 then 2 ^ 32 - 1 else 0
    let k := hi + 1 - lo
    let mid := leNat ((l.drop 2).take (4 * k))
    let top := (upFrom (hi + 1) (n - (hi + 1))).foldl (fun a i => a + fill * 2 ^ (32 * i)) 0
    ((mid * 2 ^ (32 * lo) + top) % 2 ^ w, l.drop (2 + 4 * k))

/-- The bytes of one element in an encoding: 0 values in FMT, 1 dense quire, 2 sparse-limb. -/
def elemBytesOf (desc : List W64) (enc v : Nat) : List Byte :=
  match enc with
  | 0 => natLe (clSize desc) v
  | 1 => natLe (clQuire desc / 8) v
  | _ => sparseBytes (clQuire desc) v

/-- The elements of a segment, on fuel. -/
def readElems (desc : List W64) (enc : Nat) : Nat → List Byte → List Nat
  | 0, _ => []
  | n + 1, l =>
    match enc with
    | 0 => leNat (l.take (clSize desc)) :: readElems desc enc n (l.drop (clSize desc))
    | 1 => leNat (l.take (clQuire desc / 8)) :: readElems desc enc n (l.drop (clQuire desc / 8))
    | _ => let x := sparseRead (clQuire desc) l; x.1 :: readElems desc enc n x.2

/-- Pack elements into segments of at most 4,096 bytes: first element and its encoded elements. -/
def packSegs (first : Nat) : List (List Byte) → Nat → List (List Byte) → List (Nat × Nat × List Byte)
  | [], k, acc => if acc.isEmpty then [] else [(first, k, acc.flatMap id)]
  | b :: bs, k, acc =>
    if (acc.flatMap id).length + b.length > 4096 then (first, k, acc.flatMap id) :: packSegs (first + k) bs 1 [b]
    else packSegs first bs (k + 1) (acc ++ [b])

/-- Send values of a chunk, from element `first` on, to the ports of one neighbour in turn. -/
def sendVals (now : Nat) (desc : List W64) (ports : List Nat) (phase enc first : Nat) (vals : List Nat) (d : Dev) : Dev :=
  (packSegs first (vals.map (elemBytesOf desc enc)) 0 []).zipIdx.foldl (fun d x =>
    sendTxn (ports.getD (x.2 % max 1 ports.length) 0) now
      { ttype := 0x09, rtype := enc, status := phase, len := x.1.2.2.length, attr := x.1.2.1,
        addr := BitVec.ofNat 64 (clId desc * 2 ^ 40 + x.1.1), payload := x.1.2.2 } d) d

/-- The encoding of quire images on these ports (R326). -/
def quireEnc (d : Dev) (desc : List W64) : Nat :=
  if ((portAt d ((clNext desc).headD 0)).version.getD 0) ≥ 2 then 2 else 1

/-- The encoding of a phase. -/
def encOf (d : Dev) (desc : List W64) (phase : Nat) : Nat :=
  if clExact desc && (phase == 0 || clFmt desc == 0xC) then quireEnc d desc else 0

/-! ### What has been received -/

/-- A part holds an element, of a phase and a direction. -/
def CollPiece.has (x : CollPiece) (phase : Nat) (fromPrev : Bool) (e : Nat) : Bool :=
  x.phase == phase && x.fromPrev == fromPrev && decide (x.first ≤ e) && decide (e < x.first + x.vals.length)

/-- The value received for an element, with the number of its arrival. -/
def gotElem (l : List CollPiece) (phase : Nat) (fromPrev : Bool) (e : Nat) : Option (Nat × Nat) :=
  (l.zipIdx.find? (fun x => x.1.has phase fromPrev e)).map (fun x => (x.1.vals.getD (e - x.1.first) 0, x.2))

/-- All values of a chunk, if they are there. -/
def gotChunk (w : Work) (desc : List W64) (phase : Nat) (fromPrev : Bool) (c : Nat) : Option (List (Nat × Nat)) :=
  (upFrom (clChunk desc c).1 (clChunk desc c).2).mapM (gotElem w.recv phase fromPrev)

/-! ### Steps -/

/-- What a step needs to know. -/
structure CollC where
  p : Plat
  h : Nat
  t : Nat
  timed : Bool
  desc : List W64
deriving DecidableEq, Repr

/-- Note flags. -/
def collFlag (c : CollC) (f : Flags) (d : Dev) : Dev := modWork c.h c.t (fun w => { w with flags := w.flags ||| f }) d

/-- Read elements of FMT at an address; a poisoned beat gives the COLL its end and no elements (R273). -/
def collRead (c : CollC) (a n : Nat) (d : Dev) : Option (List Nat) × Dev :=
  let z := clSize c.desc
  let bad := nearBad d a (n * z)
  let l := elemsOf z (nearBytes d a (n * z))
  let d1 := readEffects c.p 2 0 c.timed a (n * z) d
  match lowDetail bad with
  | some v => (none, modTask c.h c.t (setFate stMem v) d1)
  | none => (some l, d1)

/-- This rank's contribution to a chunk: elements of SRC, as quire images in EXACT mode. -/
def ownVals (c : CollC) (k : Nat) (d : Dev) : Option (List Nat) × Dev :=
  let r := collRead c (clSrc c.desc + (clChunk c.desc k).1 * clSize c.desc) (clChunk c.desc k).2 d
  match r.1 with
  | none => (none, r.2)
  | some l =>
    if clExact c.desc then
      let q := l.map (toQuire c.desc)
      (some (q.map (·.1)), collFlag c (q.foldl (fun f x => f ||| x.2) fNone) r.2)
    else (some l, r.2)

/-- Write values of FMT to DST at an element offset. -/
def collWrite (c : CollC) (first : Nat) (vals : List Nat) (d : Dev) : Dev :=
  let z := clSize c.desc
  let b := vals.flatMap (natLe z)
  if b.isEmpty then d
  else modWork c.h c.t (fun w => { w with pieces := tins w.pieces (first * z) b })
    (writeEffects c.p.cyc 0 c.timed (clDst c.desc + first * z) b d)

/-- Where the own chunk goes in DST: at its start in REDUCE_SCATTER (R323). -/
def ownAt (desc : List W64) (k : Nat) : Nat := if clOp desc = 1 then 0 else (clChunk desc k).1

/-- Send a chunk's values. -/
def sendChunk (c : CollC) (next : Bool) (phase k : Nat) (vals : List Nat) (d : Dev) : Dev :=
  sendVals c.p.now c.desc (if next then clNext c.desc else clPrev c.desc) phase (encOf d c.desc phase) (clChunk c.desc k).1 vals d

/-- One reducing step: the partial received, if this rank is not the first of its chain, plus the own contribution, sent on. -/
def reduceStep (c : CollC) (next starter : Bool) (k : Nat) (w : Work) (d : Dev) : Option Dev :=
  if starter then
    let o := ownVals c k d
    some (match o.1 with | some x => sendChunk c next 0 k x o.2 | none => o.2)
  else
    match gotChunk w c.desc 0 next k with
    | none => none
    | some g =>
      let o := ownVals c k d
      some (match o.1 with
        | some x => let s := addLists c.desc (g.map (·.1)) x; sendChunk c next 0 k s.1 (collFlag c s.2 o.2)
        | none => o.2)

/-- How many segments a chunk of FMT values takes. -/
def segCount (desc : List W64) (k : Nat) : Nat := cdiv (clChunk desc k).2 (4096 / max 1 (clSize desc))

/-- A FAST choice counted for each segment of the own chunk (R325, R339). -/
def tdcColl (c : CollC) (n : Nat) (d : Dev) : Dev :=
  (List.range n).foldl (fun d i => traceRec c.p.cyc 2 0x04 4 (4 * ((dSite c.desc - 0x10) % 4)) (3 + 3 * 16 + i % 1024 * 256) d)
    (modRun c.h (fun r => { r with tdcColl := r.tdcColl + n })
      { d with obs := { d.obs with tdcColl := satAdd 64 d.obs.tdcColl n } })

/-- The own chunk's result from its partials: FAST takes them in the order in which they arrived. -/
def lastAdd (c : CollC) (f : List (Nat × Nat)) (b : Option (List (Nat × Nat))) (x : List Nat) : List Nat × Flags :=
  match b with
  | none => if clFast c.desc then addLists c.desc x (f.map (·.1)) else addLists c.desc (f.map (·.1)) x
  | some b =>
    let firsts := (f.zip b).map (fun y => if y.1.2 < y.2.2 then y.1.1 else y.2.1)
    let seconds := (f.zip b).map (fun y => if y.1.2 < y.2.2 then y.2.1 else y.1.1)
    let s := addLists c.desc x firsts
    let r := addLists c.desc s.1 seconds
    (r.1, s.2 ||| r.2)

/-- The own chunk's last addition; its result is written and, in ALL_REDUCE, sent round (R325). -/
def ownStep (c : CollC) (k : Nat) (w : Work) (d : Dev) : Option Dev :=
  match gotChunk w c.desc 0 true k, (if clH c.desc = 0 then some none else (gotChunk w c.desc 0 false k).map some) with
  | some f, some b =>
    let o := ownVals c k d
    match o.1 with
    | none => some o.2
    | some x =>
      let s := lastAdd c f b x
      let r := s.1.map (collRound c.desc)
      let vals := r.map (·.1)
      let d1 := collWrite c (ownAt c.desc k) vals (collFlag c (r.foldl (fun a y => a ||| y.2) s.2) o.2)
      let d2 := if clH c.desc = 0 then d1 else tdcColl c (segCount c.desc k) d1
      if clOp c.desc = 0 then
        let d3 := sendChunk c true 1 k vals d2
        some (if clH c.desc = 0 then d3 else sendChunk c false 1 k vals d3)
      else some d2
  | _, _ => none

/-- A gathered chunk is written and sent on while ranks beyond want it. -/
def gatherStep (c : CollC) (fromPrev : Bool) (k : Nat) (w : Work) (d : Dev) : Option Dev :=
  match gotChunk w c.desc 1 fromPrev k with
  | none => none
  | some g =>
    let vals := g.map (·.1)
    let i := clDist c.desc k
    let on := if fromPrev then decide (i < clReach c.desc) else decide (i > clN c.desc - clH c.desc)
    let d1 := collWrite c (clChunk c.desc k).1 vals d
    some (if on then sendChunk c fromPrev 1 k vals d1 else d1)

/-- The rank's own data: a copy, or with N = 1 in EXACT arithmetic a quire rounded once (R328); sent on where there are others. -/
def localStep (c : CollC) (k : Nat) (d : Dev) : Dev :=
  let o := if clOp c.desc = 2 then collRead c (clSrc c.desc) (clChunk c.desc k).2 d
    else if clExact c.desc then ownVals c k d
    else collRead c (clSrc c.desc + (clChunk c.desc k).1 * clSize c.desc) (clChunk c.desc k).2 d
  match o.1 with
  | none => o.2
  | some x =>
    let r := x.map (collRound c.desc)
    let vals := r.map (·.1)
    let d1 := collWrite c (clChunk c.desc k).1 vals (collFlag c (r.foldl (fun a y => a ||| y.2) fNone) o.2)
    if clN c.desc = 1 then d1 else sendChunk c true 1 k vals d1

/-- Do one step if what it needs is there. -/
def collStep (c : CollC) (k : Nat × Nat) (w : Work) (d : Dev) : Option Dev :=
  let i := clDist c.desc k.2
  match k.1 with
  | 0 => reduceStep c true (i == clH c.desc + 1) k.2 w d
  | 1 => reduceStep c false (i == clH c.desc) k.2 w d
  | 2 => ownStep c k.2 w d
  | 3 => gatherStep c true k.2 w d
  | 4 => gatherStep c false k.2 w d
  | _ => some (localStep c k.2 d)

/-- The first step that can be done now. -/
def firstStep (c : CollC) (w : Work) (d : Dev) : List (Nat × Nat) → Option ((Nat × Nat) × Dev)
  | [] => none
  | k :: ks => match collStep c k w d with | some d1 => some (k, d1) | none => firstStep c w d ks

/-- The near-tier ranges a step touches: this rank's contribution, what it writes. -/
def stepRanges (desc : List W64) (k : Nat × Nat) : List (Nat × Nat) :=
  let z := clSize desc
  let c := clChunk desc k.2
  let own := (clSrc desc + c.1 * z, c.2 * z)
  match k.1 with
  | 0 => [own]
  | 1 => [own]
  | 2 => [own, (clDst desc + ownAt desc k.2 * z, c.2 * z)]
  | 3 => [(clDst desc + c.1 * z, c.2 * z)]
  | 4 => [(clDst desc + c.1 * z, c.2 * z)]
  | _ => [if clOp desc = 2 then (clSrc desc, c.2 * z) else own, (clDst desc + c.1 * z, c.2 * z)]

/-- A step's requests go to their channels as BULK requests at port 3 (Table 11.6). -/
def askCollStep (c : CollC) (k : Nat × Nat) (d : Dev) : Dev :=
  submitAll c.p 3 (fun _ => 3) (.task c.h c.t false) c.h ((stepRanges c.desc k).filter (fun x => x.2 != 0))
    (modWork c.h c.t (fun w => { w with askStep := some k }) d)

/-- The step to be done next: the one whose requests have been made, else the first that can be done. -/
def nextStep (c : CollC) (w : Work) (d : Dev) : Option ((Nat × Nat) × Dev) :=
  match w.askStep with
  | some k => (collStep c k w d).map (fun d1 => (k, d1))
  | none => firstStep c w d ((collSteps c.desc).filter (fun k => !w.steps.contains k))

/-- Do every step that can be done, on fuel; where accesses queue, a step is done when its requests have been served (R260). -/
def collGo : Nat → CollC → Dev → Dev
  | 0, _, d => d
  | f + 1, c, d =>
    match runOf d c.h with
    | none => d
    | some r =>
      let w := (taskAt r c.t).work
      if w.fate.isSome then d
      else
        match nextStep c w d with
        | none => d
        | some (k, d1) =>
          if queues d c.timed && w.askStep.isNone then collGo f c (askCollStep c k d)
          else if w.askStep.isSome && waits d (.task c.h c.t false) then d
          else collGo f c (modWork c.h c.t (fun w => { w with steps := w.steps ++ [k], todo := w.todo - 1, askStep := none }) d1)

/-- Carry a COLL on. -/
def collPump (p : Plat) (h t : Nat) (d : Dev) : Dev :=
  let g := graphAt d h
  let desc := descOf g t
  collGo (2 * (collSteps desc).length + 1) ⟨p, h, t, g.still && isTimed desc, desc⟩ d

/-! ### Dispatch (R324) -/

/-- The running COLLs: handle, task. -/
def runningColls (d : Dev) : List (Nat × Nat) :=
  d.runs.flatMap (fun r => if r.started then
    (r.tasks.filter (fun e => e.2.st == .running && dKind (descOf (graphAt d r.handle) e.1) == 4)).map (fun e => (r.handle, e.1)) else [])

/-- The ports of a set lead to one partner. -/
def onePartner (d : Dev) (ps : List Nat) : Bool := ps.all (fun p => (portAt d p).partner == (portAt d (ps.headD 0)).partner)

/-- The end a COLL has at dispatch, if any. -/
def collFate (d : Dev) (h t : Nat) (desc : List W64) : Option (Nat × Nat) :=
  let ps := (List.range 48).filter (fun p => (clNext desc).contains p || (clPrev desc).contains p)
  if !(clRanges desc).all (fun r => covered d r.1 r.2) then some (stBadParam, 0)
  else
    match ps.find? (fun p => (portAt d p).state != .attached) with
    | some p => some (stLinkDown, farDetail p 0)
    | none =>
      if ps.any (fun p => (portAt d p).role != 0 || (portAt d p).profile != 1) || !onePartner d (clNext desc) ||
          !onePartner d (clPrev desc) || ps.any (fun p => (portAt d p).version != (portAt d (ps.headD 0)).version) ||
          (runningColls d).any (fun x => x != (h, t) && clId (descOf (graphAt d x.1) x.2) == clId desc) then
        some (stBadParam, 0)
      else none

/-- WORK of an EXACT collective holds what the spec does not state: free bytes, the same for equal inputs (R330). (DEDUCED:
LOG 57.) -/
def scratchWork (desc : List W64) (d : Dev) : Dev :=
  let src := nearBytes d (clSrc desc) (clSrcLen desc)
  nearWrite (clWork desc) ((List.range (clWorkLen desc)).map (Config.collWork desc src)) d

/-- The most segments a chunk takes: of quire images in EXACT mode, dense or of that size at most, else of values of FMT (R326, R327). -/
def maxSegs (desc : List W64) : Nat :=
  let z := if clExact desc then clQuire desc / 8 + 2 else clSize desc
  (List.range (clN desc)).foldl (fun a c => max a (cdiv (clChunk desc c).2 (4096 / max 1 z))) 0

/-- Dispatch a COLL of one SUB. -/
def collRun (h t sub : Nat) (s : State) : Out :=
  onDev s (dispatchIf h t (fun desc => dKind desc == 4 && dSub desc == sub) (fun p _ _ desc d =>
    match collFate d h t desc with
    | some e => failAtDispatch h t e.1 e.2 d
    | none => collPump p h t (scratchWork desc (modWork h t (fun w => { w with
        todo := (collSteps desc).length, segs := maxSegs desc }) d))))

/-- COLL in EXACT mode. -/
def execCollExact (h t : Nat) (s : State) : Out := collRun h t 0 s

/-- COLL in ORDERED mode. -/
def execCollOrdered (h t : Nat) (s : State) : Out := collRun h t 1 s

/-- COLL in FAST mode. (DEDUCED: LOG 58.) -/
def execCollFast (h t : Nat) (s : State) : Out := collRun h t 2 s

/-! ### Segments received, cancel, completion (R327 to R329) -/

/-- The running COLL of a COLL_ID that uses a port. -/
def collOn (d : Dev) (p id : Nat) : Option (Nat × Nat) :=
  (runningColls d).find? (fun x =>
    let desc := descOf (graphAt d x.1) x.2
    clId desc == id && ((clNext desc).contains p || (clPrev desc).contains p))

/-- COLL_ID of a segment. -/
def segId (t : Txn) : Nat := t.addr.toNat / 2 ^ 40

/-- COLLSEG: the segment at the head of the COLL class goes to the running COLL it belongs to, or waits; an encoding that the agreed version
does not have is discarded (R309). (DEDUCED: LOG 123.) -/
def execCollseg (p : Nat) (s : State) : Out :=
  onDev s (fun pl d =>
    match (portAt d p).coll with
    | [] => d
    | t :: _ =>
      if pl.alive && decide (2 ≤ t.rtype) && !((portAt d p).version.any (fun v => decide (2 ≤ v))) then
        modPort p (fun y => oweCredits 3 t { y with coll := y.coll.drop 1 }) d
      else
      match (if pl.alive then collOn d p (segId t) else none) with
      | none => d
      | some (h, u) =>
        let desc := descOf (graphAt d h) u
        let x : CollPiece := { phase := if clArith desc then t.status % 2 else 1, fromPrev := (clPrev desc).contains p,
                               first := t.addr.toNat % 2 ^ 40, vals := readElems desc t.rtype t.attr t.payload }
        collPump pl h u (modWork h u (fun w => { w with recv := w.recv ++ [x] })
          (modPort p (fun y => oweCredits 3 t { y with coll := y.coll.drop 1 }) d)))

/-- Discard the held segments of a COLL_ID on every port; their credits go back. -/
def discardSegs (id : Nat) (d : Dev) : Dev :=
  { d with links := { d.links with ports := d.links.ports.map (fun e =>
      (e.1, (e.2.coll.filter (fun t => segId t == id)).foldl (fun x t => oweCredits 3 t x)
        { e.2 with coll := e.2.coll.filter (fun t => segId t != id) })) } }

/-- COLL_CANCEL. -/
def execCollCancel (p : Nat) (s : State) : Out :=
  onDev s (onReq p (fun t => mgmtSub t == 0x06) (fun _ t d =>
    let id := leNat (t.payload.take 3)
    match (runningColls d).find? (fun x => clId (descOf (graphAt d x.1) x.2) == id) with
    | some (h, u) => modTask h u (setFate stPartner (farDetail p 0)) d
    | none => discardSegs id d))

/-- Every step is done and no segment of the COLL waits to be sent. -/
def collDone (d : Dev) (desc : List W64) (w : Work) : Bool :=
  (collSteps desc).all (fun k => w.steps.contains k) &&
    (clNext desc ++ clPrev desc).all (fun p => !((portAt d p).txColl.any (fun t => segId t == clId desc)))

/-- COLL_COMPLETE (R329): with N = 1 not before S + D. -/
def execCollComplete (h t : Nat) (s : State) : Out :=
  onDev s (onRunning h t (fun desc => dKind desc == 4) (fun p r _ desc x d =>
    match x.work.fate with
    | some e =>
      if runCycle p r < x.s + 1 then d
      else finishTaskAt p h t (if x.work.atDispatch then x.s + 1 else runCycle p r) e.1 e.2 x.work.flags.toNat d
    | none =>
      let due := x.s + (if clN desc = 1 then collLength d desc else 1)
      if !collDone d desc x.work || runCycle p r < due then d
      else
        finishTaskAt p h t (if clN desc = 1 ∧ isStill d r then due else runCycle p r) (flagStatus (~~~ fInexact) x.work.flags)
          x.work.flags.toNat x.work.flags.toNat d))

end Sys2Proof.Machine
end

