-- ==== Sys2Proof/Machine/Runs.lean ====
section
/-! DEFINITION. Runs (09 R213 to R226, R466; 13 R334 to R350): taking, waiting, starting, barriers and ingress points, the limits of tasks,
the end of a run and its record, GRAPH_ABORT; maintenance points (11 R280). -/

namespace Sys2Proof.Machine

/-! ### Taking a GRAPH_RUN (R466) -/

/-- GRAPH_RUN's checks when it is taken; then it waits. -/
def graphRunBody (now id ring : Nat) (pkt : Packet) (d : Dev) : Dev :=
  let h := par pkt 0 1
  let g := graphAt d h
  let record := par pkt 8 8
  if h > 63 || g.state == .free || (record != 0 && decide (par pkt 0x10 4 < 256 + 32 * g.tasks.length)) then
    complete now id stBadParam 0 d
  else if g.state == .invalid then complete now id stGeometry 0 d
  else if resourceGone d g then complete now id stBusy 0 d
  else if isPaired d && !lockGraphOk d g then complete now id stBadParam 0 d
  else
    let r : Run := { handle := h, pkt := some id, ring := ring, record := BitVec.ofNat 64 record }
    onLs (fun l => { l with state := if l.state = .frozen then .paired else l.state })
      (modRing ring (fun x => { x with blocked := true }) { d with runs := d.runs ++ [r] })

/-- GRAPH_RUN. -/
def execGraphRun (ring : Nat) (pkt : Packet) (s : State) : Out :=
  onDev s (fun p => takePacket ring pkt (pkOpcode pkt == 0x11) (fun id d => graphRunBody p.now id ring pkt d) p)

/-! ### Starting a run (R214, R215, R466) -/

/-- Two graphs share a die, a hub or a port. -/
def shareResources (a b : Graph) : Bool :=
  (a.dieMask &&& b.dieMask) != 0#16 || (a.quadMask &&& b.quadMask) != 0#4 || (a.portMask &&& b.portMask) != 0#48

/-- The replay of a restore is under way. -/
def restoring (d : Dev) : Bool := match d.host.longOp with | some (_, .restore _) => true | _ => false

/-- An SFU activation waits (R436, R441). -/
def sfuWaits (d : Dev) : Bool := match d.host.longOp with | some (_, .fwCommit _ _ _) => true | _ => false

/-- A SECURE_ERASE is under way: the stores a run would use are being cleared (R396). -/
def erasing (d : Dev) : Bool := match d.host.longOp with | some (_, .secureErase) => true | _ => false

/-- R214: nothing in progress keeps the run from starting. A paired part starts one run at a time; during a restore only its replay
starts (R371); while an SFU activation waits none starts (R436). -/
def mayStart (d : Dev) (r : Run) : Bool :=
  let g := graphAt d r.handle
  g.state != .running && g.state != .aborting && (r.pkt.isNone || !restoring d) && !sfuWaits d && !erasing d && !d.fw.bootWaits &&
    (match startingRun d with | some x => x == r | none => true) &&
    d.runs.all (fun x => !x.started ||
      (!shareResources g (graphAt d x.handle) && !g.still && !(graphAt d x.handle).still))

/-- Ring priority: the admin ring, then work rings 7 down to 0 (R386). (DEDUCED: LOG 17.) -/
def ringBefore (a b : Run) : Bool := decide (a.ring > b.ring)

/-- The waiting run of a handle that comes first. -/
def waitingRun (d : Dev) (h : Nat) : Option Run :=
  (d.runs.filter (fun r => !r.started && r.handle == h)).foldl (fun a r =>
    match a with | none => some r | some x => if ringBefore r x then some r else some x) none

/-- A waiting run of higher priority that could start now wants the same resources. (DEDUCED: LOG 62.) -/
def outranked (d : Dev) (r : Run) : Bool :=
  d.runs.any (fun x => !x.started && !(x == r) && ringBefore x r && mayStart d x &&
    (shareResources (graphAt d x.handle) (graphAt d r.handle) || (graphAt d x.handle).still || (graphAt d r.handle).still))

/-- Some channel waits for a maintenance point (R280). -/
def maintPending (d : Dev) : Bool := d.near.chans.any (fun e => e.2.retrainPend || !e.2.repairPend.isEmpty)

/-- Maintenance is under way. -/
def maintBusy (d : Dev) : Bool := d.near.chans.any (fun e => e.2.retraining.isSome || !e.2.bankBusy.isEmpty)

/-- Begin the pending maintenance of every channel (R280, R283). -/
def startMaint (p : Plat) (d : Dev) : Dev :=
  (d.near.chans.filter (fun e => e.2.retrainPend || !e.2.repairPend.isEmpty)).foldl (fun d e =>
    let d1 := e.2.repairPend.foldl (fun d br => repairRow p.now e.1 br.1 br.2 d)
      (modChan e.1 (fun c => { c with retrainPend := false, repairPend := [] }) d)
    if e.2.retrainPend then startRetrain p.cyc e.1 .maint d1 else d1) d

/-- A channel is in the middle of a refresh window of 64 cycles (R217, R274). -/
def refreshBusy (p : Plat) (d : Dev) : Bool :=
  d.near.chans.any (fun e => decide (e.2.refreshCyc ≠ 0) && decide (p.cyc < e.2.refreshCyc + 64))

/-- No tile of the graph's dies has run a task during the 1,408 cycles before (R215). -/
def diesIdle (p : Plat) (d : Dev) (g : Graph) : Bool :=
  d.tiles.all (fun e => !g.dieMask.toNat.testBit (dieOfPhys e.1) ||
    match e.2.lastRan with | none => true | some c => decide (c + 1408 < p.cyc))

/-- Run cycle 0 in the tiles: SRAM and counters are cleared (R215, R341). -/
def clearTiles (g : Graph) (d : Dev) : Dev :=
  { d with tiles := d.tiles.map (fun e =>
      if g.dieMask.toNat.testBit (dieOfPhys e.1) then
        (e.1, { e.2 with sram := [], sram1 := [], sram2 := [], cnt := List.replicate 7 0, cntAt := [none, none, none, none],
                         haltRun := [(0, 0), (0, 0)] })
      else e) }

/-- A SEGMENT_START record of a Still-mode run; hub q writes to the ring of die 4q. (DEDUCED: LOG 61.) -/
def traceSegment (p : Plat) (hub segment slip : Nat) (d : Dev) : Dev :=
  traceRec p.cyc 1 0x03 0 (4 * (hub % 4)) (segment + min slip (2 ^ 32 - 1) * 2 ^ 32) d

/-- Run cycle 0. LS_STAT.STATE = 3 ends with the GRAPH_RUN (R350). -/
def startRun (p : Plat) (r : Run) (d0 : Dev) : Dev :=
  let d := if r.pkt.isSome then onLs (fun l => { l with state := if l.state = .frozen then .paired else l.state }) d0 else d0
  let h := r.handle
  let g := graphAt d h
  let wave := g.still || diesIdle p d g
  let lock : Option Lock := if r.lsStart then some { started := true, heard := p.now } else none
  let r1 : Run := { r with
    started := true, cycle0 := p.cyc, elapsed0 := p.now, partNid := d.fw.nid, geomGen := d.geom.gen, regionGen := d.near.regionGen,
    covered := g.nid == d.fw.nid && !g.override, wave := wave, rowsOut := if wave then 1 else 50, lock := lock }
  let d1 := { d with runs := d.runs.map (fun x => if x == r then r1 else x) }
  let d2 := modGraph h (fun g => { g with state := .running, runs := satAdd 32 g.runs 1, planGen := d.near.regionGen }) d1
  let d3 := if r.pkt.isSome then modRing r.ring (fun x => { x with blocked := false }) d2 else d2
  let d4 := if r.lsStart then onLs (fun l => { l with runSeq := l.runSeq + 1#32, gotStart := none }) d3 else d3
  let d5 := onNear (fun n => { n with chans := n.chans.map (fun e => (e.1, fitLines g.still e.2)) }) (clearTiles g d4)
  if g.still then traceSegment p ((bitsOf 4 g.quadMask.toNat).headD 0) 0 0 d5 else d5

/-- Checks 5 to 8 of R466 that a run fails, if any. -/
def startFail (d : Dev) (r : Run) : Option (Nat × Nat) :=
  let g := graphAt d r.handle
  if g.state = .free then some (stBadParam, 0)
  else if g.state = .invalid then some (stGeometry, 0)
  else if r.drainHit then some (stBusy, 0)
  else if g.nid ≠ d.fw.nid ∧ !g.override then some (stNid, 0)
  else if g.still ∧ g.planGen ≠ d.near.regionGen then (planFail d g).map (fun t => (stBadParam, t))
  else none

/-- In lock-step: send LS_START once, then start when the partner's agrees (R347). -/
def lockStart (p : Plat) (r : Run) (d : Dev) : Dev :=
  let l := d.obs.ls
  if !r.lsStart then
    let r1 := { r with lsStart := true, lsSince := p.now }
    let d1 := sendTxn l.port p.now (mgmtTxn 0x11 (natLe 8 (graphAt d r.handle).imageCrc.toNat ++ natLe 4 l.runSeq.toNat))
      { d with runs := d.runs.map (fun x => if x == r then r1 else x) }
    match l.gotStart with
    | none => d1
    | some v => if startAgrees d1 r1 v then startRun p r1 d1 else failStart p.now r1 stBadParam 0 (onLs (fun l => { l with gotStart := none }) d1)
  else
    match l.gotStart with
    | none => d
    | some v => if startAgrees d r v then startRun p r d else failStart p.now r stBadParam 0 (onLs (fun l => { l with gotStart := none }) d)

/-- RUN_START (R214, R215, R466): the Still-mode gap takes the pending maintenance first (R280). -/
def execRunStart (h : Nat) (s : State) : Out :=
  onDev s (fun p d =>
    match waitingRun d h with
    | none => d
    | some r =>
      if !(p.serving && mayStart d r) || outranked d r then d
      else
        match startFail d r with
        | some e => failStart p.now r e.1 e.2 d
        | none =>
          if (graphAt d h).still && maintPending d then startMaint p d
          else if (graphAt d h).still && (maintBusy d || refreshBusy p d) then d
          else if isPaired d && r.pkt.isSome then lockStart p r d
          else startRun p r d)

/-- ROW_RELEASE (R215): logical row r on every die of the run at run cycle 1,408 r. -/
def execRowRelease (h row : Nat) (s : State) : Out :=
  onDev s (fun p d =>
    match runOf d h with
    | none => d
    | some r =>
      if p.alive && r.wave && r.rowsOut == row && decide (row < 50) && decide (1408 * row ≤ runCycle p r) then
        modRun h (fun r => { r with rowsOut := row + 1 }) d
      else d)

/-! ### Barriers and ingress points (R216, R217) -/

/-- BARRIER: dispatched and complete in one cycle (Table 9.9). -/
def execBarrier (h t : Nat) (s : State) : Out :=
  onDev s (dispatchIf h t (fun desc => dKind desc == 6 && dSub desc == 0) (fun p _ _ _ d => endTask p h t stOk 0 0 d))

/-- BARRIER INGRESS: in Still mode it waits for INGRESS_COMPLETE; Flow mode has no segments, and it completes at once. -/
def execBarrierIngress (h t : Nat) (s : State) : Out :=
  onDev s (dispatchIf h t (fun desc => dKind desc == 6 && dSub desc == 1) (fun p _ g _ d =>
    if g.still then d else endTask p h t stOk 0 0 d))

/-- MARK MAINT (R280): the pending retrains and repairs begin; in Flow mode it is an ordinary barrier (R216). -/
def execMarkMaint (h t : Nat) (s : State) : Out :=
  onDev s (dispatchIf h t (fun desc => dKind desc == 5 && dSub desc == 3) (fun p _ g _ d =>
    if g.still then startMaint p d else endTask p h t stOk 0 0 d))

/-- What an ingress point's own kind still waits for. -/
def ingressReady (d : Dev) (desc : List W64) (x : TaskRun) : Bool :=
  if dKind desc = 5 ∧ dSub desc = 0 then x.work.markStage == 3
  else if dKind desc = 5 then !maintPending d && !maintBusy d
  else true

/-- Count slip on the device and on the run (R339). -/
def addSlip (h n : Nat) (d : Dev) : Dev :=
  modRun h (fun r => { r with slipIngress := r.slipIngress + n })
    { d with obs := { d.obs with slipIngress := satAdd 64 d.obs.slipIngress n } }

/-- A Still-mode segment is over in this cycle: its slip counts, the next one starts (R217). -/
def nextSegment (p : Plat) (h : Nat) (desc : List W64) (d : Dev) : Dev :=
  match runOf d h with
  | none => d
  | some r =>
    let c := runCycle p r
    let slip := c - (r.segStart + segLen (graphAt d h) r.segment)
    traceSegment p (dSite desc - 0x10) (r.segment + 1) slip
      (modRun h (fun r => { r with segment := r.segment + 1, segStart := c, slots := [], placed := [] }) (addSlip h slip d))

/-- INGRESS_COMPLETE (R217, R349): entries go out, then the point completes in the first cycle in which its conditions hold. -/
def execIngressComplete (h t : Nat) (s : State) : Out :=
  onDev s (onRunning h t isIngress (fun p _ g desc x d =>
    let d1 := compareAll p h (flushEntries p.now h d)
    match runOf d1 h with
    | none => d1
    | some r =>
      let ready := (preds g t).all (fun u => (taskAt r u).st == .ended) && ingressReady d1 desc x &&
        (!g.still || (decide (r.rowsOut = 50) && !refreshBusy p d1 && lockClear r g (some t)))
      if !ready then d1
      else
        match x.work.fate with
        | some e => endTask p h t e.1 e.2 0 d1
        | none => let d2 := endTask p h t stOk 0 0 d1; if g.still && !r.stopped then nextSegment p h desc d2 else d2))

/-! ### Limits (R220, R221) -/

/-- The lowest logical number among the tiles of a TILE task that still run; 0 for other kinds. -/
def slowTile (d : Dev) (desc : List W64) : Nat :=
  if dKind desc ≠ 1 then 0
  else (lowest (((taskTiles d desc).filterMap id).filterMap (fun k =>
    let x := tget {} d.tiles k
    if x.over then none else some x.number))).getD 0

/-- A tile of the task stopped at an uncorrectable error, or the task's end is MEM_UNCORRECTABLE: exempt from R220. -/
def declExempt (d : Dev) (desc : List W64) (x : TaskRun) : Bool :=
  (match x.work.fate with | some e => e.1 == stMem || x.work.atDispatch | none => false) ||
    (dKind desc == 1 && ((taskTiles d desc).filterMap id).any (fun k =>
      let y := tget {} d.tiles k
      y.phase == .stopped .uncorrectable || y.phase == .stopped .nearUncorrectable))

/-- A TILE task whose tiles had all reached their end before S + DECL is complete by then, though its completion is still to be
taken (R209, R220). -/
def completeBy (d : Dev) (r : Run) (desc : List W64) (x : TaskRun) : Bool :=
  dKind desc == 1 && ((taskTiles d desc).filterMap id).all (fun k =>
    let y := tget {} d.tiles k
    y.over && decide (y.endCycle - r.cycle0 - r.slipPause < x.s + dDecl desc))

/-- DECL_EXPIRY (R220): a timed task is not complete at S + DECL; the run breaks. -/
def execDeclExpiry (h t : Nat) (s : State) : Out :=
  onDev s (onRunning h t isTimed (fun p r g desc x d =>
    if g.still && dDecl desc != 0 && decide (x.s + dDecl desc ≤ runCycle p r) && !declExempt d desc x &&
        !completeBy d r desc x then
      breakRun p h t (2 ^ 31 + slowTile d desc) d
    else d))

/-- TASK_TIMEOUT (R221): its tiles stop, its transfers are abandoned. -/
def execTaskTimeout (h t : Nat) (s : State) : Out :=
  onDev s (onRunning h t (fun _ => true) (fun p r g desc x d =>
    if g.timeout != 0 && (!g.still || isUntimed desc) && decide (x.s + g.timeout < runCycle p r) then
      dropRequests h (fun u => u == t) (freeTiles p h (fun u => u != t)
        (cutTask p h t stTimeout (2 ^ 31 + slowTile d desc) d))
    else d))

/-! ### The end of a run (R225, R334, R343, R344) -/

/-- Table 9.11. -/
def statusOrder : List Nat :=
  [stPower, stMem, stDiverge, stSnapshot, stBreak, stLinkDown, stPartner, stTimeout, stReload, stBadParam, stSkew, stMiss, stOkFlags]

/-- The task's status takes part in the run status. -/
def counts (x : TaskRun) : Bool := x.st == .ended || (x.st == .stopped && x.status == stPower)

/-- Status and DETAIL of a run; POWER_FAIL_ABORT whenever the supply failed during it (R398). -/
def runStatus (g : Graph) (r : Run) : Nat × Nat :=
  let ab := if r.aborted then 2 ^ 31 else 0
  let first (st : Nat) : Nat := ((List.range g.tasks.length).find? (fun t => counts (taskAt r t) && (taskAt r t).status == st)).getD 0
  if r.powerFail then (stPower, ab + first stPower)
  else
    match statusOrder.find? (fun st => r.tasks.any (fun e => counts e.2 && e.2.status == st)) with
    | none => (stOk, ab)
    | some st => (st, ab + first st)

/-- The 32 bytes of a task entry (Table 13.5). -/
def taskEntry (x : TaskRun) : List Byte :=
  let st := match x.st with | .ended => 1 | .stopped => 2 | _ => 0
  let status := if st = 1 ∨ st = 2 then x.status else 0
  let own (n : Nat) : Nat := if st = 1 then n else 0
  natLe 8 (st * 2 ^ 62 + status * 2 ^ 32 + own x.detail) ++ natLe 8 (if st = 0 then 0 else x.s % 2 ^ 48) ++
    natLe 8 (own (x.e % 2 ^ 48)) ++ natLe 8 (own x.digest.toNat)

/-- FLAGS of the run record (R344). -/
def recordFlags (g : Graph) (r : Run) : Nat :=
  let f (b : Bool) (n : Nat) : Nat := if b then n else 0
  f r.covered 1 + f (g.still && r.slipPause == 0 && !r.broken && !r.aborted) 2 +
    f (r.tdcSluice == 0 && r.tdcNear == 0 && r.tdcLink == 0 && r.tdcColl == 0) 4 + f r.aborted 8 + f r.lock.isSome 16 + f g.still 32

/-- SEGMENTS of the run record: segments opened, none in Flow mode. (DEDUCED: LOG 60.) -/
def segmentsField (g : Graph) (r : Run) : Nat := if g.still then r.segment + 1 else 0

/-- The run record (Tables 13.4, 13.5). -/
def runRecord (p : Plat) (d : Dev) (g : Graph) (r : Run) (segs : Nat) : List Byte :=
  let st := runStatus g r
  let ls := lockReport d r
  let entries := (List.range g.tasks.length).map (fun t => taskAt r t)
  let digs := entries.flatMap (fun x => natLe 8 (if x.st = .ended then x.digest.toNat else 0))
  natLe 4 0x52525A44 ++ natLe 2 1 ++ natLe 1 r.handle ++ natLe 1 (recordFlags g r) ++ natLe 2 st.1 ++ natLe 2 0 ++ natLe 4 st.2 ++
    natLe 8 r.partNid.toNat ++ natLe 8 g.nid.toNat ++ natLe 8 g.imageCrc.toNat ++ natLe 4 r.geomGen.toNat ++
    natLe 4 r.regionGen.toNat ++ natLe 8 r.elapsed0 ++ natLe 8 p.now ++ natLe 8 (runCycle p r) ++ natLe 8 g.stillLen ++
    natLe 4 segs ++ natLe 4 0 ++ natLe 8 r.slipIngress ++ natLe 8 r.slipPause ++ natLe 8 r.tdcSluice ++ natLe 8 r.tdcNear ++
    natLe 8 r.tdcLink ++ natLe 8 r.tdcColl ++ natLe 4 ls.1 ++ natLe 4 ls.2.1 ++ natLe 8 ls.2.2.1 ++ natLe 8 ls.2.2.2 ++
    natLe 8 (crc64 digs) ++ List.replicate 88 0#8 ++ entries.flatMap taskEntry

/-- OXB_STAT.WAITING follows the marks that still run. -/
def markWaits (d : Dev) : Bool :=
  d.runs.any (fun r => r.started && r.tasks.any (fun e => e.2.st == .running && e.2.work.waitSince != 0))

/-- No run is in progress any more: what a reset left to be activated takes effect (R337). -/
def afterRuns (now : Nat) (d : Dev) : Dev :=
  if anyRun d then d
  else if d.fw.bootWaits then bootRom now (draining d) d
  else if draining d then d else oxbowBoot now d

/-- Close a run: its record, its completion, the aborts that waited, the graph's state (R225, R226, R27), LOCKSTEP_DIVERGED (R350). A run
whose packets a reset dropped posts nothing, and its graph is unloaded (Table 15.11). -/
def closeRun (p : Plat) (h : Nat) (d : Dev) : Dev :=
  match runOf d h with
  | none => d
  | some r =>
    let g := graphAt d h
    let st := runStatus g r
    let d1 := if r.record = 0#64 ∨ r.silent ∨ r.pkt.isNone then d else hostWrite r.record.toNat (runRecord p d g r (segmentsField g r)) d
    let d2 := freeTiles p h (fun _ => false) { d1 with runs := d1.runs.filter (fun x => !(x.started && x.handle == h)) }
    let d3 := onOxb (fun o => { o with waiting := markWaits d2 }) d2
    let d4 := if r.silent then { d3 with graphs := tdel d3.graphs h }
      else modGraph h (fun g => { g with state := if g.invalidate then .invalid else .loaded, invalidate := false }) d3
    let d5 := if r.silent then d4
      else if r.pkt.isNone then onRestore (fun x => { x with replayed := some st }) d4
      else r.aborts.foldl (fun d id => complete p.now id stOk 0 d) (completeOpt p.now r.pkt st.1 st.2 d4)
    let ls := lockReport d r
    if (r.lock.map (·.frozen)).getD false && !r.silent then
      afterRuns p.now (postEvent p.now 0x0041 (natLe 4 h ++ natLe 4 ls.1 ++ natLe 4 ls.2.1) d5)
    else afterRuns p.now d5

/-- Slip between the last segment's end and the end of the run (R334). -/
def endSlip (p : Plat) (h : Nat) (d : Dev) : Dev :=
  match runOf d h with
  | none => d
  | some r =>
    let g := graphAt d h
    if g.still && !r.aborted && !r.broken then addSlip h (runCycle p r - (r.segStart + segLen g r.segment)) d else d

/-- No task runs, and none will (R224, R225). -/
def runOver (g : Graph) (r : Run) : Bool :=
  !r.tasks.any (fun e => e.2.st == .running) &&
    (r.stopped || (List.range g.tasks.length).all (fun t => (taskAt r t).st == .ended))

/-- RUN_END (R225): in lock-step the entries and the end are exchanged first (R349, R350). -/
def execRunEnd (h : Nat) (s : State) : Out :=
  onDev s (fun p d =>
    match runOf d h with
    | none => d
    | some r =>
      if !(p.alive && r.pausedAt.isNone && runOver (graphAt d h) r) then d
      else
        let x := lockEnd p h d
        if x.1 then closeRun p h (endSlip p h x.2) else x.2)

/-! ### GRAPH_ABORT (R226, Table 9.6) -/

/-- A COLL stops after the segments it has sent; the partners are told (R226, R327). -/
def haltColl (p : Plat) (h t : Nat) (desc : List W64) (d : Dev) : Dev :=
  dropAsks h (fun u => u == t) (sendCancel p.now desc (modTask h t (fun x => { x with st := .stopped }) (collPump p h t d)))

/-- A snapshot whose loss had not been read when a run with a MARK SNAPSHOT is aborted gets no verify block (R360). (DEDUCED: LOG 129.) -/
def unverified (g : Graph) (d : Dev) : Dev :=
  if (lossOf g).isSome then
    modSnap (fun s => if s.loss.isSome then s
      else { s with noVerify := true, stage := if s.committed then 6 else s.stage }) d
  else d

/-- Abort a run (R226): dispatch stops now; MOVEs and COLLs stop after the transfer units that have started, everything else in the
next cycle. A run whose last task has completed ends without it. -/
def abortRun (p : Plat) (h : Nat) (d : Dev) : Dev :=
  match runOf d h with
  | none => d
  | some r =>
    let g := graphAt d h
    if runOver g r then d
    else
      let running := (r.tasks.map (·.1)).filter (fun t => (taskAt r t).st == .running)
      modGraph h (fun g => if g.state = .running then { g with state := .aborting } else g)
        (running.foldl (fun d t =>
            if dKind (descOf g t) = 3 then haltMove p h t (descOf g t) d
            else if dKind (descOf g t) = 4 then haltColl p h t (descOf g t) d else d)
          (unverified g (modRun h (fun r => { r with aborted := true, stopped := true, stopAt := some (p.cyc + 1) }) d)))

/-- GRAPH_ABORT's effect. -/
def graphAbortBody (p : Plat) (id : Nat) (pkt : Packet) (d : Dev) : Dev :=
  let h := par pkt 0 1
  let queue (d : Dev) : Dev := modRun h (fun r => { r with aborts := r.aborts ++ [id] }) d
  match (graphAt d h).state with
  | .free => complete p.now id stBadParam 0 d
  | .loaded => complete p.now id stOk 0 d
  | .invalid => complete p.now id stOk 0 d
  | .aborting => queue d
  | .running => abortRun p h (queue d)

/-- GRAPH_ABORT. -/
def execGraphAbort (ring : Nat) (pkt : Packet) (s : State) : Out :=
  onDev s (fun p => takePacket ring pkt (pkOpcode pkt == 0x12) (fun id d => graphAbortBody p id pkt d) p)

end Sys2Proof.Machine
end

