-- ==== Sys2Proof/Machine/Channels.lean ====
section
/-! DEFINITION. The channel controllers' own steps (11): serving queued requests, promotion, refresh and background scrub,
retrains, the end of a row remap. -/

namespace Sys2Proof.Machine

/-! ### Queues (R260, R261) -/

/-- A refresh window of the channel is open (R274). -/
def inRefresh (p : Plat) (c : Chan) : Bool := decide (c.refreshCyc ≠ 0) && decide (p.cyc < c.refreshCyc + 64)

/-- The bank of a request is unavailable (R281). -/
def bankWaits (c : Chan) (r : ChanReq) : Bool := c.bankBusy.any (fun b => b.1 == (bankRow r.choff).1)

/-- A request may start: it has arrived in an earlier MCLK cycle, so that what came with it is known (R262); its bank is there (R281); no
earlier access of its requester to its bytes waits (R257). -/
def mayServe (mclk : Nat) (c : Chan) (r : ChanReq) : Bool := decide (r.arrival < mclk) && !bankWaits c r && !behind c r

/-- The first request of the first class that has one which may start, with the class: URGENT, LC, NORMAL, BULK (R260). (DEDUCED: LOG 71.) -/
def firstReq (mclk : Nat) (c : Chan) : Option (Nat × ChanReq) :=
  [0, 1, 2, 3].findSome? (fun cls => ((c.queue cls).find? (mayServe mclk c)).map (fun r => (cls, r)))

/-- Take a request out of its class. -/
def unqueue (cls : Nat) (r : ChanReq) (c : Chan) : Chan := c.setQueue cls ((c.queue cls).erase r)

/-- The Still-mode run in progress. -/
def stillRun (d : Dev) : Option Run := d.runs.find? (fun r => r.started && (graphAt d r.handle).still)

/-- The run is between segments: every timed task of its segment that has been reached has ended. -/
def betweenSegments (d : Dev) (r : Run) : Bool :=
  let g := graphAt d r.handle
  (List.range g.tasks.length).all (fun t =>
    segmentOf g t != r.segment || isIngress (descOf g t) || (taskAt r t).st == .ended || (taskAt r t).st == .stopped)

/-- What queues is served now: in a segment of a Still-mode run only in slot 23 of a window, MCLK cycles 92 to 95 of 96, and in no refresh
window (R263). -/
def untimedSlot (p : Plat) (d : Dev) : Bool :=
  match stillRun d with
  | none => true
  | some r => betweenSegments d r ||
      (decide ((runCycle p r - r.segStart) / 64 % 32 ≠ 0) && decide (62 ≤ (runCycle p r - r.segStart) % 64))

/-- Serve a request of a channel: the bytes of a tile's transfer, of the host's or a partner's access move; the last request of a task or of
Oxbow lets it go on (R260). -/
def serveReq (p : Plat) (g : Nat) (r : ChanReq) (d : Dev) : Dev :=
  match r.who with
  | .tile k x => serveTile p k x g r false true d
  | .task h t w =>
    if waits d (.task h t w) then d
    else
      match dKind (descOf (graphAt d h) t) with
      | 2 => engineNext p h t d
      | 3 => movePump p h t d
      | _ => collPump p h t d
  | .host _ => serveAccess p g r d
  | .partner _ _ => serveAccess p g r d
  | .oxbow => if waits d .oxbow then d else snapAdvance p.now d

/-- CHANNEL_REQUEST_START (R260): a free channel serves a run to its end. -/
def execChannelRequestStart (g : Nat) (s : State) : Out :=
  onDev s (fun p d =>
    let c := chanAt d g
    if !p.alive || c.retraining.isSome || inRefresh p c || p.boot.selfRefresh || !untimedSlot p d then d
    else
      match firstReq p.mclk c with
      | none => d
      | some (cls, r) => serveReq p g r (modChan g (unqueue cls r) d))

/-- The request of a class that has waited longest. -/
def oldest (l : List ChanReq) : Option ChanReq :=
  l.foldl (fun a r => match a with | none => some r | some x => if r.arrival < x.arrival then some r else some x) none

/-- AGE_PROMOTION (R261): the longest waiting request that has waited more than AGE_LIMIT MCLK cycles joins URGENT; the
promotion counts, but not in Still mode (R263). -/
def execAgePromotion (g : Nat) (s : State) : Out :=
  onDev s (fun p d =>
    let c := chanAt d g
    let late (r : ChanReq) : Bool := decide (r.arrival + d.near.ageLimit.toNat < p.mclk)
    if !p.alive then d
    else
      match oldest ((c.lc ++ c.normal ++ c.bulk).filter late) with
      | none => d
      | some r =>
        countNear p.cyc g 1 r.run (modChan g (fun c => { c with lc := c.lc.erase r, normal := c.normal.erase r, bulk := c.bulk.erase r,
                                                                 urgent := c.urgent ++ [r] }) d))

/-! ### Refresh and background scrub (R274, R275, R263) -/

/-- A refresh of the channel is due. In Flow mode by the temperature of its DRAM die; in a segment of a Still-mode run in the
first window of every 32 of 64 cycles; between segments at the doubled rate. -/
def refreshNow (p : Plat) (d : Dev) (g : Nat) : Bool :=
  let c := chanAt d g
  let after (n : Nat) : Bool := decide (c.lastRefresh + n ≤ p.now)
  match stillRun d with
  | none => after (if p.therm.hotDram.toNat.testBit (g / 32) then 195 else 390)
  | some r =>
    if betweenSegments d r then after 195
    else
      let cyc := runCycle p r - r.segStart
      decide (cyc / 64 % 32 = 0) && decide (c.refreshCyc + cyc % 64 < p.cyc)

/-- Background scrub of one beat: a correctable error is counted and written back; an uncorrectable one is reported; both
may make the row a candidate (R275, R281). -/
def scrubBeat (p : Plat) (g b : Nat) (d : Dev) : Dev :=
  let c := chanAt d g
  let br := bankRow (b * 64)
  if c.retired.contains (b / 1024) then d
  else if c.poison.contains b then
    let d1 := modChan g (fun c => { c with uncorrectable := satAdd 64 c.uncorrectable 1 }) d
    let near := (validRegions d).filterMap (fun r =>
      if r.chans.contains g then
        let n := r.chans.length
        let o := b * 64 - r.choff
        let a := match r.il with
          | .chan => r.base + o
          | _ => r.base + (o / 2048 * n + r.chans.idxOf g) * 2048 + o % 2048
        if r.holds a && decide (r.choff ≤ b * 64) && r.locate a == (g, b * 64) then some (a, g, b * 64) else none
      else none)
    candidateRow p.now g br.1 br.2 (postMemErrors p.now 4 near d1)
  else if c.ce.contains b then
    let d1 := traceRec p.cyc 4 0x06 3 (dieOfChan g) (g + b * 64 * 1024)
      (modChan g (fun c =>
        { countFixed [b] c with
          ce := c.ce.filter (fun x => x != b), scrubNow := if c.scrubNow.contains br then c.scrubNow else c.scrubNow ++ [br] }) d)
    if c.scrubMark.contains br && !c.scrubNow.contains br then candidateRow p.now g br.1 br.2 d1 else d1
  else d

/-- Scrub the next 2 granules; with the wrap a pass ends. (DEDUCED: LOG 70.) -/
def scrubNext (p : Plat) (g : Nat) (d : Dev) : Dev :=
  let pos := (chanAt d g).scrubPos
  let d1 := (upFrom (pos * 4) 8).foldl (fun d b => scrubBeat p g b d) d
  modChan g (fun c =>
    if pos + 2 ≥ 2 ^ 19 then { c with scrubPos := 0, scrubMark := c.scrubNow, scrubNow := [] }
    else { c with scrubPos := pos + 2 }) d1

/-- REFRESH_DUE (R274): a window of 64 cycles in which the channel starts no request, with background scrub. -/
def execRefreshDue (g : Nat) (s : State) : Out :=
  onDev s (fun p d =>
    let c := chanAt d g
    if !p.alive || p.boot.selfRefresh || g > 1023 || c.retraining.isSome || inRefresh p c || !refreshNow p d g then d
    else
      let d1 := modChan g (fun c => { c with lastRefresh := p.now, refreshCyc := p.cyc }) d
      if inService d g then scrubNext p g d1 else d1)

/-! ### Retrains (R276 to R280) -/

/-- AUTO_RETRAIN (R279, R280): the lane's corrected errors since the last training have reached 1,024; in Still mode the retrain
waits for a maintenance point. -/
def execAutoRetrain (g lane : Nat) (s : State) : Out :=
  onDev s (fun p d =>
    let c := chanAt d g
    if !p.alive || g > 1023 || lane > 575 || !inService d g || c.retraining.isSome || c.retrainPend || decide (tget 0 c.laneErr lane < 1024) then d
    else if stillRunning d then modChan g (fun c => { c with retrainPend := true }) d
    else startRetrain p.cyc g .auto d)

/-- Pause every Still-mode run in progress (R280). (DEDUCED: LOG 42.) -/
def pauseStill (cyc : Nat) (d : Dev) : Dev :=
  { d with runs := d.runs.map (fun r =>
      if r.started && (graphAt d r.handle).still && r.pausedAt.isNone then { r with pausedAt := some cyc } else r) }

/-- HARD_LANE_FAILURE (R279, R280): the channel retrains at once in either mode; a Still-mode run pauses. -/
def execHardLaneFailure (g lane : Nat) (s : State) : Out :=
  onDev s (fun p d =>
    if !p.alive || g > 1023 || lane > 579 || !inService d g || (chanAt d g).retraining.isSome then d
    else startRetrain p.cyc g .hard (pauseStill p.cyc d))

/-- What of a tile is kept by CYCLE moves by the length of a pause: run cycles stop for it (R280). -/
def shiftTile (n : Nat) (t : Tile) : Tile :=
  let sh (q : Pass) : Pass := { q with issue := q.issue + n, after := q.after.map (· + n) }
  let on (x : SlotTime) : SlotTime :=
    { first := x.first + n, last := x.last + n, qop := x.qop + n, row := x.row + n, mma := x.mma + n, init := x.init + n,
      write := x.write + n }
  { t with unitFree := t.unitFree.map (fun e => (e.1, e.2 + n)),
           flights := t.flights.map (fun f => { f with last := f.last + n }),
           slotTimes := t.slotTimes.map (fun e => (e.1, on e.2)),
           drains := t.drains.map (fun x => { x with issue := x.issue + n, fin := x.fin.map (fun y => (y.1 + n, y.2 + n)),
                                                     stall := x.stall.map (fun y => (y.1, y.2 + n)) }),
           jobs := t.jobs.map (fun j => { j with todo := j.todo.map (fun b => (b.1 + n, b.2)) }),
           first := t.first + n, lastIssue := t.lastIssue.map (· + n),
           held := t.held.map (fun h => { h with issue := h.issue + n }),
           dma := t.dma.map (fun x => { x with due := x.due + n, issue := x.issue + n }),
           arriving := t.arriving.map (fun a => (a.1 + n, a.2)),
           notBefore := t.notBefore + n, passA := t.passA.map sh, passB := t.passB.map sh,
           lutA := { t.lutA with since := t.lutA.since + n }, lutB := { t.lutB with since := t.lutB.since + n } }

/-- Resume the paused runs: the paused cycles are slip (R280). -/
def resumeStill (cyc : Nat) (d : Dev) : Dev :=
  let longest := d.runs.foldl (fun a r => max a (cyc - r.pausedAt.getD cyc)) 0
  let held (h : Nat) : Nat := match runOf d h with | some r => cyc - r.pausedAt.getD cyc | none => 0
  { d with
    runs := d.runs.map (fun r => { r with pausedAt := none, slipPause := r.slipPause + (cyc - r.pausedAt.getD cyc) }),
    obs := { d.obs with slipPause := satAdd 64 d.obs.slipPause longest },
    tiles := d.tiles.map (fun e =>
      if e.2.phase == .idle || held e.2.handle = 0 then e else (e.1, shiftTile (held e.2.handle) e.2)) }

/-- The lanes a training steers to spares: those steered before and those below margin now (Table 11.9 step 4). -/
def steered (c : Chan) (bad : List Nat) : List Nat :=
  bad.foldl (fun l b => if b > 575 || l.contains b then l else l ++ [b]) c.spares

/-- The lanes steered after a training; none where it fails: a step failed, or there are more than 4 lanes to steer (Table 11.9). -/
def trainedLanes (c : Chan) : ChanTrain → Option (List Nat)
  | .failed => none
  | .passed bad => if (steered c bad).length ≤ 4 then some (steered c bad) else none

/-- A channel's training ends (R276, R277, R280): back in service with its lane map, zero-filled at power-up; FAILED where step 1, 2, 5 or
6 fails, or where there are more than 4 lanes to steer. The last forced retrain lets the paused run go on. (DEDUCED: LOG 69.) -/
def retrainEnd (p : Plat) (g : Nat) (res : ChanTrain) (d : Dev) : Dev :=
  let c := chanAt d g
  match c.retraining with
  | none => d
  | some why =>
    let d1 := modChan g (fun c => { c with retraining := none, laneErr := [], retrainPend := false }) d
    let d2 := match trainedLanes c res with
      | none => postEvent p.now 0x0021 (natLe 2 g) (modChan g (fun c => { c with state := .failed }) d1)
      | some l => modChan g (fun c => { c with spares := l }) (if why = .powerUp then zeroFill g d1 else d1)
    if d2.near.chans.any (fun e => e.2.retraining == some .hard) then d2 else resumeStill p.cyc d2

/-- ROW_REMAP_DONE (R281): 4 µs after its start the remap ends and the bank is available again. -/
def execRowRemapDone (g bank : Nat) (s : State) : Out :=
  onDev s (fun p d =>
    if p.alive then modChan g (fun c => { c with bankBusy := c.bankBusy.filter (fun b => b.1 != bank || decide (p.now < b.2.2 + 400)) }) d else d)

end Sys2Proof.Machine
end

