-- ==== Sys2Proof/Machine/Ports.lean ====
section
/-! DEFINITION. Ports (12 R294, R300, R308 to R314): retrains in service, HELLO, attestation, attaching and detaching. -/

namespace Sys2Proof.Machine

/-! ### Port registers (Table 12.4) -/

/-- STATE of a port (Table 12.3). -/
def PortSt.code : PortSt → Nat
  | .dark => 0 | .training => 1 | .failed => 2 | .incompatible => 3 | .up => 4 | .attached => 5

/-- PORT_STAT. -/
def portStatReg (x : Port) : Nat :=
  x.rxSpare.getD 15 * 2 ^ 36 + x.txSpare.getD 15 * 2 ^ 32 + x.profile * 2 ^ 20 + x.version.getD 15 * 2 ^ 16 +
    (if x.lightRx then 2 ^ 9 else 0) + (if x.lightIn then 2 ^ 8 else 0) + x.role * 2 ^ 6 + x.state.code

/-- PORT_CAP. -/
def portCapReg (x : Port) : Nat :=
  (if x.capSparse then 2 ^ 8 else 0) + (if x.capPersist then 2 ^ 7 else 0) + x.capRed.toNat

/-- PORT_CNT. -/
def portCntReg (x : Port) : Nat := x.fecCor.toNat * 2 ^ 32 + x.replays.toNat * 2 ^ 16 + x.retrains.toNat

/-- The record of LINK_ENUMERATE (R393). -/
def enumerateRecord (d : Dev) : List Byte :=
  (List.range 48).flatMap (fun p =>
    let x := portAt d p
    natLe 8 (portStatReg x) ++ natLe 8 (portCapReg x) ++ natLe 8 (portCntReg x) ++ natLe 8 0 ++
      (if x.partner.isEmpty then List.replicate 32 0#8 else x.partner))

/-- LINK_ENUMERATE (R294, R393). -/
def execLinkEnumerate (ring : Nat) (pkt : Packet) (s : State) : Out :=
  onDev s (fun p => takePacket ring pkt (pkOpcode pkt == 0x30) (fun id d =>
    finish p.now id (
      if par pkt 8 4 < 3072 then (stBadParam, 0, d)
      else (stOk, 0, hostWrite (par pkt 0 8) (enumerateRecord d) d))) p)

/-! ### Attestation (R312, R444) -/

/-- The port returns to UP: what used it loses its partner; PORT_DETACHED when a cause is given, then PORT_UP (R311, R314). (DEDUCED: LOG 64.) -/
def toUp (p now : Nat) (cause : Option Nat) (d : Dev) : Dev :=
  let d1 := oxbowLost p now (failTasks p stPartner (muteAccs p d))
  let d2 := modPort p (fun x =>
    { x with state := .up, role := 0, wbase := 0, wsize := 0, anchor := 0, attest := none, pending := [],
             txReq := x.txReq.filter (fun t => t.ttype == 0x05), txMsg := [], txColl := [],
             msgQueued := x.msgQueued - (x.txMsg.filter (fun t => t.attr.testBit 1)).length }) d1
  let d3 := match cause with | none => d2 | some c => postEvent now 0x0033 (natLe 1 p ++ natLe 1 c) d2
  postEvent now 0x0030 (portPayload p (portAt d3 p)) d3

/-- Start an attestation: a CHALLENGE with a fresh nonce (R312 step 2); `pkt` is none for a re-attestation. -/
def startAttest (p now : Nat) (pkt : Option Nat) (expect anchor : BitVec 256) (role wbase wsize : Nat) (d : Dev) : Dev :=
  let n := freeVal 256 d
  sendTxn p now (mgmtTxn 0x02 (natLe 32 n.1.toNat))
    (modPort p (fun x => { x with attest := some { pkt := pkt, expect := expect, anchor := anchor, role := role,
                                                   wbase := wbase, wsize := wsize, nonce := n.1, since := now } }) n.2)

/-- The graph of a run in progress names the port in PORT_MASK. -/
def portInRun (d : Dev) (p : Nat) : Bool := d.runs.any (fun r => r.started && (graphAt d r.handle).portMask.toNat.testBit p)

/-- LINK_ATTACH's checks in the order of R312, then step 2. While the port retrains, or is being attested for an
earlier LINK_ATTACH, it waits. (DEDUCED: LOG 66.) -/
def attachBody (now id : Nat) (pkt : Packet) (d : Dev) : Dev :=
  let p := par pkt 0 1
  let role := par pkt 1 1
  let wbase := par pkt 8 8
  let wsize := par pkt 0x10 8
  let x := portAt d p
  if p > 47 || role > 1 then complete now id stBadParam 0 d
  else if stillRunning d || portInRun d p then complete now id stBusy 0 d
  else if x.retraining || (x.attest.isSome && x.state == .up) then
    modPort p (fun x => { x with attachWait := x.attachWait ++ [(id, pkt)] }) d
  else if x.state == .incompatible then complete now id stVersion 0 d
  else if x.state != .up || wbase % 2 ^ 21 != 0 || wsize % 2 ^ 21 != 0 || wbase + wsize > 2 ^ 40 || (role == 1 && x.profile != 1) then
    complete now id stBadParam 0 d
  else if leNat x.partner != par pkt 0x20 32 then complete now id stAuth 0 d
  else startAttest p now (some id) (BitVec.ofNat 256 (par pkt 0x20 32)) (BitVec.ofNat 256 (par pkt 0x40 32)) role wbase wsize d

/-- LINK_ATTACH (R312). -/
def execLinkAttach (ring : Nat) (pkt : Packet) (s : State) : Out :=
  onDev s (fun p => takePacket ring pkt (pkOpcode pkt == 0x31) (fun id d => attachBody p.now id pkt d) p)

/-- The LINK_ATTACHs that waited on the port go on. -/
def releaseAttach (p now : Nat) (d : Dev) : Dev :=
  (portAt d p).attachWait.foldl (fun d w => attachBody now w.1 w.2 d) (modPort p (fun x => { x with attachWait := [] }) d)

/-- An attestation ends: the port enters ATTACHED with its role and window, or LINK_ATTACH ends with AUTH_FAIL; a failed
re-attestation returns the port to UP (R312 step 5, R314). -/
def attestDone (p now : Nat) (ok : Bool) (d : Dev) : Dev :=
  match (portAt d p).attest with
  | none => d
  | some a =>
    let d0 := modPort p (fun x => { x with attest := none }) d
    let d1 := match a.pkt with
      | none => if ok then d0 else toUp p now (some 1) d0
      | some id =>
        if ok && (portAt d p).state == .up then
          complete now id stOk 0 (modPort p (fun x =>
            { x with state := .attached, role := a.role, wbase := a.wbase, wsize := a.wsize, anchor := a.anchor }) d0)
        else complete now id stAuth 0 d0
    releaseAttach p now d1

/-- What the signer of SIGNED signs: its HELLO, the challenger's HELLO, the nonce (R312 step 3). (DEDUCED: LOG 67.) -/
def signedOver (signer challenger : List Byte) (nonce : List Byte) : List Byte := signer ++ challenger ++ nonce

/-- A chain in CERT transactions of at most 4,096 bytes, on fuel. (DEDUCED: LOG 63.) -/
def certParts : Nat → Nat → List Byte → List Txn
  | 0, _, _ => []
  | n + 1, off, l =>
    mgmtTxn 0x03 (l.take 4096) off :: (if l.length > 4096 then certParts n (off + 4096) (l.drop 4096) else [])

/-- MGMT_CHALLENGE (R312): answered in any state from UP onward with the chain and a signature by the identity key; unanswered
in a test state (R447). -/
def execMgmtChallenge (p : Nat) (s : State) : Out :=
  onDev s (onReq p (fun t => mgmtSub t == 0x02) (fun pl t d =>
    let x := portAt d p
    if (x.state == .up || x.state == .attached) && !pl.boot.testMode then
      let parts := certParts (Config.ownChain.length / 4096 + 1) 0 Config.ownChain
      sendTxn p pl.now (mgmtTxn 0x04 (Config.sign (signedOver x.helloSent x.helloGot (t.payload.take 32))))
        (parts.foldl (fun d c => sendTxn p pl.now c d) d)
    else d))

/-- CERT (R312 step 3): a part of the partner's chain joins at its offset. -/
def execCert (p : Nat) (s : State) : Out :=
  onDev s (onReq p (fun t => mgmtSub t == 0x03) (fun _ t d =>
    modPort p (fun x => { x with attest := x.attest.map (fun a => { a with chain := a.chain.take t.addr.toNat ++ t.payload }) }) d))

/-- SIGNED (R312 step 4): the chain leads to ANCHOR, its leaf key hashes to EXPECT, the signature verifies. -/
def execSigned (p : Nat) (s : State) : Out :=
  onDev s (onReq p (fun t => mgmtSub t == 0x04) (fun pl t d =>
    let x := portAt d p
    match x.attest with
    | none => d
    | some a =>
      let root := if a.anchor = 0 then d.fw.rootHash else a.anchor
      let ok := Config.chainLeaf a.chain root == some a.expect &&
        Config.verifyLeaf a.chain (signedOver x.helloGot x.helloSent (natLe 32 a.nonce.toNat)) t.payload
      attestDone p pl.now ok d))

/-- ATTEST_TIMEOUT (R312): no answer within 100 ms. -/
def execAttestTimeout (p : Nat) (s : State) : Out :=
  onDev s (fun pl d =>
    match (portAt d p).attest with
    | none => d
    | some a => if pl.alive && decide (a.since + 10000000 ≤ pl.now) then attestDone p pl.now false d else d)

/-! ### HELLO and retrains in service (R300, R308 to R310) -/

/-- Step 7 of a retrain: the partner's HELLO is here. An ATTACHED port goes on when the identifier is unchanged, and attests
afresh; otherwise it loses its partner. Other ports negotiate anew. Then traffic resumes. (DEDUCED: LOG 65.) -/
def retrainHello (p now : Nat) (d : Dev) : Dev :=
  let x := portAt d p
  let y := { takeHello x.helloGot x with retraining := false, helloWait := false }
  let same := y.partner == x.partner
  let d1 := modPort p (fun _ => y) d
  let bad (d : Dev) : Dev :=
    let d2 := modPort p (fun x => { x with state := .incompatible, role := 0, wbase := 0, wsize := 0 }) d
    if x.state == .incompatible then d2 else postEvent now 0x0031 (portPayload p y) d2
  let d3 :=
    if x.state == .attached then
      (if y.version.isNone then bad (oxbowLost p now (failTasks p stPartner d1))
        else if same then startAttest p now none (BitVec.ofNat 256 (leNat y.partner)) x.anchor x.role x.wbase x.wsize d1
        else toUp p now (some 1) d1)
    else if y.version.isNone then bad (endAttest p now stAuth d1)
    else if x.state == .incompatible then postEvent now 0x0030 (portPayload p y) (modPort p (fun x => { x with state := .up }) d1)
    else d1
  pump p now (releaseAttach p now d3)

/-- MGMT_HELLO (R308 to R310): kept during a training until steps 1 to 6 are done, and then it ends the training. (DEDUCED: LOG 68.) -/
def execMgmtHello (p : Nat) (s : State) : Out :=
  onDev s (onReq p (fun t => mgmtSub t == 0x01) (fun pl t d =>
    let x := portAt d p
    if x.state != .training && !x.retraining then d
    else
      let d1 := modPort p (fun x => { x with helloGot := t.payload }) d
      if !x.helloWait then d1
      else if x.state == .training then enterUp p pl.now d1
      else retrainHello p pl.now d1))

/-- A direction's lane map after a retrain needs a second spare (R300). -/
def spareClash (old new : Option Nat) : Bool :=
  match old, new with | some a, some b => a != b | _, _ => false

/-- PORT_SPARE when a retrain switched lane 8 in. -/
def postSpare (p now dir : Nat) (old new : Option Nat) (d : Dev) : Dev :=
  match old, new with
  | none, some l => postEvent now 0x0034 (natLe 1 p ++ natLe 1 l ++ natLe 1 dir) d
  | _, _ => d

/-- PORT_RETRAIN_DONE (R300): steps 3 to 6 have passed, and HELLO goes out behind what is in the stream already; or the link is
lost. -/
def execPortRetrainDone (p : Nat) (res : TrainResult) (s : State) : Out :=
  onDev s (fun pl d =>
    let x := portAt d p
    if !(pl.alive && x.retraining && !x.helloWait) then d
    else
      match res with
      | .noLaser => laserLow p pl.now d
      | .noLight => modPort p (fun y => { y with lightRx := false }) (linkLost p pl.now 0 false d)
      | .failed => linkLost p pl.now 1 true d
      | .passed low tx =>
        match laneMap low with
        | none => linkLost p pl.now 1 true d
        | some rx =>
        if spareClash x.rxSpare rx || spareClash x.txSpare tx then linkLost p pl.now 1 true d
        else
          let d1 := postSpare p pl.now 1 x.txSpare tx (postSpare p pl.now 0 x.rxSpare rx
            (modPort p (fun y => { y with rxSpare := rx, txSpare := tx, helloWait := true, helloSent := ownHello,
                                          txReq := mgmtTxn 0x01 ownHello :: y.txReq }) d))
          let d2 := pump p pl.now d1
          if x.helloGot.isEmpty then d2 else retrainHello p pl.now d2)

/-! ### Detaching (R313, R314) -/

/-- DETACH received: the port returns to UP, and what used it loses its partner. -/
def execDetach (p : Nat) (s : State) : Out :=
  onDev s (onReq p (fun t => mgmtSub t == 0x05) (fun pl _ d =>
    if (portAt d p).state == .attached then releaseAttach p pl.now (toUp p pl.now (some 0) d) else d))

/-- LINK_DETACH (R313). -/
def execLinkDetach (ring : Nat) (pkt : Packet) (s : State) : Out :=
  onDev s (fun pl => takePacket ring pkt (pkOpcode pkt == 0x32) (fun id d =>
    let p := par pkt 0 1
    if p > 47 then complete pl.now id stBadParam 0 d
    else if portInRun d p then complete pl.now id stBusy 0 d
    else if (portAt d p).state != .attached || (d.links.far.map (·.2)).any (fun r => r.valid && r.ports.toNat.testBit p) ||
        (d.obs.ls.state != .unpaired && d.obs.ls.port == p) then complete pl.now id stBadParam 0 d
    else complete pl.now id stOk 0 (sendTxn p pl.now (mgmtTxn 0x05 []) (toUp p pl.now none d))) pl)

end Sys2Proof.Machine
end

