-- ==== Sys2Proof/Machine/Firmware.lean ====
section
/-! DEFINITION. Firmware commands and attestation of the part (17 R440 to R447). -/

namespace Sys2Proof.Machine

/-! ### FW_STAGE (R440) -/

/-- FW_STAGE's checks on the image read from host memory, and its effect. -/
def stageBody (pkt : Packet) (image : List Byte) (d : Dev) : Nat × Nat × Dev :=
  let len := par pkt 8 4
  let h := pkBytes image 0 1024
  let c := hdrComponent h
  let none1 := onFw (fun f => { f with staged := none }) d
  if !hdrWell h || len != 1024 + hdrBodyLen h then (stBadParam, 0, none1)
  else
    let body := pkBytes image 1024 (hdrBodyLen h)
    if !hdrAuthentic d.fw h body then (stAuth, 0, none1)
    else if hdrSvn h < (compAt d.fw c).rb then (stRollback, 0, none1)
    else (stOk, c + hdrSvn h * 256, onFw (fun f => { f with staged := some (h, body) }) d)

/-- FW_STAGE. -/
def execFwStage (ring : Nat) (pkt : Packet) (image : List Byte) (s : State) : Out :=
  onDev s (fun p => takePacket ring pkt (pkOpcode pkt == 0x60) (fun id d => finish p.now id (stageBody pkt image d)) p)

/-! ### FW_COMMIT (R441) -/

/-- TARGET is zero, or a mask of existing units for components 2 and 3. -/
def targetOk (c target : Nat) : Bool :=
  if c = 2 ∨ c = 3 then target != 0 && decide (target < 2 ^ unitsOfComp c) else target == 0

/-- Every unit of TARGET meets its condition of Table 17.3. -/
def targetClear (d : Dev) (c target : Nat) : Bool :=
  if c = 2 then (bitsOf 4 target).all (quadDrained d)
  else if c = 3 then
    (bitsOf 12 target).all (fun e => (List.range 4).all (fun w =>
      (portAt d (4 * e + w)).state != .attached && !portInRun d (4 * e + w)))
  else true

/-- An Outfall engine restarts: its ports lose their links and train again (R436). -/
def restartEngine (now : Nat) (d : Dev) (e : Nat) : Dev :=
  (List.range 4).foldl (fun d w =>
    let p := 4 * e + w
    let light := (portAt d p).lightIn && (portAt d p).lightRx
    let d1 := linkLost p now 0 false d
    if light then startTraining p now d1 else d1) d

/-- The activation of step 4: components 2 and 3 at once, components 0, 1 and 4 pending. DETAIL comes with it. -/
def activateStep (now c : Nat) (b : Bool) (target : Nat) (d : Dev) : Nat × Dev :=
  if c = 2 then (1, activateSlot now c b target d)
  else if c = 3 then (1, (bitsOf 12 target).foldl (restartEngine now) (activateSlot now c b target d))
  else if c = 5 then (1, activateSlot now c b 1 d)
  else (2, onFw (modComp c (fun x => x.setSlot b { x.slot b with pending := true })) d)

/-- The rest of a commit once its slot holds a verified image: revoke, activate, complete; component 5 waits for the end of every
run, and burns and activates then. The completion releases the ring (R395). -/
def commitRest (now id c : Nat) (b : Bool) (target : Nat) (write : Bool) (d : Dev) : Dev :=
  if c = 5 ∧ anyRun d then startLong id (.fwCommit c b write) d
  else
    let mask := if write then hdrRevoke ((compAt d.fw c).slot b).header else 0
    let r := activateStep now c b target (onFw (revokeKeys mask) d)
    startLong id (.fwDone stOk r.1) (onFw (fun f => if write then { f with staged := none } else f) r.2)

/-- FW_COMMIT with OP = WRITE. (DEDUCED: LOG 73.) (DEDUCED: LOG 74.) -/
def commitWrite (now id : Nat) (pkt : Packet) (d : Dev) : Dev :=
  let target := par pkt 4 4
  if par pkt 0 1 > 1 || par pkt 1 1 != 0 then complete now id stBadParam 0 d
  else
    match d.fw.staged with
    | none => complete now id stBadParam 0 d
    | some (h, body) =>
      let c := hdrComponent h
      match freeSlot d.fw c with
      | none => complete now id stBadParam 0 d
      | some b =>
        if !targetOk c target || revokeForbidden d.fw (hdrRevoke h) then complete now id stBadParam 0 d
        else if hdrSvn h < (compAt d.fw c).rb then complete now id stRollback 0 d
        else if !targetClear d c target then complete now id stBusy 0 d
        else
          let ok := hdrWell h && hdrAuthentic d.fw h body
          let v : FwSlot := { state := if ok then .valid else .invalid, pending := false, header := h, body := body }
          let d1 := onFw (modComp c (fun x => x.setSlot b v)) d
          if ok then commitRest now id c b target true d1
          else startLong id (.fwDone stAuth 0) (onFw (fun f => { f with staged := none }) d1)

/-- FW_COMMIT_WRITE, or an OP outside its values. -/
def execFwCommitWrite (ring : Nat) (pkt : Packet) (s : State) : Out :=
  onDev s (fun p => takePacket ring pkt (pkOpcode pkt == 0x61 && par pkt 0 1 != 1) (fun id d => commitWrite p.now id pkt d) p)

/-- The slot that ACTIVATE takes up: the one that no unit of TARGET runs; none when they run both. -/
def otherSlot (f : Fw) (c target : Nat) : Option Bool :=
  let us := if c = 2 ∨ c = 3 then bitsOf (unitsOfComp c) target else [0]
  let x := compAt f c
  if us.all (fun u => !x.runsB u) then some true else if us.all (fun u => x.runsB u) then some false else none

/-- FW_COMMIT with OP = ACTIVATE. (DEDUCED: LOG 75.) -/
def commitActivate (now id : Nat) (pkt : Packet) (d : Dev) : Dev :=
  let c := par pkt 1 1
  let target := par pkt 4 4
  if c > 5 || !targetOk c target then complete now id stBadParam 0 d
  else
    match otherSlot d.fw c target with
    | none => complete now id stBadParam 0 d
    | some b =>
      if ((compAt d.fw c).slot b).state != .valid then complete now id stBadParam 0 d
      else if !targetClear d c target then complete now id stBusy 0 d
      else commitRest now id c b target false d

/-- FW_COMMIT_ACTIVATE. -/
def execFwCommitActivate (ring : Nat) (pkt : Packet) (s : State) : Out :=
  onDev s (fun p => takePacket ring pkt (pkOpcode pkt == 0x61 && par pkt 0 1 == 1) (fun id d => commitActivate p.now id pkt d) p)

/-- SFU_ACTIVATION (R436, R337): no run is in progress any more. -/
def execSfuActivation (s : State) : Out :=
  onDev s (fun p d =>
    match d.host.longOp with
    | some (id, .fwCommit c b w) => if p.serving && !anyRun d then commitRest p.now id c b 0 w d else d
    | _ => d)

/-! ### SPDM over DOE (R445 to R447) -/

/-- Send a DOE response. -/
def doeOut (m : List Byte) (d : Dev) : Dev := { d with out := { d.out with doe := d.out.doe ++ [m] } }

/-- The DOE mailbox answers once the host link is up. -/
def doeUp (p : Plat) : Bool := p.alive && p.boot.link == .trained

/-- A message of SPDM 1.2: version 0x12, code, two parameters, body (PRESUMED: DMTF DSP0274). (PRESUMED: LOG 77.) -/
def spdmMsg (code p1 p2 : Nat) (body : List Byte) : List Byte := natLe 1 0x12 ++ natLe 1 code ++ natLe 1 p1 ++ natLe 1 p2 ++ body

/-- An SPDM error: 0x05 Unspecified, 0x07 UnsupportedRequest with the request code, 0x04 UnexpectedRequest, 0x01 InvalidRequest. -/
def spdmError (err data : Nat) (d : Dev) : Dev := doeOut (spdmMsg 0x7F err data []) d

/-- Answer and extend the transcript over which signatures go. -/
def spdmAnswer (req resp : List Byte) (f : Spdm → Spdm) (d : Dev) : Dev :=
  doeOut resp { d with spdm := f { d.spdm with transcript := d.spdm.transcript ++ req ++ resp } }

/-- SPDM_GET_VERSION: version 1.2 and no other; the negotiation begins anew. -/
def execSpdmGetVersion (s : State) : Out :=
  onDev s (fun p d =>
    if !doeUp p then d
    else
      let req := [0x10#8, 0x84#8, 0#8, 0#8]
      let resp := [0x10#8, 0x04#8, 0#8, 0#8, 0#8, 1#8] ++ natLe 2 0x1200
      spdmAnswer req resp (fun x => { x with version := true, caps := false, algs := false, transcript := req ++ resp }) d)

/-- SPDM_GET_CAPABILITIES. -/
def execSpdmGetCapabilities (req : List Byte) (s : State) : Out :=
  onDev s (fun p d =>
    if !doeUp p then d
    else if !d.spdm.version then spdmError 0x04 0 d
    else spdmAnswer req (spdmMsg 0x61 0 0 (Config.spdmBody 0)) (fun x => { x with caps := true }) d)

/-- SPDM_NEGOTIATE_ALGORITHMS: TPM_ALG_RSASSA_3072 and TPM_ALG_SHA_256. -/
def execSpdmNegotiateAlgorithms (req : List Byte) (s : State) : Out :=
  onDev s (fun p d =>
    if !doeUp p then d
    else if !d.spdm.caps then spdmError 0x04 0 d
    else spdmAnswer req (spdmMsg 0x63 0 0 (Config.spdmBody 1)) (fun x => { x with algs := true }) d)

/-- SPDM_GET_DIGESTS: the digest of slot 0's chain; slot 0 is the only one. -/
def execSpdmGetDigests (s : State) : Out :=
  onDev s (fun p d =>
    if !doeUp p then d
    else if !d.spdm.algs then spdmError 0x04 0 d
    else spdmAnswer (spdmMsg 0x81 0 0 []) (spdmMsg 0x01 0 1 (natLe 32 (Config.sha256 Config.ownChain).toNat)) id d)

/-- SPDM_GET_CERTIFICATE: a portion of slot 0's chain from an offset, and how much remains. -/
def execSpdmGetCertificate (slot offset len : Nat) (s : State) : Out :=
  onDev s (fun p d =>
    if !doeUp p then d
    else if !d.spdm.algs then spdmError 0x04 0 d
    else if slot ≠ 0 || offset ≥ Config.ownChain.length then spdmError 0x01 0 d
    else
      let part := (Config.ownChain.drop offset).take len
      spdmAnswer (spdmMsg 0x82 slot 0 (natLe 2 offset ++ natLe 2 len))
        (spdmMsg 0x02 slot 0 (natLe 2 part.length ++ natLe 2 (Config.ownChain.length - offset - part.length) ++ part)) id d)

/-- The measured content of a block (Table 17.5); none for an index without a block. -/
def measurement (p : Plat) (d : Dev) (i : Nat) : Option (List Byte) :=
  let sha (l : List Byte) : List Byte := natLe 32 (Config.sha256 l).toNat
  let unit (c u : Nat) : List Byte := sha (pkBytes (activeHeader d.fw c u) 0 0x200)
  match i with
  | 1 => some (natLe 1 0x01)
  | 8 => some (natLe 8 d.fw.nid.toNat)
  | 9 => some (rowBytes d.geom ++ natLe 4 d.geom.gen.toNat ++ natLe 8 (geomStatus d.geom))
  | 10 => some (sha (natLe 32 d.fw.rootHash.toNat ++ d.fw.keyHash.flatMap (fun k => natLe 32 k.toNat) ++ natLe 1 d.fw.keyRevoked.toNat ++
      (List.range 6).flatMap (fun c => natLe 8 (compAt d.fw c).rb) ++ natLe 1 d.geom.grade.toNat ++ natLe 1 (if p.boot.testMode then 1 else 0)))
  | _ =>
    if i < 2 ∨ 7 < i then none
    else
      let c := i - 2
      if unitsOfComp c = 1 then some (unit c 0)
      else some (sha ((List.range (unitsOfComp c)).flatMap (unit c)))

/-- A block in the DMTF format: index, measurement specification 1, size, value type (digest, or 0x80 raw), value (PRESUMED:
DMTF DSP0274). -/
def measBlock (p : Plat) (d : Dev) (i : Nat) : List Byte :=
  match measurement p d i with
  | none => []
  | some m =>
    let raw := i = 1 ∨ i = 8 ∨ i = 9
    let ty := if i = 1 then 0x80 else if raw then 0x83 else if i = 10 then 0x03 else 0x01
    natLe 1 i ++ natLe 1 1 ++ natLe 2 (m.length + 3) ++ natLe 1 ty ++ natLe 2 m.length ++ m

/-- SPDM_CHALLENGE: signed with the identity key; in a test state Unspecified (R447). -/
def execSpdmChallenge (slot : Nat) (req : List Byte) (s : State) : Out :=
  onDev s (fun p d =>
    if !doeUp p then d
    else if !d.spdm.algs then spdmError 0x04 0 d
    else if p.boot.testMode then spdmError 0x05 0 d
    else if slot ≠ 0 then spdmError 0x01 0 d
    else
      let n := freeVal 256 d
      let head := spdmMsg 0x03 slot 1 (natLe 32 (Config.sha256 Config.ownChain).toNat ++ natLe 32 n.1.toNat ++
        natLe 32 (Config.sha256 ((upFrom 1 10).flatMap (measBlock p d))).toNat ++ natLe 2 0)
      spdmAnswer req (head ++ Config.sign (d.spdm.transcript ++ req ++ head)) id n.2)

/-- GET_MEASUREMENTS (R446): index 0 asks for the number of blocks, 0xFF for all, otherwise one block; all from one state. A
signed request in a test state gets Unspecified (R447). -/
def execGetMeasurements (signed : Bool) (index : Nat) (req : List Byte) (s : State) : Out :=
  onDev s (fun p d =>
    if !doeUp p then d
    else if !d.spdm.algs then spdmError 0x04 0 d
    else if signed && p.boot.testMode then spdmError 0x05 0 d
    else if index ≠ 0 ∧ index ≠ 0xFF ∧ 10 < index then spdmError 0x01 0 d
    else
      let blocks := if index = 0 then [] else if index = 0xFF then upFrom 1 10 else [index]
      let recs := blocks.flatMap (measBlock p d)
      let n := freeVal 256 d
      let head := spdmMsg 0x60 (if index = 0 then 10 else 0) 0
        (natLe 1 blocks.length ++ natLe 3 recs.length ++ recs ++ natLe 32 n.1.toNat ++ natLe 2 0)
      spdmAnswer req (head ++ (if signed then Config.sign (d.spdm.transcript ++ req ++ head) else [])) id n.2)

/-- SPDM_UNSUPPORTED_REQUEST. -/
def execSpdmUnsupportedRequest (code : Byte) (s : State) : Out :=
  onDev s (fun p d => if doeUp p then spdmError 0x07 code.toNat d else d)

end Sys2Proof.Machine
end

