-- ==== Sys2Proof/Machine/Host.lean ====
section
/-! DEFINITION. What the host does to the part (15): registers, doorbells, messages, the aperture, power states, failed reads, and
the records of IDENTIFY and TELEMETRY_READ. -/

namespace Sys2Proof.Machine

/-! ### Identifiers and the column maps (R378, R381, R23) -/

/-- The identifiers of the PCIe configuration header (R378). -/
structure ConfigIds where
  vendor : BitVec 16
  device : BitVec 16
  revision : BitVec 8
  classCode : BitVec 24
  subVendor : BitVec 16
  subsystem : BitVec 16
deriving DecidableEq, Repr

/-- What the configuration header reads: Subsystem ID tells grade E (1) from grade F (0). -/
def configIds (g : Geom) : ConfigIds :=
  { vendor := 0x1F3B#16, device := 0xD640#16, revision := 0xA1#8, classCode := 0x120000#24, subVendor := 0x1F3B#16,
    subsystem := if g.grade = 0 then 0#16 else 1#16 }

/-- BAR0 offset of the column-map entry of row i of die 4q + j (R23). -/
def colMapOffset (q j i : Nat) : Nat := 0x100000 * (q + 1) + 0x4000 + (j * 64 + i) * 4

/-- What a 4-byte read of the column maps at a BAR0 offset returns; none where no column map stands there (R23, R381). -/
def colMapRead (g : Geom) (off : Nat) : Option Nat :=
  let q := off / 0x100000 - 1
  let k := (off % 0x100000 - 0x4000) / 4
  if decide (1 ≤ off / 0x100000) && decide (off / 0x100000 ≤ 4) && decide (0x4000 ≤ off % 0x100000) && decide (off % 0x100000 < 0x4400) &&
      off % 4 == 0 then some (colMapEntry g (4 * q + k / 64) (k % 64))
  else none

/-! ### Register writes (R7, R381) -/

/-- A register access is a naturally aligned one of 4 or 8 bytes. -/
def accessOk (off size : Nat) : Bool := (size == 4 || size == 8) && off % size == 0

/-- The 64-bit value a write leaves in a register that held `old`: the whole, or the half that 4 bytes reach. -/
def mergeWrite (off size : Nat) (old data : W64) : W64 :=
  if size = 8 then data
  else if off % 8 = 0 then BitVec.ofNat 64 (old.toNat / 2 ^ 32 * 2 ^ 32 + data.toNat % 2 ^ 32)
  else BitVec.ofNat 64 (old.toNat % 2 ^ 32 + data.toNat % 2 ^ 32 * 2 ^ 32)

/-- The bits a write reaches. (DEDUCED: LOG 16.) -/
def reached (off size : Nat) (data : W64) : W64 := mergeWrite off size 0#64 data

/-- RING_CTL as it reads. -/
def ringCtlReg (x : Ring) : W64 :=
  BitVec.ofNat 64 (x.holdoff.toNat * 2 ^ 16 + x.log2n * 2 ^ 8 + (if x.intEn then 2 else 0) + (if x.enable then 1 else 0))

/-- A doorbell that is ignored sets BADDB (R385); a failed fetch sets DMAERR and clears ENABLE (R405). -/
def setBadDb (p : Plat) (ring : Nat) (d : Dev) : Dev := modRing ring (fun r => { r with badDb := true, badDbAt := p.cclk + 1 }) d
def setDmaErr (p : Plat) (ring : Nat) (d : Dev) : Dev :=
  modRing ring (fun r => { r with enable := false, dmaErr := true, dmaErrAt := p.cclk + 1 }) d

/-- A write to RING_STAT: a 1 clears its bit, but for a bit that the device set in the same CCLK cycle (R7). -/
def clearStat (p : Plat) (v : W64) (r : Ring) : Ring :=
  { r with badDb := r.badDb && !(bit v 1 && r.badDbAt != p.cclk + 1), dmaErr := r.dmaErr && !(bit v 0 && r.dmaErrAt != p.cclk + 1) }

/-- Packets of a ring leave the outstanding ones: nothing will be posted for them (R384). -/
def discardTaken (ring : Nat) (d : Dev) : Dev := onHost (fun h => { h with taken := h.taken.filter (fun t => t.ring != ring) }) d

/-- A write to RING_CTL (R383, R384): LOG2N only while ENABLE is 0; INT_EN and HOLDOFF, which act on completion and event rings only; a
change of ENABLE to 1 restarts the ring, to 0 discards what it has not taken, or what it would have posted. (DEDUCED: LOG 79.) -/
def writeRingCtl (now r : Nat) (v : W64) (d : Dev) : Dev :=
  let x := ringAt d r
  let en := bit v 0
  let n := fld v 12 8
  let y := { x with log2n := if x.enable then x.log2n else if 6 ≤ n ∧ n ≤ 16 then n else 6,
                    holdoff := BitVec.ofNat 8 (fld v 23 16), intEn := bit v 1, enable := en }
  let z := if en && !x.enable then { y with head := 0, tail := 0, phase := true, reserved := 0 }
    else if !en && x.enable then { y with reserved := 0 } else y
  let d1 := modRing r (fun _ => z) d
  if en && !x.enable && r == 18 then postLost now d1
  else if !en && x.enable && decide (9 ≤ r) && r != 18 then discardTaken (r - 9) d1
  else d1

/-- Send what a vector owes once nothing masks it (R387). -/
def unmaskVector (now v : Nat) (d : Dev) : Dev := trySend now v d

/-- A write to the MSI-X table: 16 bytes a vector, address, data, mask. -/
def writeMsix (now off size : Nat) (data : W64) (d : Dev) : Dev :=
  let v := (off - 0x3000) / 16
  let x := vecAt d v
  if off % 16 < 8 then modVec v (fun y => { y with addr := mergeWrite off size x.addr data }) d
  else
    let w := mergeWrite off size (BitVec.ofNat 64 (x.data.toNat + (if x.mask then 2 ^ 32 else 0))) data
    unmaskVector now v (modVec v (fun y => { y with data := BitVec.ofNat 32 (w.toNat % 2 ^ 32), mask := bit w 32 }) d)

/-- A write to HOST_EPOCH (R422). -/
def writeEpoch (off size : Nat) (data : W64) (p : Plat) : Plat :=
  { p with clk := { p.clk with hostEpoch := mergeWrite off size p.clk.hostEpoch data, hostEpochAt := p.clk.elapsedReg } }

/-- A write to the RNG stream table (R235, R356): discarded during a run; STEP and CTL recompute the stream's ORIGIN. -/
def writeRng (off size : Nat) (data : W64) (d : Dev) : Dev :=
  if anyRun d then d
  else
    let s := (off - 0x80000) / 32
    let x := streamAt d s
    let upd (y : RngStream) : Dev := { d with rng := tset {} d.rng s y }
    match (off - 0x80000) % 32 / 8 with
    | 0 => upd { x with key := mergeWrite off size x.key data }
    | 1 => setOrigin s (upd { x with step := mergeWrite off size x.step data })
    | 2 => upd { x with next := mergeWrite off size x.next data }
    | _ => setOrigin s (upd { x with adv := bit (mergeWrite off size (if x.adv then 1#64 else 0#64) data) 0 })

/-- A write to the data cursor (R356): discarded during a run; STEP recomputes every ORIGIN. -/
def writeCursor (off size : Nat) (data : W64) (d : Dev) : Dev :=
  let j := (off - 0xF0100) / 8
  if anyRun d || j > 11 then d
  else
    let d1 := onOxb (fun o => { o with cursor := tset 0#64 o.cursor j (mergeWrite off size (tget 0#64 o.cursor j) data) }) d
    if j = 0 then setOrigins d1 else d1

/-- PWR_LIMIT takes the nearer bound (Table 16.7a). -/
def clampLimit (v : Nat) : BitVec 16 := BitVec.ofNat 16 (max 2000 (min 7500 v))

/-- A write to a BAR0 register, by its access type; offsets that hold no writable register ignore it. -/
def writeReg (off size : Nat) (data : W64) (x : Plat × Dev) : Plat × Dev :=
  let p := x.1
  let d := x.2
  let onlyDev (d : Dev) : Plat × Dev := (p, d)
  if !accessOk off size then x
  else if 0x1000 ≤ off ∧ off < 0x14C0 then
    let r := (off - 0x1000) / 0x40
    let y := ringAt d r
    match (off - 0x1000) % 0x40 / 8 with
    | 0 => if y.enable then x
      else
        let v := mergeWrite off size (BitVec.ofNat 64 (y.base.toNat * 4096)) data
        onlyDev (modRing r (fun y => { y with base := BitVec.ofNat 52 (v.toNat / 4096) }) d)
    | 1 => onlyDev (writeRingCtl p.now r (mergeWrite off size (ringCtlReg y) data) d)
    | 4 => onlyDev (modRing r (clearStat p (reached off size data)) d)
    | _ => x
  else if off / 8 = 0x1800 / 8 then
    let v := mergeWrite off size (BitVec.ofNat 64 (d.host.aperBase.toNat * 2 ^ 21)) data
    onlyDev (onHost (fun h => { h with aperBase := BitVec.ofNat 19 (fld v 39 21) }) d)
  else if off / 8 = 0x2010 / 8 then (writeEpoch off size data p, d)
  else if 0x3000 ≤ off ∧ off < 0x3400 then onlyDev (writeMsix p.now off size data d)
  else if off / 8 = 0x4008 / 8 then
    let v := mergeWrite off size (BitVec.ofNat 64 p.sup.pwrLimit.toNat) data
    ({ p with sup := { p.sup with pwrLimit := clampLimit (fld v 15 0) } }, d)
  else if 0x80000 ≤ off ∧ off < 0xA0000 then onlyDev (writeRng off size data d)
  else if off / 8 = 0xA2018 / 8 then
    let v := mergeWrite off size (BitVec.ofNat 64 d.near.ageLimit.toNat) data
    onlyDev (onNear (fun n => { n with ageLimit := BitVec.ofNat 16 (max 256 (fld v 15 0)) }) d)
  else if off / 8 = 0xE0200 / 8 then
    let v := mergeWrite off size (BitVec.ofNat 64 d.obs.traceMask.toNat) data
    onlyDev { d with obs := { d.obs with traceMask := BitVec.ofNat 8 (fld v 7 0) } }
  else if 0xF0100 ≤ off ∧ off < 0xF0180 then onlyDev (writeCursor off size data d)
  else x

/-- REGISTER_WRITE. -/
def execRegisterWrite (offset size : Nat) (data : W64) (s : State) : Out :=
  if s.plat.alive then onBoth s (writeReg offset size data) else .next s

/-- RNG_TABLE_WRITE (R235). -/
def execRngTableWrite (offset size : Nat) (data : W64) (s : State) : Out :=
  onDev s (fun p d =>
    if p.alive && accessOk offset size && decide (0x80000 ≤ offset) && decide (offset < 0xA0000) then writeRng offset size data d else d)

/-- OXB_CURSOR_WRITE (R356). -/
def execOxbCursorWrite (offset size : Nat) (data : W64) (s : State) : Out :=
  onDev s (fun p d =>
    if p.alive && accessOk offset size && decide (0xF0100 ≤ offset) && decide (offset < 0xF0180) then writeCursor offset size data d else d)

/-- HOST_EPOCH_WRITE (R422). -/
def execHostEpochWrite (offset size : Nat) (data : W64) (s : State) : Out :=
  onPlat s (fun p =>
    if p.alive && accessOk offset size && offset / 8 == 0x2010 / 8 then writeEpoch offset size data p else p)

/-- ELAPSED_READ (R422): 8 bytes are one consistent value, and copy CYCLE into CYCLE_AT; 4 bytes read the low half. -/
def execElapsedRead (size : Nat) (s : State) : Out :=
  if !s.plat.alive then .next s
  else
    let v := s.plat.clk.elapsedReg.toNat
    if size = 8 then
      .next { s with plat := { s.plat with clk := { s.plat.clk with cycleAt := s.plat.clk.cycle } },
                     dev := hostOut (.read (natLe 8 v)) s.dev }
    else if size = 4 then .next { s with dev := hostOut (.read (natLe 4 v)) s.dev }
    else .next { s with dev := hostOut .unsupportedRequest s.dev }

/-! ### Rings (R384, R385, R389) -/

/-- RING_ENABLE: ENABLE goes from 0 to 1. -/
def execRingEnable (ring : Nat) (ctl : W64) (s : State) : Out :=
  onDev s (fun p d => if p.alive && decide (ring < 19) && !(ringAt d ring).enable && bit ctl 0 then writeRingCtl p.now ring ctl d else d)

/-- RING_DISABLE: ENABLE goes from 1 to 0. -/
def execRingDisable (ring : Nat) (ctl : W64) (s : State) : Out :=
  onDev s (fun p d => if p.alive && decide (ring < 19) && (ringAt d ring).enable && !bit ctl 0 then writeRingCtl p.now ring ctl d else d)

/-- Packets at HEAD that R389 refuses are taken and completed at once, in order; the first that is not refused, or cannot be taken
yet, waits for its own command. (DEDUCED: LOG 19.) -/
def refusePackets (p : Plat) (ring : Nat) : List Packet → Dev → Dev
  | [], d => d
  | pkt :: rest, d =>
    if canTake p d ring pkt then
      match takeChecks d ring pkt with
      | none => d
      | some st =>
        let t := takeIt ring pkt d
        refusePackets p ring rest (complete p.now t.1 st 0 t.2)
    else d

/-- TAIL_DOORBELL (R385). -/
def execTailDoorbell (ring value : Nat) (refused : List Packet) (s : State) : Out :=
  onDev s (fun p d =>
    if !p.alive || decide (8 < ring) then d
    else if !(ringAt d ring).enable || decide ((ringAt d ring).size ≤ value) then setBadDb p ring d
    else refusePackets p ring refused (modRing ring (fun r => { r with tail := value }) d))

/-- HEAD_DOORBELL (R385, R408): entries of a completion ring or the event ring (9 to 18) are free again; with the event ring's first
free entry the lost events are told. -/
def execHeadDoorbell (ring value : Nat) (s : State) : Out :=
  onDev s (fun p d =>
    if !p.alive || decide (ring < 9) || decide (18 < ring) then d
    else if !(ringAt d ring).enable || decide ((ringAt d ring).size ≤ value) then setBadDb p ring d
    else
      let d1 := modRing ring (fun r => { r with head := value }) d
      if ring = 18 then postLost p.now d1 else d1)

/-! ### MSI-X (R387, R377) -/

/-- VECTOR_UNMASK: one vector's Mask, or (none) the Function Mask, is cleared. -/
def execVectorUnmask (vector : Option Nat) (s : State) : Out :=
  onDev s (fun p d =>
    if !p.alive then d
    else
      match vector with
      | some v => if v < 64 then unmaskVector p.now v (modVec v (fun x => { x with mask := false }) d) else d
      | none => (List.range 10).foldl (fun d v => trySend p.now v d) (onHost (fun h => { h with funcMask := false }) d))

/-- HOLDOFF_EXPIRY: the message that waited for the holdoff. -/
def execHoldoffExpiry (vector : Nat) (s : State) : Out :=
  onDev s (fun p d => if p.alive && decide (vector < 10) then trySend p.now vector d else d)

/-- POWER_STATE_CHANGE (R377): every state is kept; back in D0 the messages go. -/
def execPowerStateChange (d3 : Bool) (s : State) : Out :=
  onDev s (fun p d =>
    if !p.alive then d
    else
      let d1 := onHost (fun h => { h with d3 := d3 }) d
      if d3 then d1 else (List.range 10).foldl (fun d v => trySend p.now v d) d1)

/-! ### The aperture (R402, R403) and other requests -/

/-- The near-tier address an aperture offset reaches. -/
def aperAddr (d : Dev) (x : Nat) : Nat := (d.host.aperBase.toNat * 2 ^ 21 + x) % 2 ^ 40

/-- AER records an advisory Unsupported Request. -/
def aerUnsupported (d : Dev) : Dev := onHost (fun h => { h with aerUr := h.aerUr + 1 }) d

/-- APERTURE_READ: Unsupported Request outside every valid region, else LC requests at port 3 (R260); the answer comes when the last is
served. -/
def execApertureRead (offset len : Nat) (s : State) : Out :=
  onDev s (fun p d =>
    if !p.alive || p.boot.selfRefresh || decide (2 ^ 28 < offset + len) then d
    else
      let a := aperAddr d offset
      if !mapped d a len then hostOut .unsupportedRequest (aerUnsupported d)
      else openAccess p 1 .host .read a len [] none d)

/-- APERTURE_WRITE: discarded outside every valid region, else NORMAL requests at port 3 (R260). -/
def execApertureWrite (offset : Nat) (data : List Byte) (s : State) : Out :=
  onDev s (fun p d =>
    if !p.alive || p.boot.selfRefresh || decide (2 ^ 28 < offset + data.length) then d
    else
      let a := aperAddr d offset
      if mapped d a data.length then openAccess p 2 .host .write a data.length data none d else aerUnsupported d)

/-- ATOMICOP_REQUEST (R377). -/
def execAtomicopRequest (s : State) : Out :=
  onDev s (fun p d => if p.alive then hostOut .unsupportedRequest d else d)

/-- HOST_READ_FAILED (R405): a failed fetch disables its ring; a MOVE with a host source ends with BAD_PARAM; HOST_DMA_ERROR. -/
def execHostReadFailed (read : HostRead) (s : State) : Out :=
  onDev s (fun p d =>
    if !p.alive then d
    else
      match read with
      | .fetch ring addr =>
        if ring ≤ 8 && (ringAt d ring).enable then
          postEvent p.now 0x0002 (natLe 1 ring ++ List.replicate 7 0#8 ++ natLe 8 addr.toNat)
            (setDmaErr p ring d)
        else d
      | .move h t addr =>
        match runOf d h with
        | none => d
        | some r =>
          let desc := descOf (graphAt d h) t
          if (taskAt r t).st == .running && dKind desc == 3 && mvSrcSp desc == 2 then
            postEvent p.now 0x0002 (natLe 1 0xFF ++ natLe 1 h ++ natLe 2 0 ++ natLe 4 t ++ natLe 8 addr.toNat)
              (modTask h t (setFate stBadParam 0) d)
          else d)

/-! ### HELLO and IDENTIFY (R391, R393, R442) -/

/-- HELLO's answer: status, DETAIL, and the agreed version when it is accepted. -/
def helloAnswer (minv maxv : Nat) : Nat × Nat × Option Nat :=
  let v := min maxv 0x13
  let ok := decide (v ≥ max minv 0x10)
  let detail (x : Nat) : Nat := x + 0x10 * 2 ^ 8 + 0x13 * 2 ^ 16
  if minv > maxv then (stBadParam, 0, none)
  else if ok then (stOk, detail v, some v) else (stVersion, detail 0, none)

/-- HELLO (R391). -/
def execHello (ring : Nat) (pkt : Packet) (s : State) : Out :=
  onDev s (fun p => takePacket ring pkt (pkOpcode pkt == 1) (fun id d =>
    let r := helloAnswer (par pkt 0 1) (par pkt 1 1)
    complete p.now id r.1 r.2.1
      (match r.2.2 with | none => d | some v => onHost (fun h => { h with yenelVer := BitVec.ofNat 8 v }) d)) p)

/-- IDENT_CAP (Table 15.4). -/
def identCap : Nat := 0x13 * 2 ^ 32 + 0x10 * 2 ^ 24 + 0x2 * 2 ^ 20 + 0x2 * 2 ^ 16 + 0x3 * 2 ^ 12

/-- BAR0 0x000 to 0x17F (Tables 1.3, 15.4). -/
def identBlock (d : Dev) : List Byte :=
  natLe 8 (identPart d.geom) ++ natLe 8 d.fw.nid.toNat ++ natLe 8 d.geom.gen.toNat ++ natLe 8 (geomStatus d.geom) ++
    rowBytes d.geom ++ natLe 8 (geomTiles d.geom) ++ natLe 8 identCap ++ List.replicate 0xC0 0#8 ++
    (List.range 16).flatMap (fun k => natLe 8 (retiredOf d.geom k).toNat)

/-- The block IDENTIFY writes. -/
def identifyRecord (d : Dev) : List Byte :=
  identBlock d ++ List.replicate 0x80 0#8 ++ fwInventory d.fw ++ List.replicate 0xB00 0#8

/-- IDENTIFY (R393). -/
def execIdentify (ring : Nat) (pkt : Packet) (s : State) : Out :=
  onDev s (fun p => takePacket ring pkt (pkOpcode pkt == 2) (fun id d =>
    finish p.now id (
      if par pkt 8 4 < 4096 then (stBadParam, 0, d)
      else (stOk, 0, hostWrite (par pkt 0 8) (identifyRecord d) d))) p)

/-! ### TELEMETRY_READ (Tables 15.9, 16.8) -/

/-- A temperature in 1/16 °C as a signed 16-bit value. -/
def temp16 (t : Int) : List Byte := natLe 2 (t % 65536).toNat

/-- The sensor record (Table 16.8). -/
def sensorRecord (p : Plat) : List Byte :=
  natLe 8 p.therm.sampledAt ++ natLe 4 p.sup.vin.toNat ++ natLe 4 p.sup.iin ++ natLe 4 p.sup.p1ms ++ natLe 4 p.sup.p1s ++
    natLe 4 p.sup.vbus ++ natLe 1 p.clk.div ++ natLe 1 p.clk.cause.toNat ++ natLe 2 0 ++
    (List.range 16).flatMap (fun i => temp16 (p.therm.reach.getD i 0)) ++ (List.range 32).flatMap (fun i => temp16 (p.therm.dram.getD i 0)) ++
    (List.range 4).flatMap (fun i => temp16 (p.therm.hub.getD i 0)) ++ (List.range 12).flatMap (fun i => temp16 (p.therm.outfall.getD i 0)) ++
    natLe 8 p.sup.energy ++ List.replicate 88 0#8

/-- A value of each logical tile of a die, in ascending tile number. -/
def perTile (d : Dev) (die : Nat) (f : Tile → List Byte) : List Byte :=
  (List.range (100 * rowsOf d.geom die)).flatMap (fun i =>
    match tileOf d.geom (die * 5000 + i) with | none => [] | some k => f (tget {} d.tiles k))

/-- The record of a selection; none for another WHAT or an INDEX outside its range. -/
def telemetryRecord (p : Plat) (d : Dev) (what index : Nat) : Option (List Byte) :=
  match what with
  | 0 => if index < 16 then some (perTile d index (fun t => t.cnt.flatMap (fun c => natLe 4 c.toNat))) else none
  | 1 =>
    if index < 16 then
      let r := tget {} d.obs.trace index
      some ((List.range 65536).flatMap (fun i => natLe 16 (tget 0#128 r.recs ((r.head.toNat + i) % 65536)).toNat))
    else none
  | 2 => if index = 0 then some ((List.range 1024).flatMap (fun g =>
      natLe 8 (chanAt d g).corrected.toNat ++ natLe 8 (chanAt d g).uncorrectable.toNat)) else none
  | 3 => if index < 16 then some (perTile d index (fun t => natLe 8 t.corrected.toNat)) else none
  | 4 => if index = 0 then some (sensorRecord p) else none
  | _ => none

/-- Bytes a selection writes (Table 15.9). (DEDUCED: LOG 78.) -/
def telemetrySize (d : Dev) (what index : Nat) : Nat :=
  match what with
  | 0 => 2800 * rowsOf d.geom index | 1 => 2 ^ 20 | 2 => 16384 | 3 => 800 * rowsOf d.geom index | _ => 256

/-- TELEMETRY_READ (R393, R429). -/
def execTelemetryRead (ring : Nat) (pkt : Packet) (s : State) : Out :=
  onDev s (fun p => takePacket ring pkt (pkOpcode pkt == 0x90) (fun id d =>
    finish p.now id (
      match telemetryRecord p d (par pkt 0 1) (par pkt 2 2) with
      | none => (stBadParam, 0, d)
      | some r =>
        if par pkt 0x10 4 < telemetrySize d (par pkt 0 1) (par pkt 2 2) then (stBadParam, 0, d)
        else (stOk, 0, hostWrite (par pkt 8 8) r d))) p)

end Sys2Proof.Machine
end

