-- ==== Sys2Proof/Machine/Admin.lean ====
section
/-! DEFINITION. Taking quadrants out of service and back (15 R399 to R401), SECURE_ERASE, SELF_TEST and the end of long operations (R395,
R396), function-level reset, PERST# and the training of the host link (R397, 18 R457, R458). -/

namespace Sys2Proof.Machine

/-! ### Quadrants (R399, R400) -/

/-- The started runs that involve a quadrant and that nothing has aborted yet. -/
def drainRuns (d : Dev) (q : Nat) : List Nat :=
  (d.runs.filter (fun r => r.started && !r.aborted && involves (graphAt d r.handle) q)).map (·.handle)

/-- FORCE = 1: abort them, set FORCED; the command waits with their number. -/
def forceDrain (p : Plat) (id q : Nat) (d : Dev) : Dev :=
  let l := drainRuns d q
  modQuad q (fun x => { x with forced := true, waiters := x.waiters ++ [(id, l.length)] }) (l.foldl (fun d h => abortRun p h d) d)

/-- QUADRANT_DRAIN's effect. FORCED tells of the last drain, so a new one clears it. (DEDUCED: LOG 80.) -/
def drainBody (p : Plat) (id : Nat) (pkt : Packet) (d : Dev) : Dev :=
  let q := par pkt 0 1
  let force := par pkt 1 1
  let wait (d : Dev) : Dev :=
    if force = 1 then forceDrain p id q d else modQuad q (fun x => { x with waiters := x.waiters ++ [(id, 0)] }) d
  if q > 3 || force > 1 then complete p.now id stBadParam 0 d
  else
    match (quadAt d q).state with
    | .unavailable => complete p.now id stOk 0 d
    | .drained => complete p.now id stOk 0 d
    | .draining => wait d
    | .inService =>
      wait (modQuad q (fun x => { x with state := .draining, forced := false })
        { d with runs := d.runs.map (fun r =>
            if !r.started && involves (graphAt d r.handle) q then { r with drainHit := true } else r) })

/-- QUADRANT_DRAIN (R399). -/
def execQuadrantDrain (ring : Nat) (pkt : Packet) (s : State) : Out :=
  onDev s (fun p => takePacket ring pkt (pkOpcode pkt == 0x80) (fun id d => drainBody p id pkt d) p)

/-- Nothing keeps a draining quadrant from being drained: no run that involves it, no Oxbow drain in flight (R399, R360). -/
def drainOver (d : Dev) (q : Nat) : Bool :=
  !d.runs.any (fun r => r.started && involves (graphAt d r.handle) q) && !draining d

/-- QUADRANT_DRAINED: the commands that waited complete with the number of runs each aborted. -/
def execQuadrantDrained (q : Nat) (s : State) : Out :=
  onDev s (fun p d =>
    let x := quadAt d q
    if p.alive && x.state == .draining && drainOver d q then
      x.waiters.foldl (fun d w => complete p.now w.1 stOk (w.2 % 256) d)
        (modQuad q (fun x => { x with state := .drained, waiters := [] }) d)
    else d)

/-- QUADRANT_RESUME's effect: repairs, geometry, service. -/
def resumeBody (p : Plat) (id : Nat) (pkt : Packet) (d : Dev) : Dev :=
  let q := par pkt 0 1
  if q > 3 || (quadAt d q).state != .drained then complete p.now id stBadParam 0 d
  else complete p.now id stOk 0 (modQuad q (fun x => { x with state := .inService }) (applyQuadRepairs p.now q d))

/-- QUADRANT_RESUME (R400). -/
def execQuadrantResume (ring : Nat) (pkt : Packet) (s : State) : Out :=
  onDev s (fun p => takePacket ring pkt (pkOpcode pkt == 0x81) (fun id d => resumeBody p id pkt d) p)

/-! ### Long operations (R395, R396, R286) -/

/-- An ATTACHED port is detached to UP; its partner is told (R313). -/
def detachPort (now p : Nat) (d : Dev) : Dev :=
  if (portAt d p).state == .attached then sendTxn p now (mgmtTxn 0x05 []) (toUp p now none d) else d

/-- Every ATTACHED port returns to UP. -/
def detachAll (now : Nat) (d : Dev) : Dev := (List.range 48).foldl (fun d p => detachPort now p d) d

/-- What SECURE_ERASE leaves: near tier outside retired pages, SRAM, instruction stores, descriptor memory, trace rings, RNG table and
region tables read zero; every graph is unloaded, every port is UP (R396). -/
def eraseAll (now : Nat) (d : Dev) : Dev :=
  let held (k : Nat) : Bool := (chanAt d (k / 2 ^ 27)).retired.contains (k % 2 ^ 27 / 65536)
  let clean (c : Chan) : Chan := { c with poison := [], ce := [], scrubMark := [], scrubNow := [] }
  let d1 := { d with
    near := { d.near with mem := d.near.mem.filter (fun c => held c.1), regions := [],
                          chans := d.near.chans.map (fun e => (e.1, clean e.2)) },
    tiles := d.tiles.map (fun e => (e.1, { e.2 with sram := [], sram1 := [], sram2 := [], store := [], store1 := [], store2 := [] })),
    graphs := [], rng := [],
    links := { d.links with far := [] },
    obs := { d.obs with trace := d.obs.trace.map (fun e => (e.1, { e.2 with recs := [] })) } }
  detachAll now (setOrigins d1)

/-- SECURE_ERASE (R396). (DEDUCED: LOG 81.) -/
def execSecureErase (ring : Nat) (pkt : Packet) (s : State) : Out :=
  onDev s (fun p => takePacket ring pkt (pkOpcode pkt == 0xB0) (fun id d =>
    if anyRun d || draining d then complete p.now id stBusy 0 d else startLong id .secureErase d) p)

/-- SELF_TEST (R396). (DEDUCED: LOG 82.) -/
def execSelfTest (ring : Nat) (pkt : Packet) (s : State) : Out :=
  onDev s (fun p => takePacket ring pkt (pkOpcode pkt == 0xC0) (fun id d =>
    let m := par pkt 0 1
    if m > 15 || (bitsOf 4 m).any (fun q => !quadDrained d q) then complete p.now id stBadParam 0 d
    else startLong id (.selfTest m) d) p)

/-- A channel fails: MEM_CHANNEL_FAILED (R277). -/
def failChan (now g : Nat) (d : Dev) : Dev :=
  postEvent now 0x0021 (natLe 2 g) (modChan g (fun c => { c with state := .failed }) d)

/-- A tile position exists and is not marked failed yet. -/
def sound (d : Dev) (x : Nat × Nat × Nat) : Bool :=
  decide (x.1 < 16) && decide (x.2.1 < 50) && decide (x.2.2 < 102) && !d.geom.failed.contains (physNum x.1 x.2.1 x.2.2)

/-- The end of a SELF_TEST of quadrants m: its tiles are marked failed, its channels FAILED; each of them a failure-class event (R361); DETAIL counts
them. -/
def selfTestDone (now m : Nat) (res : LongResult) (d : Dev) : Nat × Dev :=
  let ts := (res.tiles.filter (fun x => m.testBit (x.1 / 4) && sound d x)).eraseDups
  let cs := (res.chans.filter (fun g => decide (g < 1024) && m.testBit (g / 256) && inService d g)).eraseDups
  (ts.length + cs.length * 65536,
    cs.foldl (fun d g => failChan now g d) (ts.foldl (fun d x => markTile now 1 (physNum x.1 x.2.1 x.2.2) d) d))

/-- The end of a MEM_BIST of channels l: zero-filled and retrained, failing rows repaired, failing channels FAILED (R286). -/
def bistDone (now : Nat) (l : List Nat) (res : LongResult) (d : Dev) : Dev :=
  let d1 := l.foldl (fun d g => zeroFill g (modChan g (fun c =>
    if c.retraining == some .test then { c with retraining := none, laneErr := [] } else c) d)) d
  let d2 := (res.chans.filter (fun g => l.contains g && inService d g)).foldl (fun d g => failChan now g d) d1
  (res.rows.filter (fun x => l.contains x.1 && decide (x.2.1 < 16) && decide (x.2.2 < 4096))).foldl
    (fun d x => repairRow now x.1 x.2.1 x.2.2 d) d2

/-- The long operation ends with its completion, and the admin ring is free (R395). -/
def endLong (now id st detail : Nat) (d : Dev) : Dev := complete now id st detail (onHost (fun h => { h with longOp := none }) d)

/-- LONG_OPERATION_DONE (R395): each operation's own end. An SFU activation ends by SFU_ACTIVATION; a restore and a retrain go on while
they still wait. -/
def longDone (now : Nat) (res : LongResult) (d : Dev) : Dev :=
  match d.host.longOp with
  | none => d
  | some (id, op) =>
    match op with
    | .restore r => restoreGo now id r d
    | .fwCommit _ _ _ => d
    | .fwDone st detail => endLong now id st detail d
    | .memRetrain l => if l.any (fun g => (chanAt d g).retraining.isSome) then d else endLong now id stOk 0 d
    | .memBist l => endLong now id stOk 0 (bistDone now l res d)
    | .secureErase => endLong now id stOk 0 (eraseAll now d)
    | .selfTest m => let r := selfTestDone now m res d; endLong now id stOk r.1 r.2

/-- LONG_OPERATION_DONE. -/
def execLongOperationDone (res : LongResult) (s : State) : Out :=
  onDev s (fun p d => if p.serving && !d.host.flrWait then askRestore p (longDone p.now res d) else d)

/-! ### Resets (R397, Table 15.11) -/

/-- What a reset does to the long operation. Retrains it leaves under way end by their own commands. -/
def stopLong (now : Nat) (d : Dev) : Dev :=
  let off (d : Dev) : Dev := onHost (fun h => { h with longOp := none }) d
  match d.host.longOp with
  | some (_, .restore r) => off (onOxb (fun o => { o with restored := false }) (undoInstall r (forget .restore d)))
  | some (_, .fwCommit c b w) =>
    off (if w then onFw (modComp c (fun x => x.setSlot b { x.slot b with state := .invalid })) d else d)
  | some (_, .memBist l) => off (l.foldl (fun d g => zeroFill g d) d)
  | some (_, .secureErase) => off (eraseAll now d)
  | _ => off d

/-- Every started run is aborted and will post nothing; the waiting ones are dropped; graphs without a run are unloaded. -/
def stopRuns (p : Plat) (d : Dev) : Dev :=
  let live : List Run := d.runs.filter (·.started)
  let d1 : Dev := { d with runs := live.map (fun r => { r with silent := true, aborts := [] }) }
  let d2 := (d1.runs.map (·.handle)).foldl (fun d h => abortRun p h d) d1
  { d2 with graphs := d2.graphs.filter (fun e => d2.runs.any (fun r => r.handle == e.1)) }

/-- Nothing waits for a packet any more. -/
def dropPackets (d : Dev) : Dev :=
  let port (x : Port) : Port :=
    { x with attachWait := [], attest := match x.attest with | some a => if a.pkt.isSome then none else some a | none => none }
  { d with
    links := { d.links with ports := d.links.ports.map (fun e => (e.1, port e.2)) },
    quads := d.quads.map (fun e => (e.1, { e.2 with waiters := [] })),
    oxb := { d.oxb with snap := d.oxb.snap.map (fun x => { x with pkt := none }) },
    host := { d.host with taken := [] } }

/-- The registers of the host interface at their reset values; event numbers, the count of dropped events and AER stay. -/
def resetHost (d : Dev) : Dev :=
  onHost (fun h => { h with rings := [], vec := [], funcMask := false, aperBase := 0, yenelVer := 0, d3 := false }) d

/-- What both resets do (Table 15.11), the boot ROM last (R438), once the runs they abort are over (R337). (DEDUCED: LOG 83.) -/
def resetCommon (p : Plat) (d : Dev) : Dev :=
  let d1 := stopRuns p (stopLong p.now (onHost (fun h => { h with flrWait := false }) d))
  let d2 := onFw (fun f => { f with staged := none }) { unpair (resetHost (dropPackets d1)) with spdm := {} }
  if anyRun d2 then onFw (fun f => { f with bootWaits := true }) d2 else bootRom p.now (draining d2) d2

/-- The channels that a long operation trains and that are still training (R287). -/
def trainingOf (d : Dev) : List Nat :=
  match d.host.longOp with
  | some (_, .memRetrain l) => l.filter (fun g => (chanAt d g).retraining.isSome)
  | some (_, .memBist l) => l.filter (fun g => (chanAt d g).retraining.isSome)
  | _ => []

/-- FUNCTION_LEVEL_RESET (R397). A MEM_RETRAIN finishes first; a MEM_BIST stops, and its channels are zero-filled and retrained before the
reset completes (R287). -/
def execFunctionLevelReset (s : State) : Out :=
  onDev s (fun p d =>
    if !p.alive then d
    else if (trainingOf d).isEmpty then resetCommon p d
    else
      let d1 := match d.host.longOp with | some (_, .memBist l) => l.foldl (fun d g => zeroFill g d) d | _ => d
      onHost (fun h => { h with flrWait := true }) d1)

/-- CHANNEL_RETRAIN_DONE (R276): a training ends, well or not; the reset that waited for it takes place (R287). -/
def execChannelRetrainDone (g : Nat) (res : ChanTrain) (s : State) : Out :=
  onDev s (fun p d =>
    if !p.alive then d
    else
      let d1 := retrainEnd p g res d
      if d1.host.flrWait && (trainingOf d1).isEmpty then resetCommon p d1 else d1)

/-- What PERST# clears besides: region tables, far-region table, Oxbow policy, attachments. -/
def resetMore (now : Nat) (d : Dev) : Dev :=
  detachAll now (onOxb (fun o => { o with policy := none, k := 1#32, lambda := 0, lambdaAt := now })
    (onNear (fun n => { n with regions := [], regionGen := n.regionGen + 1#32 }) { d with links := { d.links with far := [] } }))

/-- The host link goes down. -/
def dropLink (x : Plat × Dev) : Plat × Dev :=
  if x.1.boot.link = .down then x
  else ({ x.1 with boot := { x.1.boot with link := .down } }, hostOut (.linkState false) x.2)

/-- PERST_ASSERT (R458, R397): the link leaves L0 and Table 15.11 applies; during stages 0 to 4 nothing but the pin changes (R457). (DEDUCED: LOG 84.) -/
def execPerstAssert (s : State) : Out :=
  onBoth s (fun x =>
    let p := { x.1 with boot := { x.1.boot with perst := true } }
    if x.1.boot.perst || !p.alive || p.boot.stage != 5#8 then (p, x.2)
    else dropLink (p, resetMore p.now (resetCommon p x.2)))

/-- A power-failed part restarts (R458): channels leave self-refresh, tiles run again, D returns by R420; the engines power up by
POWER_UP_STAGGER. -/
def restart (p : Plat) : Plat :=
  { p with
    sup := { p.sup with state := .normal, low := 0 },
    clk := { p.clk with cause := p.clk.cause &&& 0x3F#7, lastCause := p.now },
    boot := { p.boot with selfRefresh := false, restartWaits := false } }

/-- PERST_DEASSERT (R457, R458): the link may train once stage 5 has begun; a power-failed part restarts when VIN is at or above 40 V,
or waits for it. -/
def perstUp (p : Plat) : Plat :=
  let p1 := { p with boot := { p.boot with perst := false, link := if p.boot.stage = 5#8 then .detect else p.boot.link } }
  if p.sup.state != .powerFailed then p1
  else if p.sup.vin.toNat ≥ 40000 then restart p1
  else { p1 with boot := { p1.boot with restartWaits := true } }

/-- PERST_DEASSERT. -/
def execPerstDeassert (s : State) : Out :=
  onPlat s (fun p =>
    if !p.boot.perst then p
    else if p.alive then perstUp p
    else { p with boot := { p.boot with perst := false } })

/-- Channels that a reset left to be retrained before the link trains (Table 15.11). -/
def linkHeld (d : Dev) : Bool :=
  d.near.chans.any (fun e => e.2.retraining == some .test || e.2.retraining == some .command)

/-- HOST_LINK_TRAINED (R457): the link leaves Detect for L0. -/
def execHostLinkTrained (s : State) : Out :=
  onBoth s (fun x =>
    if x.1.alive && x.1.boot.link == .detect && !x.1.boot.perst && !linkHeld x.2 then
      ({ x.1 with boot := { x.1.boot with link := .trained } }, hostOut (.linkState true) x.2)
    else x)

end Sys2Proof.Machine
end

