-- ==== Sys2Proof/Machine/Platform.lean ====
section
/-! DEFINITION. The platform (16, 18): supply states and the power-fail sequence, power-up and bring-up, the clock divider and gating
grants, sensors, trips. -/

namespace Sys2Proof.Machine

/-! ### Events -/

/-- SUPPLY_EVENT of a kind (R428). -/
def supplyEvent (now kind : Nat) (d : Dev) : Dev := postEvent now 0x0062 (natLe 1 kind) d

/-- D becomes n; every change writes a CLOCK record (R420). -/
def setDiv (n : Nat) (x : Plat × Dev) : Plat × Dev :=
  if n = x.1.clk.div then x
  else ({ x.1 with clk := { x.1.clk with div := n } }, traceRec x.1.cyc 5 0x08 5 0 n x.2)

/-- CLOCK_CHANGED, at most once per millisecond, with the value at posting (R420). (DESIGN CHOICE: LOG 25.) -/
def showDiv (x : Plat × Dev) : Plat × Dev :=
  let c := x.1.clk
  let ripe := match c.lastEvt with | none => true | some t => decide (t + 100000 ≤ c.elapsed)
  if c.div != c.shown && ripe then
    ({ x.1 with clk := { c with shown := c.div, lastEvt := some c.elapsed } }, postEvent c.elapsed 0x0061 (natLe 1 c.div) x.2)
  else x

/-! ### The power-fail sequence (R412, R398, R370) -/

/-- Every run stops: its running tasks end with POWER_FAIL_ABORT. What waits at the channels is not served any more. (DEDUCED: LOG 85.) -/
def failRuns (p : Plat) (d : Dev) : Dev :=
  onNear (fun n => { n with accs := [] }) <| keepReqs (fun _ => false) <| ((d.runs.filter (·.started)).map (·.handle)).foldl (fun d h =>
    stopTasks p h stPower everyTask (modRun h (fun r => { r with powerFail := true, stopped := true }) d)) d

/-- One outstanding packet ends with POWER_FAIL_ABORT; a GRAPH_RUN that had started leaves its record and its DETAIL (R398, R225). -/
def failPacket (p : Plat) (d : Dev) (t : Taken) : Dev :=
  match d.runs.find? (fun r => r.started && r.pkt == some t.id) with
  | none => complete p.now t.id stPower 0 d
  | some r =>
    let g := graphAt d r.handle
    let segs := segmentsField g r
    let d1 := if r.record = 0#64 then d else hostWrite r.record.toNat (runRecord p d g r segs) d
    complete p.now t.id (runStatus g r).1 (runStatus g r).2 d1

/-- The packets not yet completed, in the order in which they were taken, while the host link is up; then no run is left. -/
def failPackets (p : Plat) (d : Dev) : Dev :=
  let d1 := if p.boot.link = .trained then d.host.taken.foldl (failPacket p) d else { d with host := { d.host with taken := [] } }
  let ended (e : Nat × Graph) : Nat × Graph :=
    if e.2.state = .running ∨ e.2.state = .aborting then
      (e.1, { e.2 with state := if e.2.invalidate then .invalid else .loaded, invalidate := false }) else e
  { d1 with runs := [], graphs := d1.graphs.map ended, quads := d1.quads.map (fun e => (e.1, { e.2 with waiters := [] })),
            oxb := { d1.oxb with waiting := false } }

/-- Every Outfall engine stops transmitting: no port has a link any more. -/
def darkPorts (now : Nat) (d : Dev) : Dev := (List.range 48).foldl (fun d p => linkLost p now 0 false d) d

/-- The sequence, as one step: the clocks move to 24, dispatch stops, Oxbow issues its writes, the channels enter self-refresh, the host is
told. It never reverses. (DEDUCED: LOG 85.) -/
def powerFail (x : Plat × Dev) : Plat × Dev :=
  let p := x.1
  let now := p.now
  let p1 := { p with
    sup := { p.sup with state := .powerFailed },
    clk := { p.clk with cause := p.clk.cause ||| 0x40#7, lastCause := now },
    boot := { p.boot with engOn := 0, selfRefresh := true } }
  let y := showDiv (setDiv 24 (p1, supplyEvent now 2 x.2))
  (y.1, powerFailOxbow now (p.boot.link == .trained) (failPackets p (darkPorts now (failRuns p y.2))))

/-! ### What a power cycle keeps (R19, R277, R281, R282, R431) -/

/-- A channel after power has gone: a FAILED one is mapped out at the next power-up, its fuses keep remaps and retired pages. -/
def coldChan (c : Chan) : Chan :=
  { state := if c.state = .inService then .inService else .mappedOut, retired := c.retired, remaps := c.remaps, spareUsed := c.spareUsed }

/-- MEM_CAP of a set of channels in service. -/
def capacity (d : Dev) : Nat :=
  (List.range 1024).foldl (fun a g => if chanState d g = .mappedOut then a else a + (2 ^ 27 - 65536 * (chanAt d g).retired.length)) 0

/-- The device after power has gone: fuses and the firmware store are all it keeps. (DEDUCED: LOG 86.) -/
def coldDev (d : Dev) : Dev :=
  let fresh : Dev := {
    geom := { grade := d.geom.grade, gen := d.geom.gen, retired := d.geom.retired, byp := d.geom.byp },
    fw := { d.fw with staged := none, pendFail := false, recovery := false, oxbWaits := false, bootWaits := false },
    freeCtr := d.freeCtr, out := d.out }
  let lost := (d.near.chans.filter (fun e => e.2.state == .failed)).length
  let d1 := onNear (fun n => { n with chans := (d.near.chans.map (fun e => (e.1, coldChan e.2))).filter (fun e => e.2 != {}),
                                      memmapGen := 1#32 + BitVec.ofNat 32 lost, regionGen := BitVec.ofNat 32 lost }) fresh
  onNear (fun n => { n with memCap := BitVec.ofNat 40 (capacity d1) }) d1

/-- Everything off: below 30 V all state is lost and every latch falls (R409, R425). The pins that the board drives stay. -/
def goOff (mv : Nat) (warn : Bool) (x : Plat × Dev) : Plat × Dev :=
  ({ sup := { phase := .off, vin := BitVec.ofNat 32 mv, warn := warn },
     boot := { stage := 0#8, perst := x.1.boot.perst } }, coldDev x.2)

/-- A supply fault before every step of Table 16.2 has finished (R415): rails and converters go off. The management port keeps answering
(R454). -/
def supplyFault (x : Plat × Dev) : Plat × Dev :=
  let p := x.1
  ({ p with
     sup := { p.sup with phase := .off, state := .normal, low := 0, okSamples := 0, ov := false },
     boot := { p.boot with fail := 3#8, rails := 0, engOn := 0, snPerst := 0xF#4, link := .down, hubFail := 0, dieFail := 0,
                           selfRefresh := false, restartWaits := false } }, coldDev x.2)

/-- Every step of Table 16.2 has finished: it ends 45 ms after power-good. (DEDUCED: LOG 87.) -/
def staggerDone (p : Plat) : Bool := p.sup.phase == .up && decide (4500000 ≤ p.now)

/-- A trip, or what acts as one, has shut the part down (R421, R425). -/
def tripped (p : Plat) : Bool := p.therm.trip || p.therm.alertRoot

/-! ### VIN (R409, R411) -/

/-- SUPPLY_STAT.OV and its events. -/
def overVoltage (mv : Nat) (x : Plat × Dev) : Plat × Dev :=
  let p := x.1
  let ov := decide (60000 < mv)
  if ov = p.sup.ov then x
  else ({ p with sup := { p.sup with ov := ov } }, supplyEvent p.now (if ov then 3 else 4) x.2)

/-- Ride-through: entered at the first sample below 40 V, left at the first at or above it. -/
def rideThrough (mv : Nat) (x : Plat × Dev) : Plat × Dev :=
  let p := x.1
  if p.sup.state = .normal ∧ mv < 40000 then
    ({ p with sup := { p.sup with state := .rideThrough, rideSince := p.now } }, supplyEvent p.now 0 x.2)
  else if p.sup.state = .rideThrough ∧ 40000 ≤ mv then
    ({ p with sup := { p.sup with state := .normal } }, supplyEvent p.now 1 x.2)
  else x

/-- A sample in a running part: two in a row below 36 V fail the supply; a power-failed part only waits for 40 V to restart. -/
def sampleUp (mv : Nat) (x : Plat × Dev) : Plat × Dev :=
  let y := overVoltage mv x
  if y.1.sup.state = .powerFailed then
    (if y.1.boot.restartWaits && decide (40000 ≤ mv) then (restart y.1, y.2) else y)
  else
    let z := rideThrough mv y
    let n := if mv < 36000 then z.1.sup.low + 1 else 0
    let z1 := ({ z.1 with sup := { z.1.sup with low := n } }, z.2)
    if n ≥ 2 then powerFail z1 else z1

/-- What a sample does (Table 16.1). A power-fail condition during a trip changes nothing (R425). -/
def vinStep (mv : Nat) (warn : Bool) (x : Plat × Dev) : Plat × Dev :=
  if mv < 30000 then goOff mv warn x
  else
    let p := x.1
    let good := decide (40000 ≤ mv) && !warn
    let p1 := { p with sup := { p.sup with vin := BitVec.ofNat 32 mv, warn := warn, okSamples := if good then p.sup.okSamples + 1 else 0 } }
    if tripped p || p.mgmt.dumped || p.sup.phase == .off then (p1, x.2)
    else if !staggerDone p && (decide (mv < 36000) || warn) then supplyFault (p1, x.2)
    else if p.sup.phase == .up then sampleUp mv (p1, x.2)
    else (p1, x.2)

/-- VIN_SAMPLE (R409): above 80 V nothing is promised. -/
def execVinSample (mv : Nat) (warn : Bool) (s : State) : Out :=
  if 80000 < mv then .fault .beyondAbsoluteMaximum else onBoth s (vinStep mv warn)

/-- RIDE_THROUGH_EXPIRY (R411): 10 ms without a sample at or above 40 V. (DEDUCED: LOG 90.) -/
def execRideThroughExpiry (s : State) : Out :=
  onBoth s (fun x =>
    if x.1.alive && x.1.sup.state == .rideThrough && decide (x.1.sup.rideSince + 1000000 ≤ x.1.now) then powerFail x else x)

/-- PWR_WARN_ASSERT (R411, R415): held for 1 µs. -/
def execPwrWarnAssert (s : State) : Out :=
  onBoth s (fun x =>
    let p := { x.1 with sup := { x.1.sup with warn := true, okSamples := 0 } }
    if tripped p || p.mgmt.dumped || p.sup.phase == .off then (p, x.2)
    else if !staggerDone p then supplyFault (p, x.2)
    else if p.sup.state == .powerFailed then (p, x.2)
    else powerFail (p, x.2))

/-! ### Power-up and bring-up (R414, R415, R456) -/

/-- POWER_UP: VIN has risen through 40 V; after a supply fault it must have stayed there for 10 ms. -/
def execPowerUp (s : State) : Out :=
  onPlat s (fun p =>
    if p.sup.phase == .off && decide (40000 ≤ p.sup.vin.toNat) && !tripped p && !p.mgmt.dumped &&
        (p.boot.fail != 3#8 || decide (10000 ≤ p.sup.okSamples)) then
      { p with sup := { p.sup with phase := .starting }, clk := {}, boot := { p.boot with stage := 0#8, fail := 0#8 } }
    else p)

/-- POWER_GOOD: ROOT locks, ELAPSED and CYCLE start from zero, TEST_MODE is sampled (R455); without REFCLK the lock is tried again. -/
def execPowerGood (testMode refclkOk : Bool) (s : State) : Out :=
  onPlat s (fun p =>
    if p.sup.phase != .starting then p
    else if !refclkOk then { p with boot := { p.boot with fail := 2#8 } }
    else { p with sup := { p.sup with phase := .up }, clk := {},
                  boot := { p.boot with stage := 1#8, fail := 0#8, testMode := testMode } })

/-- The dies whose hub failed. -/
def hubDies (h : BitVec 4) : BitVec 16 :=
  BitVec.ofNat 16 ((List.range 16).foldl (fun a d => if h.toNat.testBit (d / 4) then a + 2 ^ d else a) 0)

/-- Reach-die work is over: every die has its rails or has failed, and no channel trains any more. -/
def diesDone (x : Plat × Dev) : Bool :=
  (x.1.boot.rails ||| x.1.boot.dieFail ||| hubDies x.1.boot.hubFail) == 0xFFFF#16 &&
    !x.2.near.chans.any (fun e => e.2.retraining == some .powerUp)

/-- Stage 4 (R18, R20, R21, R278): what self-test found is repaired and burned and posts nothing, each tile
a failure-class event (R361); failed hubs and dies are unavailable, and
their channels leave MEM_CAP. (DEDUCED: LOG 108.) -/
def loadGeometry (res : SelfTestResult) (x : Plat × Dev) : Plat × Dev :=
  let p := x.1
  let d := x.2
  let ts := (res.tiles.filter (sound d)).eraseDups
  let fail := p.boot.dieFail ||| res.dieFail
  let g1 := { d.geom with repairs := d.geom.repairs ++ ts,
                          failed := (ts.map (fun t => physNum t.1 t.2.1 t.2.2)).reverse ++ d.geom.failed }
  let g2 := { applyRepairs (fun _ => true) g1 with
    dieAvail := ~~~(fail ||| hubDies p.boot.hubFail), quadAvail := ~~~ p.boot.hubFail }
  let gone := bitsOf 4 p.boot.hubFail.toNat
  let d1 := gone.foldl (fun d q => modQuad q (fun y => { y with state := .unavailable }) d) { d with geom := g2 }
  ({ p with boot := { p.boot with dieFail := fail } },
    failureEvents p.now ts.length (onNear (fun n => { n with memCap := BitVec.ofNat 40 (capacity d1) }) d1))

/-- A stage begins (Table 18.4). -/
def beginStage (n : Nat) (x : Plat × Dev) : Plat × Dev := ({ x.1 with boot := { x.1.boot with stage := BitVec.ofNat 8 n } }, x.2)

/-- The time after power-good at which a stage begins, in ELAPSED ticks. -/
def stageAt : Nat → Nat
  | 2 => 100000 | 3 => 2000000 | 4 => 4250000 | _ => 5000000

/-- A stage's work: hub self-test and the boot ROM in stage 2 (a failed hub 0 stops the part there), geometry in stage 4, release of
SNq_PERST# and, with PERST# high, Detect in stage 5. (DEDUCED: LOG 89.) -/
def stageWork (n : Nat) (res : SelfTestResult) (x : Plat × Dev) : Plat × Dev :=
  let p := x.1
  let setBoot (f : Boot → Boot) : Plat := { p with boot := f p.boot }
  match n with
  | 2 =>
    if res.hubFail.toNat.testBit 0 then (setBoot (fun b => { b with hubFail := res.hubFail, fail := 1#8 }), x.2)
    else
      let d := bootRom p.now false x.2
      (setBoot (fun b => { b with hubFail := res.hubFail, fail := if d.fw.recovery then 4#8 else b.fail }), d)
  | 4 => loadGeometry res x
  | 5 => (setBoot (fun b => { b with snPerst := 0#4, link := if b.perst then b.link else .detect }), x.2)
  | _ => x

/-- BRINGUP_STAGE (R456): stages 2 to 5 in order, each at its time; stage 4 when the Reach-die work is over; none after hub 0 has failed. -/
def execBringupStage (stage : Nat) (res : SelfTestResult) (s : State) : Out :=
  onBoth s (fun x =>
    let p := x.1
    if p.alive && decide (2 ≤ stage) && decide (stage ≤ 5) && p.boot.stage.toNat + 1 == stage && decide (stageAt stage ≤ p.now) &&
        p.boot.fail != 1#8 && (stage != 4 || diesDone x) then
      stageWork stage res (beginStage stage x)
    else x)

/-- A Reach die's rails ramp (Table 16.2, steps 4 and 5): its channels train and zero-fill; a rail that fails leaves the die unpowered
(R415). -/
def rampDie (die : Nat) (ok : Bool) (x : Plat × Dev) : Plat × Dev :=
  let p := x.1
  let b := BitVec.ofNat 16 (2 ^ die)
  if ok then
    ({ p with boot := { p.boot with rails := p.boot.rails ||| b } },
      (upFrom (64 * die) 64).foldl (fun d g =>
        if (chanAt d g).state = .mappedOut then d else modChan g (fun c => { c with retraining := some .powerUp }) d) x.2)
  else ({ p with boot := { p.boot with dieFail := p.boot.dieFail ||| b } }, x.2)

/-- The dies below have ramped or failed: at most one ramps at a time (R414). -/
def diesBelow (p : Plat) (die : Nat) : Bool :=
  (List.range die).all (fun k => (p.boot.rails ||| p.boot.dieFail).toNat.testBit k)

/-- An Outfall engine may power up: in order, its hub is sound, every DRAM die has been initialised (R414, R21). (DEDUCED: LOG 88.) -/
def engineReady (x : Plat × Dev) (e : Nat) : Bool :=
  let p := x.1
  let lost (k : Nat) : Bool := p.boot.hubFail.toNat.testBit (k / 3)
  !lost e && (List.range e).all (fun k => lost k || p.boot.engOn.toNat.testBit k) && diesDone x

/-- POWER_UP_STAGGER (R414, R458). -/
def execPowerUpStagger (step : StaggerStep) (s : State) : Out :=
  onBoth s (fun x =>
    let p := x.1
    match step with
    | .reach die ok =>
      if p.alive && decide (die < 16) && decide (200000 * die ≤ p.now) && diesBelow p die &&
          !(p.boot.rails ||| p.boot.dieFail).toNat.testBit die then rampDie die ok x
      else x
    | .engine e =>
      if p.serving && decide (e < 12) && decide (3400000 + 100000 * e ≤ p.now) && !p.boot.engOn.toNat.testBit e && engineReady x e then
        ({ p with boot := { p.boot with engOn := p.boot.engOn ||| BitVec.ofNat 12 (2 ^ e) } }, x.2)
      else x)

/-! ### The clock divider and gating (R420, R417) -/

/-- CLK_STAT.CAUSE (Table 16.7a): from bit 0 up, heat of Reach dies or hubs, of DRAM dies, 1 ms power, PWR_LIMIT, current, droop of the
bus, power fail. -/
def causesOf (p : Plat) (m : PowerMeas) : BitVec 7 :=
  let b (c : Bool) (n : Nat) : Nat := if c then 2 ^ n else 0
  BitVec.ofNat 7 (b (p.therm.stretchReach != 0 || p.therm.stretchHub != 0) 0 + b (p.therm.stretchDram != 0) 1 +
    b (decide (8500000 < m.p1ms)) 2 + b (decide (p.sup.pwrLimit.toNat * 1000 < m.p1s)) 3 + b (decide (212000 < m.iin)) 4 +
    b (decide (m.vbus < 5700)) 5 + b (p.sup.state == .powerFailed) 6)

/-- The current limit, the 1 ms limit or PWR_LIMIT holds. -/
def electric (c : BitVec 7) : Bool := (c &&& 0x1C#7) != 0#7

/-- The rule of R420: the new D, and the clock with the times of what was done. -/
def divRule (now : Nat) (c : BitVec 7) (k : Clk) : Nat × Clk :=
  if c.toNat.testBit 6 then (24, k)
  else if c.toNat.testBit 5 then (min (k.div + 1) 24, k)
  else if electric c then
    (if k.lastElec + 1000 ≤ now then (min (k.div + 1) 24, { k with lastElec := now }) else (k.div, k))
  else if (c &&& 3#7) != 0#7 then
    (if k.lastTherm + 10000 ≤ now then (min (k.div + 1) 24, { k with lastTherm := now }) else (k.div, k))
  else if k.lastCause + 100000 ≤ now ∧ k.lastLower + 100000 ≤ now ∧ 6 < k.div then (k.div - 1, { k with lastLower := now })
  else (k.div, k)

/-- Once a second. -/
def ripeSecond (now : Nat) (t : Option Nat) : Bool := match t with | none => true | some u => decide (u + 100000000 ≤ now)

/-- SUPPLY_EVENT kinds 5 and 6: a limit becomes the cause of a stretch (R428). (DEDUCED: LOG 91.) -/
def limitEvents (now : Nat) (old new : BitVec 7) (x : Plat × Dev) : Plat × Dev :=
  let acts := electric new && (new &&& 0x60#7) == 0#7
  let was5 := (old &&& 0x14#7) != 0#7
  let is5 := (new &&& 0x14#7) != 0#7
  let k := x.1.clk
  let y := if acts && is5 && !was5 && ripeSecond now k.lastKind5 then
      ({ x.1 with clk := { k with lastKind5 := some now } }, supplyEvent now 5 x.2) else x
  let k1 := y.1.clk
  if acts && new.toNat.testBit 3 && !old.toNat.testBit 3 && ripeSecond now k1.lastKind6 then
    ({ y.1 with clk := { k1 with lastKind6 := some now } }, supplyEvent now 6 y.2)
  else y

/-- Arrays that wait for their gating grant: logical tile number, array, physical tile, in grant order (R417). (DEDUCED: LOG 92.) -/
def wantGate (d : Dev) : List (Nat × Nat × Nat) :=
  let l := d.tiles.flatMap (fun e =>
    let t := e.2
    if t.phase != .idle && (graphAt d t.handle).powerClass == 1 then
      (if t.passA.isEmpty && !t.gated.toNat.testBit 0 then [(t.number, 0, e.1)] else []) ++
        (if t.passB.isEmpty && !t.gated.toNat.testBit 1 then [(t.number, 1, e.1)] else [])
    else [])
  l.mergeSort (fun a b => decide (a.1 < b.1 ∨ (a.1 = b.1 ∧ a.2.1 ≤ b.2.1)))

/-- The grants of one tick: at most 32 arrays. -/
def grantGates (d : Dev) : Dev :=
  ((wantGate d).take 32).foldl (fun d w =>
    { d with tiles := tmod {} d.tiles w.2.2 (fun t => { t with gated := t.gated ||| BitVec.ofNat 2 (2 ^ w.2.1) }) }) d

/-- What the platform manager does in an ELAPSED tick. -/
def clockTick (m : PowerMeas) (x : Plat × Dev) : Plat × Dev :=
  let p := x.1
  let now := p.now
  let c := causesOf p m
  let r := divRule now c p.clk
  let k := { r.2 with cause := c, lastCause := if c = 0#7 then r.2.lastCause else now, updAt := some now }
  let p1 := { p with
    clk := k, sup := { p.sup with vbus := m.vbus, iin := m.iin, p1ms := m.p1ms, p1s := m.p1s, energy := m.energy } }
  let y := showDiv (setDiv r.1 (limitEvents now p.clk.cause c (p1, x.2)))
  (y.1, grantGates y.2)

/-- CLOCK_DIVIDER_UPDATE (R420, R417), once in each ELAPSED tick. -/
def execClockDividerUpdate (meas : PowerMeas) (s : State) : Out :=
  onBoth s (fun x => if x.1.alive && x.1.clk.updAt != some x.1.now then clockTick meas x else x)

/-! ### Heat (R423 to R425, R284) -/

/-- An action that starts at or above one temperature and ends below another, in °C. -/
def hyst (old : Bool) (t : Int) (rise clear : Nat) : Bool :=
  if t ≥ 16 * (rise : Int) then true else if t < 16 * (clear : Int) then false else old

/-- The same for the dies of a kind. -/
def hystBits (n : Nat) (old : BitVec n) (l : List Int) (rise clear : Nat) : BitVec n :=
  BitVec.ofNat n ((List.range n).foldl (fun a i => if hyst (old.toNat.testBit i) (l.getD i 0) rise clear then a + 2 ^ i else a) 0)

/-- THERMAL_ALERT for each die whose alert is new: kind 0 Reach, 1 DRAM. -/
def thermalAlerts (now kind n : Nat) (old new : BitVec n) (l : List Int) (d : Dev) : Dev :=
  (bitsOf n (new &&& ~~~old).toNat).foldl (fun d i =>
    postEvent now 0x0060 (natLe 1 kind ++ natLe 1 i ++ natLe 2 ((l.getD i 0 / 16) % 65536).toNat) d) d

/-- A stopped engine's ports enter FAILED (Table 16.5). (DEDUCED: LOG 94.) -/
def failEngine (now e : Nat) (d : Dev) : Dev :=
  (upFrom (4 * e) 4).foldl (fun d p => modPort p (fun y => { y with state := .failed, since := now }) (linkLost p now 1 true d)) d

/-- The shutdown of a trip (R425): clocks stop, rails and converters go off. (DEDUCED: LOG 98.) -/
def shutDown (x : Plat × Dev) : Plat × Dev :=
  let p := x.1
  dropLink ({ p with
    clk := { p.clk with running := false },
    sup := { p.sup with phase := .off },
    boot := { p.boot with rails := 0, engOn := 0, snPerst := 0xF#4, selfRefresh := false, restartWaits := false } }, x.2)

/-- A reading that trips: 110 °C on a Reach die or hub, 100 °C on a DRAM die. -/
def tripReading (r : SensorReadings) : Bool :=
  (r.reach.take 16).any (fun t => decide (t ≥ 1760)) || (r.hub.take 4).any (fun t => decide (t ≥ 1760)) ||
    (r.dram.take 32).any (fun t => decide (t ≥ 1600))

/-- The thermal state after a reading. -/
def readTherm (now : Nat) (r : SensorReadings) (t : Therm) : Therm :=
  { t with
    sampledAt := now,
    reach := (List.range 16).map (fun i => r.reach.getD i 0), dram := (List.range 32).map (fun i => r.dram.getD i 0),
    hub := (List.range 4).map (fun i => r.hub.getD i 0), outfall := (List.range 12).map (fun i => r.outfall.getD i 0),
    stretchReach := hystBits 16 t.stretchReach r.reach 100 97, stretchHub := hystBits 4 t.stretchHub r.hub 100 97,
    stretchDram := hystBits 32 t.stretchDram r.dram 92 89,
    alertReach := hystBits 16 t.alertReach r.reach 105 102, alertHub := hystBits 4 t.alertHub r.hub 105 102,
    alertDram := hystBits 32 t.alertDram r.dram 97 94, alertOut := hystBits 12 t.alertOut r.outfall 80 77,
    hotDram := hystBits 32 t.hotDram r.dram 85 82, offOut := hystBits 12 t.offOut r.outfall 90 85 }

/-- The management window's sensor record is refreshed every 1 ms (Table 18.3). (DEDUCED: LOG 93.) -/
def refreshWindow (p : Plat) : Plat :=
  let ripe := match p.mgmt.sensorsAt with | none => true | some t => decide (t + 100000 ≤ p.now)
  if ripe then { p with mgmt := { p.mgmt with sensors := sensorRecord p, sensorsAt := some p.now } } else p

/-- What a reading does (Tables 16.5 and 11.11). -/
def senseStep (r : SensorReadings) (x : Plat × Dev) : Plat × Dev :=
  let p := x.1
  let now := p.now
  let t := readTherm now r p.therm
  let d1 := thermalAlerts now 1 32 p.therm.alertDram t.alertDram r.dram
    (thermalAlerts now 0 16 p.therm.alertReach t.alertReach r.reach x.2)
  let d2 := (bitsOf 12 (t.offOut &&& ~~~p.therm.offOut).toNat).foldl (fun d e => failEngine now e d) d1
  let p1 := refreshWindow { p with therm := t }
  if tripReading r then shutDown ({ p1 with therm := { t with trip := true } }, d2) else (p1, d2)

/-- SENSOR_SAMPLE (R423, R424): every 10 µs. -/
def execSensorSample (r : SensorReadings) (s : State) : Out :=
  onBoth s (fun x =>
    if x.1.alive && (x.1.therm.sampledAt == 0 || decide (x.1.therm.sampledAt + 1000 ≤ x.1.now)) then senseStep r x else x)

/-- ROOT_LOCK_LOSS (R421): as a trip, with ALERT# in place of THERMTRIP#. -/
def execRootLockLoss (s : State) : Out :=
  onBoth s (fun x =>
    if x.1.alive then shutDown ({ x.1 with therm := { x.1.therm with alertRoot := true } }, x.2) else x)

end Sys2Proof.Machine
end

