-- ==== Sys2Proof/Machine/Manage.lean ====
section
/-! DEFINITION. The management port (18 R454, Table 18.3) and the JTAG port (R461, R462). -/

namespace Sys2Proof.Machine

/-! ### Registers of the platform manager (Tables 16.7a, 18.3) -/

/-- STATE of SUPPLY_STAT. -/
def SupState.code : SupState → Nat
  | .normal => 0 | .rideThrough => 1 | .powerFailed => 2

/-- SUPPLY_STAT. -/
def supplyStat (p : Plat) : Nat :=
  p.sup.vin.toNat * 2 ^ 32 + (if p.sup.ov then 16 else 0) + (if p.sup.warn then 8 else 0) + p.sup.state.code

/-- CLK_STAT. -/
def clkStat (p : Plat) : Nat := p.clk.cause.toNat * 2 ^ 8 + p.clk.div

/-- The highest of some temperatures in whole °C, as a signed byte; 0 before the first sample. -/
def maxTemp : List Int → Nat
  | [] => 0
  | t :: l => ((l.foldl max t / 16) % 256).toNat

/-- THERM_STAT. -/
def thermStat (p : Plat) : Nat :=
  let t := p.therm
  let b (c : Bool) (n : Nat) : Nat := if c then 2 ^ n else 0
  b (t.alertReach != 0 || t.alertHub != 0) 16 + b (t.alertDram != 0) 17 + b (t.alertOut != 0) 18 +
    maxTemp t.dram * 256 + maxTemp (t.reach ++ t.hub)

/-- BOOT_STAT. -/
def bootStat (p : Plat) : Nat := p.boot.fail.toNat * 256 + p.boot.stage.toNat

/-- The management window; offsets without contents read zero. IDENT_NID is there from stage 2. -/
def windowBytes (p : Plat) (d : Dev) : List Byte :=
  let rec0 := if p.mgmt.sensors.isEmpty then List.replicate 256 0#8 else p.mgmt.sensors
  rec0 ++ natLe 8 (supplyStat p) ++ natLe 8 (clkStat p) ++ natLe 8 (thermStat p) ++ natLe 8 (identPart d.geom) ++
    natLe 8 (if p.boot.stage.toNat ≥ 2 then d.fw.nid.toNat else 0) ++ natLe 8 (secStat p.boot.testMode d.fw) ++ natLe 8 (bootStat p)

/-! ### The I3C target (R454) -/

/-- The port answers: from 1 ms after power-good until VIN falls below 30 V, not during a trip. -/
def i3cUp (p : Plat) : Bool := decide (100000 ≤ p.now) && !tripped p

/-- Change the management port. -/
def onMgmt (f : Mgmt → Mgmt) (p : Plat) : Plat := { p with mgmt := f p.mgmt }

/-- I3C_PRIVATE_WRITE: two bytes set the offset; any other length is ignored. -/
def execI3cPrivateWrite (data : List Byte) (s : State) : Out :=
  onPlat s (fun p => if i3cUp p && data.length == 2 then onMgmt (fun m => { m with off := leNat data }) p else p)

/-- I3C_PRIVATE_READ: n bytes from the offset, which advances by one for each. (DEDUCED: LOG 97.) -/
def execI3cPrivateRead (n : Nat) (s : State) : Out :=
  onBoth s (fun x =>
    if i3cUp x.1 then
      let w := windowBytes x.1 x.2
      let l := (List.range n).map (fun i => w.getD ((x.1.mgmt.off + i) % 65536) 0#8)
      (onMgmt (fun m => { m with off := (m.off + n) % 65536 }) x.1, { x.2 with out := { x.2.out with i3c := x.2.out.i3c ++ l } })
    else x)

/-- I3C_ADDRESS_ASSIGN: SETDASA to the static address 0x3A; ENTDAA only without a dynamic address. -/
def execI3cAddressAssign (a : I3cAssign) (s : State) : Out :=
  onPlat s (fun p =>
    if !i3cUp p then p
    else
      match a with
      | .setdasa st dyn => if st = 0x3A ∧ dyn < 128 then onMgmt (fun m => { m with dyn := some dyn }) p else p
      | .entdaa dyn => if p.mgmt.dyn.isNone && decide (dyn < 128) then onMgmt (fun m => { m with dyn := some dyn }) p else p)

/-! ### JTAG (R461, R462) -/

/-- The port answers from 1 ms after power-good (Table 18.4), while the rails are up. -/
def jtagUp (p : Plat) : Bool := decide (100000 ≤ p.now) && (p.sup.phase == .up)

/-- What TDO shifts out. -/
def tdo (l : List Bool) (d : Dev) : Dev := { d with out := { d.out with jtag := d.out.jtag ++ l } }

/-- An instruction is selected and scanned. -/
def jtag (code : Byte) (f : Plat → Dev → Plat × Dev) (s : State) : Out :=
  onBoth s (fun x => if jtagUp x.1 then f (onMgmt (fun m => { m with ir := code }) x.1) x.2 else x)

/-- n free bits: the order of the boundary-scan chain stands in the BSDL file, not in the spec. -/
def freeBits : Nat → Dev → List Bool × Dev
  | 0, d => ([], d)
  | n + 1, d => let v := freeVal 1 d; let r := freeBits n v.2; (v.1.getLsbD 0 :: r.1, r.2)

/-- A scan of the boundary register: it shifts out what it captured and takes the new cells. -/
def scanCells (code : Byte) (cells : List Bool) (s : State) : Out :=
  jtag code (fun p d => let r := freeBits cells.length d; (onMgmt (fun m => { m with cells := cells }) p, tdo r.1 r.2)) s

/-- EXTEST: the sideband outputs follow the cells. -/
def execExtest (cells : List Bool) (s : State) : Out := scanCells 0x00#8 cells s

/-- SAMPLE/PRELOAD. -/
def execSamplePreload (cells : List Bool) (s : State) : Out := scanCells 0x01#8 cells s

/-- IDCODE: 0x1D64_09C5, least significant bit first. -/
def execIdcode (s : State) : Out :=
  jtag 0x02#8 (fun p d => (p, tdo ((List.range 32).map (fun i => Nat.testBit 0x1D6409C5 i)) d)) s

/-- The bypass register: one bit, captured as 0. (PRESUMED: LOG 95.) -/
def bypassBit (p : Plat) (d : Dev) : Plat × Dev := (p, tdo [false] d)

/-- CLAMP: the outputs keep what the cells hold. -/
def execClamp (s : State) : Out := jtag 0x03#8 bypassBit s

/-- HIGHZ: the outputs are released. -/
def execHighz (s : State) : Out := jtag 0x04#8 bypassBit s

/-- BYPASS: 0xFF and every code of no listed instruction, and the private codes without TEST_MODE. -/
def isBypass (p : Plat) (code : Byte) : Bool :=
  decide (4 < code.toNat) && (!(0x40 ≤ code.toNat && code.toNat ≤ 0x43) || !p.boot.testMode)

/-- BYPASS. -/
def execBypass (code : Byte) (s : State) : Out :=
  onBoth s (fun x =>
    if jtagUp x.1 && isBypass x.1 code then bypassBit (onMgmt (fun m => { m with ir := code }) x.1) x.2 else x)

/-- A private instruction: BYPASS unless TEST_MODE was sampled high. -/
def privateJtag (code : Byte) (f : Plat → Dev → Plat × Dev) (s : State) : Out :=
  jtag code (fun p d => if p.boot.testMode then f p d else bypassBit p d) s

/-- The sideband outputs follow the boundary-scan cells; THERMTRIP# is asserted by a trip whatever they hold (R462). -/
def pinsFromCells (p : Plat) : Bool := p.mgmt.ir == 0x00#8 || p.mgmt.ir == 0x03#8 || p.mgmt.ir == 0x04#8

/-- The device itself asserts ALERT#: some die's alert, or loss of ROOT lock (R424, R452). -/
def alertAsserted (p : Plat) : Bool := p.therm.alertRoot || thermStat p / 65536 != 0

/-- THERMTRIP# is asserted by its latch (R452). -/
def thermTripAsserted (p : Plat) : Bool := p.therm.trip

/-- The quadrants of some channels or dies are drained: else the scan returns 1 and changes nothing. -/
def scanStatus (busy : Bool) (p : Plat) (d : Dev) (f : Dev → Option Dev) : Plat × Dev :=
  if busy then (p, tdo [true] d)
  else
    match f d with
    | some d' => (p, tdo [false] d')
    | none => let r := freeBits 1 d; (p, tdo r.1 r.2)

/-- The channel MEMREP names. -/
def memRepChan : MemRepOp → Nat
  | .rowRemap c _ _ => c | .rowRetire c _ _ => c | .laneSpare c _ => c | .laneMapout c _ => c

/-- A bank and a row exist. -/
def rowExists (bank row : Nat) : Bool := decide (bank < 16) && decide (row < 4096)

/-- MEMREP's repair, within the limits of Table 11.13; none when it is refused, whose status bit the spec does not state. (DEDUCED: LOG 96.) -/
def memrepBody (now : Nat) (op : MemRepOp) (d : Dev) : Option Dev :=
  match op with
  | .rowRemap c b r => if rowExists b r then repairRowNow now c b r true d else none
  | .rowRetire c b r => if rowExists b r then repairRowNow now c b r false d else none
  | .laneSpare c l => if l < 576 then spareLane c l d else none
  | .laneMapout c _ => mapOut c d

/-- MEMREP (R462, R288). -/
def execMemrep (op : MemRepOp) (s : State) : Out :=
  privateJtag 0x40#8 (fun p d => scanStatus (!quadDrained d (quadOfChan (memRepChan op))) p d (memrepBody p.now op)) s

/-- TBIST (R462): chosen tiles that fail are marked failed with cause 1 (R17). -/
def execTbist (tiles failing : List (Nat × Nat × Nat)) (s : State) : Out :=
  privateJtag 0x41#8 (fun p d =>
    scanStatus (tiles.any (fun t => !quadDrained d (quadOfDie t.1))) p d (fun d =>
      some (((failing.filter (fun t => tiles.contains t && sound d t)).eraseDups).foldl
        (fun d t => markTile p.now 1 (physNum t.1 t.2.1 t.2.2) d) d))) s

/-- Every run ends without a completion. -/
def killRuns (d : Dev) : Dev :=
  { d with
    host := { d.host with taken := d.host.taken.filter (fun t =>
      !d.runs.any (fun r => r.pkt == some t.id || r.aborts.contains t.id)) },
    runs := [],
    graphs := d.graphs.map (fun e =>
      if e.2.state = .running ∨ e.2.state = .aborting then (e.1, { e.2 with state := .loaded }) else e) }

/-- SCANDUMP (R462): every domain clock stops until the next power-up, and internal state is shifted out. -/
def execScandump (bits : Nat) (s : State) : Out :=
  privateJtag 0x42#8 (fun p d =>
    ({ p with clk := { p.clk with running := false }, mgmt := { p.mgmt with dumped := true } },
      tdo ((List.range bits).map Config.scanBits) (killRuns d))) s

/-- FUSEPROG's quadrant. -/
def fuseQuad : FuseTarget → Nat
  | .tile d _ _ => quadOfDie d | .rowRemap c _ _ => quadOfChan c | .pageRetire c _ _ => quadOfChan c

/-- FUSEPROG's effect: a tile becomes a pending repair without being marked failed; a row is remapped or its page retired at once. -/
def fuseBody (now : Nat) (t : FuseTarget) (d : Dev) : Option Dev :=
  match t with
  | .tile die r c => if r < 50 ∧ c < 102 then some (addRepair die r c d) else none
  | .rowRemap c b r => if rowExists b r then repairRowNow now c b r true d else none
  | .pageRetire c b r => if rowExists b r then repairRowNow now c b r false d else none

/-- FUSEPROG (R462). -/
def execFuseprog (target : FuseTarget) (s : State) : Out :=
  privateJtag 0x43#8 (fun p d => scanStatus (!quadDrained d (fuseQuad target)) p d (fuseBody p.now target)) s

end Sys2Proof.Machine
end

