-- ==== Sys2Proof/Machine/Vector.lean ====
section
/-! DEFINITION. The vector unit (02 R42 and R53 to R57, 08 R185 to R187): elementwise operations, reductions, register
images. -/

namespace Sys2Proof.Machine

/-! ### NaN payloads (R42) -/

/-- The IEEE formats whose rounding direction RND chooses (R55, R185). -/
def isIeee : Fmt → Bool
  | .fp16 | .bf16 | .fp32 | .fp64 => true
  | _ => false

/-- Formats whose NaNs carry a quiet bit and a payload (Table 2.6). -/
def hasPayload (f : Fmt) : Bool := isIeee f || f == .e5m2

/-- The quiet bit of a format. -/
def quietBit (f : Fmt) : Nat := 2 ^ ((floatParams f).1 - 2)

/-- A pattern is a NaN of a floating format. -/
def isNanBits (f : Fmt) (b : Nat) : Bool := isFloat f && numNar (decode f true b)

/-- A pattern is a signalling NaN. -/
def isSnan (f : Fmt) (b : Nat) : Bool := hasPayload f && isNanBits f b && !(b.testBit ((floatParams f).1 - 2))

/-- INVALID for a signalling NaN among the operands. -/
def snanFlag (f : Fmt) (bs : List Nat) : Flags := flagIf (bs.any (isSnan f)) fInvalid

/-- The first NaN among the operands, with its quiet bit set. -/
def firstNan (f : Fmt) (bs : List Nat) : Option Nat :=
  (bs.find? (isNanBits f)).map (fun b => if hasPayload f then b ||| quietBit f else nanBits f)

/-- A NaN converted between formats that have payloads: the most significant payload bits that fit, quiet; canonical where the
kept payload is zero. A kept payload keeps its sign bit. (DESIGN CHOICE: LOG 113.) -/
def convertNan (f g : Fmt) (b : Nat) : Nat :=
  let pf := (floatParams f).1
  let pg := (floatParams g).1
  let pay := b % 2 ^ (pf - 2)
  let kept := if pg ≥ pf then pay * 2 ^ (pg - pf) else pay / 2 ^ (pf - pg)
  if kept = 0 then nanBits g
  else (if b.testBit (fmtBits f - 1) then 2 ^ (fmtBits g - 1) else 0) +
    (2 ^ (fmtBits g - pg) - 1) * 2 ^ (pg - 1) + 2 ^ (pg - 2) + kept

/-! ### One element -/

/-- A result of the vector unit: pattern, flags, DIVZERO. -/
structure VRes where
  bits : Nat
  flags : Flags
  dz : Bool := false
deriving DecidableEq, Repr

/-- What the fields of a vector instruction say of its formats. -/
structure VArgs where
  f : Fmt
  g : Fmt
  sg : Bool
  rnd : Rnd
  away : Bool
deriving DecidableEq, Repr

/-- Directions by RND code (Table 8.7). -/
def rndOf (c : Nat) : Rnd := match c with | 0 => .rne | 1 => .up | 2 => .down | _ => .zero

/-- Reading them. -/
def vArgs (ws : List W64) : VArgs :=
  { f := fmtOf (vFmt (wd ws 0)), g := fmtOf (vFmt2 (wd ws 1)), sg := vSign (wd ws 1), rnd := rndOf (vRnd (wd ws 0)),
    away := vAway (wd ws 0) }

/-- Rounding options of an operation in its own format: RND for the IEEE formats, else ties to even. -/
def VArgs.opts (a : VArgs) : RndOpts := { rnd := if isIeee a.f then a.rnd else .rne }

/-- An arithmetic operation: the first NaN operand quieted (R42), else the exact result rounded once (R55, R57, R44); a non-real
result of a posit or integer operation sets INVALID alone (R57, R185). -/
def vArith (a : VArgs) (op : List Num → Num × Flags × Bool) (bs : List Nat) : VRes :=
  match firstNan a.f bs with
  | some b => ⟨b, snanFlag a.f bs, false⟩
  | none =>
    let r := op (bs.map (decode a.f a.sg))
    let x := roundTo a.f a.sg a.opts false r.1
    ⟨x.1, (if numFinite r.1 then x.2 else x.2 &&& fInvalid) ||| r.2.1, r.2.2 && isFloat a.f⟩

/-- The n-th operand value. -/
def arg (l : List Num) (n : Nat) : Num := l.getD n .nar

/-- An exact zero sum is -0 under rounding toward -infinity (R55). -/
def VArgs.down (a : VArgs) : Bool := isIeee a.f && a.rnd == .down

/-- ADD. -/
def opAdd (a : VArgs) (l : List Num) : Num × Flags × Bool :=
  let r := numAdd a.down (arg l 0) (arg l 1)
  (r.1, r.2, false)

/-- SUB. -/
def opSub (a : VArgs) (l : List Num) : Num × Flags × Bool :=
  let r := numAdd a.down (arg l 0) (numMinus (arg l 1))
  (r.1, r.2, false)

/-- MUL. -/
def opMul (l : List Num) : Num × Flags × Bool :=
  let r := numMul (arg l 0) (arg l 1)
  (r.1, r.2, false)

/-- FMA: exact product and sum, one rounding. -/
def opFma (a : VArgs) (l : List Num) : Num × Flags × Bool :=
  let p := numMul (arg l 0) (arg l 1)
  let r := numAdd a.down p.1 (arg l 2)
  (r.1, p.2 ||| r.2, false)

/-- A pure choice or sign operation on values. -/
def opPure (g : List Num → Num) (l : List Num) : Num × Flags × Bool := (g l, fNone, false)

/-- SQRT. -/
def opSqrt (l : List Num) : Num × Flags × Bool :=
  let r := numSqrt (arg l 0)
  (r.1, r.2, false)

/-- ABS: the sign bit alone on IEEE formats (R42). -/
def vAbs (a : VArgs) (b : Nat) : VRes :=
  if isIeee a.f then ⟨b % 2 ^ (fmtBits a.f - 1), fNone, false⟩
  else vArith a (opPure (fun l => numAbs (arg l 0))) [b]

/-- NEG. -/
def vNeg (a : VArgs) (b : Nat) : VRes :=
  if isIeee a.f then ⟨b ^^^ 2 ^ (fmtBits a.f - 1), fNone, false⟩
  else vArith a (opPure (fun l => numMinus (arg l 0))) [b]

/-- The order of two patterns (R36, R54): none when either is NaN; NaR equals NaR and is below every other posit. -/
def vOrder (a : VArgs) (x y : Nat) : Option Ordering :=
  let u := decode a.f a.sg x
  let v := decode a.f a.sg y
  match numNar u, numNar v with
  | false, false => some (numCmp u v)
  | p, q => if isFloat a.f then none else some (if p && q then .eq else if p then .lt else .gt)

/-- A comparison: int8 1 or 0; a quiet one signals signalling NaNs only (R54). -/
def vCompare (a : VArgs) (quiet : Bool) (ok : Ordering → Bool) (bs : List Nat) : VRes :=
  match vOrder a (bs.getD 0 0) (bs.getD 1 0) with
  | none => ⟨0, if quiet then snanFlag a.f bs else fInvalid, false⟩
  | some o => ⟨if ok o then 1 else 0, fNone, false⟩

/-- CVT (R42, R185, Table 2.8). A direction RND given with a target E4M3, E5M2 or posit, which the check of the fields lets pass beside
an IEEE source, has no effect: such a target rounds to nearest even (R47). (DESIGN CHOICE: LOG 114.) -/
def vConvert (a : VArgs) (b : Nat) : VRes :=
  if isNanBits a.f b && hasPayload a.f && hasPayload a.g then ⟨convertNan a.f a.g b, snanFlag a.f [b], false⟩
  else
    let rnd : Rnd :=
      if isIeee a.g then a.rnd
      else if isInt a.g then (if a.away then .away else if isIeee a.f then a.rnd else .rne)
      else .rne
    let x := roundTo a.g a.sg { rnd := rnd } true (decode a.f a.sg b)
    ⟨x.1, x.2 ||| snanFlag a.f [b], false⟩

/-- The integer a pattern of an integer format holds. -/
def vInt (a : VArgs) (b : Nat) : Int := decodeInt (fmtBits a.f) (a.sg || a.f == .int32) b

/-- The shift amount: s2 clamped to 0 to w (R185). -/
def vAmount (a : VArgs) (b : Nat) : Nat := (max 0 (min (fmtBits a.f : Int) (vInt a b))).toNat

/-- SHL: s1 * 2^n, saturated. -/
def vShl (a : VArgs) (bs : List Nat) : VRes :=
  let r := clipInt a.f a.sg (vInt a (bs.getD 0 0) * 2 ^ vAmount a (bs.getD 1 0))
  ⟨r.1, r.2, false⟩

/-- SHR: floor of s1 / 2^n. -/
def vShr (a : VArgs) (bs : List Nat) : VRes :=
  ⟨intBits (fmtBits a.f) (vInt a (bs.getD 0 0) / 2 ^ vAmount a (bs.getD 1 0)), fNone, false⟩

/-! ### Reductions (R186) -/

/-- A result added to what went before. -/
def VRes.also (r : VRes) (f : Flags) : VRes := { r with flags := r.flags ||| f }

/-- MAXR, MINR: the first NaN in order, else the exact extreme. -/
def vExtreme (a : VArgs) (g : Num → Num → Num) (bs : List Nat) : VRes :=
  vArith a (opPure (fun l => match l with | [] => .nar | x :: xs => xs.foldl g x)) bs

/-- AMAXR: the maximum of the magnitudes. -/
def vAmax (a : VArgs) (bs : List Nat) : VRes :=
  if isIeee a.f then (vExtreme a numMax (bs.map (fun b => (vAbs a b).bits))).also (snanFlag a.f bs)
  else vArith a (opPure (fun l => match l.map numAbs with | [] => .nar | x :: xs => xs.foldl numMax x)) bs

/-- SUMR: IEEE formats round after each addition; the others sum exactly and round once. -/
def vSum (a : VArgs) (bs : List Nat) : VRes :=
  if isIeee a.f then
    match bs with
    | [] => ⟨0, fNone, false⟩
    | b :: rest =>
      rest.foldl (fun acc x => (vArith a (opAdd a) [acc.bits, x]).also acc.flags)
        ⟨if isNanBits a.f b then b ||| quietBit a.f else b, snanFlag a.f [b], false⟩
  else
    vArith a (opPure (fun l => if l.any numNar then .nar else
      let s := sumDy (l.map numDyadic)
      numOfInt false s.1 s.2)) bs

/-! ### Running an instruction -/

/-- The elements of a source operand. -/
def vSource (t : Tile) (w : W64) (field e n : Nat) : List Nat :=
  (List.range n).map (fun k => t.rd (localAddr t.regs w field + e * k) e)

/-- The operand patterns of element k; FILL reads element 0. -/
def vOperands (t : Tile) (ws : List W64) : List (List Nat) :=
  let w := wd ws 0
  let w1 := wd ws 1
  let op := vOp w
  let s := elemBytes (vFmt w)
  let n := vLen w1
  let m := if op = 0x18 then 1 else n
  match vSources3 op with
  | (a, b, c) =>
    (if a then [vSource t w (fld w 21 4) s m] else []) ++ (if b then [vSource t w (fld w1 63 46) s m] else []) ++
      (if c then [vSource t w (fld w1 45 28) (if op = 0x0D then 1 else s) m] else [])
where
  /-- The sources of an operation. -/
  vSources3 (op : Nat) : Bool × Bool × Bool := (vecSources op).getD (false, false, false)

/-- The tile after the results of a vector instruction were written at DST with flags. -/
def vWrite (ws : List W64) (size : Nat) (rs : List VRes) (t : Tile) : Tile :=
  let w := wd ws 0
  raiseV (rs.foldl (fun a r => a ||| r.flags) fNone) (rs.any (·.dz))
    (t.wr (localAddr t.regs w (fld w 39 22)) (rs.flatMap (fun r => natLe size r.bits)))

/-- Size of a result element. -/
def vDest (ws : List W64) : Nat :=
  let op := vOp (wd ws 0)
  if op = 0x0E then elemBytes (vFmt2 (wd ws 1)) else if 0x0A ≤ op ∧ op ≤ 0x0C then 1 else elemBytes (vFmt (wd ws 0))

/-- The next instruction is a VEC of one operation. -/
def isVec (op : Nat) (ws : List W64) : Bool := opOf (wd ws 0) == 0x50 && vOp (wd ws 0) == op

/-- Issue an elementwise operation; every source is read before the destination is written. -/
def vecEach (tile op : Nat) (f : VArgs → List Nat → VRes) (s : State) : Out :=
  issueTile tile (isVec op) noWait (fun _ ws t =>
    let cols := vOperands t ws
    vWrite ws (vDest ws) ((List.range (vLen (wd ws 1))).map (fun k => f (vArgs ws) (cols.map (fun c => c.getD k 0)))) t) s

/-- Issue a reduction: one element at DST. -/
def vecReduce (tile op : Nat) (f : VArgs → List Nat → VRes) (s : State) : Out :=
  issueTile tile (isVec op) noWait (fun _ ws t => vWrite ws (vDest ws) [f (vArgs ws) ((vOperands t ws).getD 0 [])] t) s

/-! ### The instructions (Table 8.8) -/

/-- VEC ADD. -/
def execVecAdd (tile : Nat) (s : State) : Out := vecEach tile 0x00 (fun a => vArith a (opAdd a)) s

/-- VEC SUB. -/
def execVecSub (tile : Nat) (s : State) : Out := vecEach tile 0x01 (fun a => vArith a (opSub a)) s

/-- VEC MUL. -/
def execVecMul (tile : Nat) (s : State) : Out := vecEach tile 0x02 (fun a => vArith a opMul) s

/-- VEC FMA. -/
def execVecFma (tile : Nat) (s : State) : Out := vecEach tile 0x03 (fun a => vArith a (opFma a)) s

/-- VEC DIV (R56, R57, R185). -/
def execVecDiv (tile : Nat) (s : State) : Out :=
  vecEach tile 0x04 (fun a => vArith a (fun l => numDiv (arg l 0) (arg l 1))) s

/-- VEC SQRT. -/
def execVecSqrt (tile : Nat) (s : State) : Out := vecEach tile 0x05 (fun a => vArith a opSqrt) s

/-- VEC MIN (R53). -/
def execVecMin (tile : Nat) (s : State) : Out :=
  vecEach tile 0x06 (fun a => vArith a (opPure (fun l => numMin (arg l 0) (arg l 1)))) s

/-- VEC MAX (R53). -/
def execVecMax (tile : Nat) (s : State) : Out :=
  vecEach tile 0x07 (fun a => vArith a (opPure (fun l => numMax (arg l 0) (arg l 1)))) s

/-- VEC ABS. -/
def execVecAbs (tile : Nat) (s : State) : Out := vecEach tile 0x08 (fun a bs => vAbs a (bs.getD 0 0)) s

/-- VEC NEG. -/
def execVecNeg (tile : Nat) (s : State) : Out := vecEach tile 0x09 (fun a bs => vNeg a (bs.getD 0 0)) s

/-- VEC CMPEQ: quiet. -/
def execVecCmpeq (tile : Nat) (s : State) : Out := vecEach tile 0x0A (fun a => vCompare a true (fun o => o == .eq)) s

/-- VEC CMPLT: signalling. -/
def execVecCmplt (tile : Nat) (s : State) : Out := vecEach tile 0x0B (fun a => vCompare a false (fun o => o == .lt)) s

/-- VEC CMPLE: signalling. -/
def execVecCmple (tile : Nat) (s : State) : Out := vecEach tile 0x0C (fun a => vCompare a false (fun o => o != .gt)) s

/-- VEC SEL. -/
def execVecSel (tile : Nat) (s : State) : Out :=
  vecEach tile 0x0D (fun _ bs => ⟨if bs.getD 2 0 != 0 then bs.getD 0 0 else bs.getD 1 0, fNone, false⟩) s

/-- VEC CVT. -/
def execVecCvt (tile : Nat) (s : State) : Out := vecEach tile 0x0E (fun a bs => vConvert a (bs.getD 0 0)) s

/-- VEC MAXR. -/
def execVecMaxr (tile : Nat) (s : State) : Out := vecReduce tile 0x0F (fun a => vExtreme a numMax) s

/-- VEC MINR. -/
def execVecMinr (tile : Nat) (s : State) : Out := vecReduce tile 0x10 (fun a => vExtreme a numMin) s

/-- VEC SUMR. -/
def execVecSumr (tile : Nat) (s : State) : Out := vecReduce tile 0x11 vSum s

/-- VEC AMAXR. -/
def execVecAmaxr (tile : Nat) (s : State) : Out := vecReduce tile 0x12 vAmax s

/-- VEC SHL. -/
def execVecShl (tile : Nat) (s : State) : Out := vecEach tile 0x13 vShl s

/-- VEC SHR. -/
def execVecShr (tile : Nat) (s : State) : Out := vecEach tile 0x14 vShr s

/-- VEC AND. -/
def execVecAnd (tile : Nat) (s : State) : Out := vecEach tile 0x15 (fun _ bs => ⟨bs.getD 0 0 &&& bs.getD 1 0, fNone, false⟩) s

/-- VEC OR. -/
def execVecOr (tile : Nat) (s : State) : Out := vecEach tile 0x16 (fun _ bs => ⟨bs.getD 0 0 ||| bs.getD 1 0, fNone, false⟩) s

/-- VEC XOR. -/
def execVecXor (tile : Nat) (s : State) : Out := vecEach tile 0x17 (fun _ bs => ⟨bs.getD 0 0 ^^^ bs.getD 1 0, fNone, false⟩) s

/-- VEC FILL. -/
def execVecFill (tile : Nat) (s : State) : Out :=
  issueTile tile (isVec 0x18) noWait (fun _ ws t =>
    let b := ((vOperands t ws).getD 0 []).getD 0 0
    vWrite ws (vDest ws) ((List.range (vLen (wd ws 1))).map (fun _ => ⟨b, fNone, false⟩)) t) s

/-! ### Register images (Table 8.9) -/

/-- The image of a row context. -/
def rowImage (c : RowCtx) : List Byte :=
  natLe 4 (intBits 9 c.anchor) ++ natLe 12 0 ++
    ((List.range 8).map (fun i => c.rows.getD i {})).flatMap (fun r =>
      natLe 4 r.st ++ natLe 4 r.m.toNat ++ natLe 4 r.d.toNat ++ natLe 4 r.count.toNat ++ natLe 4 r.mu.toNat ++
        natLe 4 r.rstd.toNat ++ natLe 8 0 ++ natLe 64 r.q1.toNat ++ natLe 64 r.q2.toNat)

/-- The image of a selector. -/
def regImage (t : Tile) (sel : Nat) : List Byte :=
  match sel with
  | 0 => natLe 4 t.tflags.toNat
  | 1 => natLe 4 t.vflags.toNat
  | 2 => natLe 4 t.rmax.toNat
  | 3 => natLe 4 t.smiss.toNat
  | 4 => (List.range 66).flatMap (fun i => natLe 4 (tget 0#32 t.hist i).toNat)
  | _ => rowImage (tget {} t.rows (sel - 0x10))

/-- An RDREG may issue (R187): a statistic register waits until every DRAIN has been accepted and every instruction of every
other unit has completed, a row context for the last update of its context. -/
def rdregClear (cyc : Nat) (t : Tile) (ws : List W64) : Bool :=
  let r := vReg (wd ws 1)
  if 0x10 ≤ r then decide (tget 0 t.unitFree r ≤ cyc) else idleUnits t && landed cyc (fun u => u != 1 && u != 7) t

/-- RDREG (R187). -/
def execRdreg (tile : Nat) (s : State) : Out :=
  issueTile tile (isVec 0x20) rdregClear
    (fun _ ws t => t.wr (localAddr t.regs (wd ws 0) (fld (wd ws 0) 39 22)) (regImage t (vReg (wd ws 1)))) s

/-- CLRVF (R187): every earlier VEC has completed. -/
def execClrvf (tile : Nat) (s : State) : Out :=
  issueTile tile (isVec 0x21) (fun cyc t _ => landed cyc (fun u => u == 1) t) (fun _ _ t => { t with vflags := 0#5 }) s

end Sys2Proof.Machine
end

