-- ==== Sys2Proof/Machine/Dispatch.lean ====
section
/-! DEFINITION. The one match from commands to their meanings: the effect of a command on everything but the
queue. -/

namespace Sys2Proof.Machine

/-- The effect of a command (one arm per row of the table). -/
def exec (i : Instr) (s : State) : Host.Outcome State Fault Refusal :=
  match i with
  | .hello ring pkt => Sys2Proof.Machine.execHello ring pkt s
  | .identify ring pkt => Sys2Proof.Machine.execIdentify ring pkt s
  | .graphLoad ring pkt => Sys2Proof.Machine.execGraphLoad ring pkt s
  | .graphRun ring pkt => Sys2Proof.Machine.execGraphRun ring pkt s
  | .graphAbort ring pkt => Sys2Proof.Machine.execGraphAbort ring pkt s
  | .graphUnload ring pkt => Sys2Proof.Machine.execGraphUnload ring pkt s
  | .regionMap ring pkt => Sys2Proof.Machine.execRegionMap ring pkt s
  | .regionUnmap ring pkt => Sys2Proof.Machine.execRegionUnmap ring pkt s
  | .linkEnumerate ring pkt => Sys2Proof.Machine.execLinkEnumerate ring pkt s
  | .linkAttach ring pkt => Sys2Proof.Machine.execLinkAttach ring pkt s
  | .linkDetach ring pkt => Sys2Proof.Machine.execLinkDetach ring pkt s
  | .oxbowPolicySet ring pkt vols => Sys2Proof.Machine.execOxbowPolicySet ring pkt vols s
  | .oxbowPolicyReport ring pkt => Sys2Proof.Machine.execOxbowPolicyReport ring pkt s
  | .oxbowSnapshot ring pkt smartWarn => Sys2Proof.Machine.execOxbowSnapshot ring pkt smartWarn s
  | .oxbowRestore ring pkt images => Sys2Proof.Machine.execOxbowRestore ring pkt images s
  | .oxbowVerify ring pkt images => Sys2Proof.Machine.execOxbowVerify ring pkt images s
  | .lockstepPair ring pkt => Sys2Proof.Machine.execLockstepPair ring pkt s
  | .lockstepDissolve ring pkt => Sys2Proof.Machine.execLockstepDissolve ring pkt s
  | .fwStage ring pkt image => Sys2Proof.Machine.execFwStage ring pkt image s
  | .fwCommitWrite ring pkt => Sys2Proof.Machine.execFwCommitWrite ring pkt s
  | .fwCommitActivate ring pkt => Sys2Proof.Machine.execFwCommitActivate ring pkt s
  | .memRepairQuery ring pkt => Sys2Proof.Machine.execMemRepairQuery ring pkt s
  | .memRepairRowRemap ring pkt => Sys2Proof.Machine.execMemRepairRowRemap ring pkt s
  | .memRepairRowRetire ring pkt => Sys2Proof.Machine.execMemRepairRowRetire ring pkt s
  | .memRetrain ring pkt => Sys2Proof.Machine.execMemRetrain ring pkt s
  | .memBist ring pkt => Sys2Proof.Machine.execMemBist ring pkt s
  | .memRepairLaneSpare ring pkt => Sys2Proof.Machine.execMemRepairLaneSpare ring pkt s
  | .memRepairLaneMapout ring pkt => Sys2Proof.Machine.execMemRepairLaneMapout ring pkt s
  | .quadrantDrain ring pkt => Sys2Proof.Machine.execQuadrantDrain ring pkt s
  | .quadrantResume ring pkt => Sys2Proof.Machine.execQuadrantResume ring pkt s
  | .telemetryRead ring pkt => Sys2Proof.Machine.execTelemetryRead ring pkt s
  | .secureErase ring pkt => Sys2Proof.Machine.execSecureErase ring pkt s
  | .selfTest ring pkt => Sys2Proof.Machine.execSelfTest ring pkt s
  | .quadrantDrained q => Sys2Proof.Machine.execQuadrantDrained q s
  | .sfuActivation => Sys2Proof.Machine.execSfuActivation s
  | .longOperationDone res => Sys2Proof.Machine.execLongOperationDone res s
  | .tailDoorbell ring value refused => Sys2Proof.Machine.execTailDoorbell ring value refused s
  | .headDoorbell ring value => Sys2Proof.Machine.execHeadDoorbell ring value s
  | .ringEnable ring ctl => Sys2Proof.Machine.execRingEnable ring ctl s
  | .ringDisable ring ctl => Sys2Proof.Machine.execRingDisable ring ctl s
  | .registerWrite offset size data => Sys2Proof.Machine.execRegisterWrite offset size data s
  | .rngTableWrite offset size data => Sys2Proof.Machine.execRngTableWrite offset size data s
  | .oxbCursorWrite offset size data => Sys2Proof.Machine.execOxbCursorWrite offset size data s
  | .hostEpochWrite offset size data => Sys2Proof.Machine.execHostEpochWrite offset size data s
  | .elapsedRead size => Sys2Proof.Machine.execElapsedRead size s
  | .vectorUnmask vector => Sys2Proof.Machine.execVectorUnmask vector s
  | .holdoffExpiry vector => Sys2Proof.Machine.execHoldoffExpiry vector s
  | .apertureRead offset len => Sys2Proof.Machine.execApertureRead offset len s
  | .apertureWrite offset data => Sys2Proof.Machine.execApertureWrite offset data s
  | .atomicopRequest => Sys2Proof.Machine.execAtomicopRequest s
  | .powerStateChange d3 => Sys2Proof.Machine.execPowerStateChange d3 s
  | .hostReadFailed read => Sys2Proof.Machine.execHostReadFailed read s
  | .functionLevelReset => Sys2Proof.Machine.execFunctionLevelReset s
  | .perstAssert => Sys2Proof.Machine.execPerstAssert s
  | .perstDeassert => Sys2Proof.Machine.execPerstDeassert s
  | .spdmGetVersion => Sys2Proof.Machine.execSpdmGetVersion s
  | .spdmGetCapabilities req => Sys2Proof.Machine.execSpdmGetCapabilities req s
  | .spdmNegotiateAlgorithms req => Sys2Proof.Machine.execSpdmNegotiateAlgorithms req s
  | .spdmGetDigests => Sys2Proof.Machine.execSpdmGetDigests s
  | .spdmGetCertificate slot offset len => Sys2Proof.Machine.execSpdmGetCertificate slot offset len s
  | .spdmChallenge slot req => Sys2Proof.Machine.execSpdmChallenge slot req s
  | .getMeasurements signed index req => Sys2Proof.Machine.execGetMeasurements signed index req s
  | .spdmUnsupportedRequest code => Sys2Proof.Machine.execSpdmUnsupportedRequest code s
  | .runStart h => Sys2Proof.Machine.execRunStart h s
  | .rowRelease h row => Sys2Proof.Machine.execRowRelease h row s
  | .tileTaskDispatch h t => Sys2Proof.Machine.execTileTaskDispatch h t s
  | .barrier h t => Sys2Proof.Machine.execBarrier h t s
  | .barrierIngress h t => Sys2Proof.Machine.execBarrierIngress h t s
  | .ingressComplete h t => Sys2Proof.Machine.execIngressComplete h t s
  | .declExpiry h t => Sys2Proof.Machine.execDeclExpiry h t s
  | .taskTimeout h t => Sys2Proof.Machine.execTaskTimeout h t s
  | .runEnd h => Sys2Proof.Machine.execRunEnd h s
  | .tileTaskComplete h t => Sys2Proof.Machine.execTileTaskComplete h t s
  | .feed tile => Sys2Proof.Machine.execFeed tile s
  | .feeds tile => Sys2Proof.Machine.execFeeds tile s
  | .mma tile => Sys2Proof.Machine.execMma tile s
  | .mmaB tile => Sys2Proof.Machine.execMmaB tile s
  | .groupAdd tile arr c_i j group => Sys2Proof.Machine.execGroupAdd tile arr c_i j group s
  | .nullPass tile arr => Sys2Proof.Machine.execNullPass tile arr s
  | .drain tile => Sys2Proof.Machine.execDrain tile s
  | .drainRetry tile => Sys2Proof.Machine.execDrainRetry tile s
  | .qadd tile => Sys2Proof.Machine.execQadd tile s
  | .qshr tile => Sys2Proof.Machine.execQshr tile s
  | .qld tile => Sys2Proof.Machine.execQld tile s
  | .qst tile => Sys2Proof.Machine.execQst tile s
  | .qrnd tile => Sys2Proof.Machine.execQrnd tile s
  | .vecAdd tile => Sys2Proof.Machine.execVecAdd tile s
  | .vecSub tile => Sys2Proof.Machine.execVecSub tile s
  | .vecMul tile => Sys2Proof.Machine.execVecMul tile s
  | .vecFma tile => Sys2Proof.Machine.execVecFma tile s
  | .vecDiv tile => Sys2Proof.Machine.execVecDiv tile s
  | .vecSqrt tile => Sys2Proof.Machine.execVecSqrt tile s
  | .vecMin tile => Sys2Proof.Machine.execVecMin tile s
  | .vecMax tile => Sys2Proof.Machine.execVecMax tile s
  | .vecAbs tile => Sys2Proof.Machine.execVecAbs tile s
  | .vecNeg tile => Sys2Proof.Machine.execVecNeg tile s
  | .vecCmpeq tile => Sys2Proof.Machine.execVecCmpeq tile s
  | .vecCmplt tile => Sys2Proof.Machine.execVecCmplt tile s
  | .vecCmple tile => Sys2Proof.Machine.execVecCmple tile s
  | .vecSel tile => Sys2Proof.Machine.execVecSel tile s
  | .vecCvt tile => Sys2Proof.Machine.execVecCvt tile s
  | .vecMaxr tile => Sys2Proof.Machine.execVecMaxr tile s
  | .vecMinr tile => Sys2Proof.Machine.execVecMinr tile s
  | .vecSumr tile => Sys2Proof.Machine.execVecSumr tile s
  | .vecAmaxr tile => Sys2Proof.Machine.execVecAmaxr tile s
  | .vecShl tile => Sys2Proof.Machine.execVecShl tile s
  | .vecShr tile => Sys2Proof.Machine.execVecShr tile s
  | .vecAnd tile => Sys2Proof.Machine.execVecAnd tile s
  | .vecOr tile => Sys2Proof.Machine.execVecOr tile s
  | .vecXor tile => Sys2Proof.Machine.execVecXor tile s
  | .vecFill tile => Sys2Proof.Machine.execVecFill tile s
  | .rdreg tile => Sys2Proof.Machine.execRdreg tile s
  | .clrvf tile => Sys2Proof.Machine.execClrvf tile s
  | .sfu tile => Sys2Proof.Machine.execSfu tile s
  | .rowInit tile => Sys2Proof.Machine.execRowInit tile s
  | .rowSmax tile => Sys2Proof.Machine.execRowSmax tile s
  | .rowSexp tile => Sys2Proof.Machine.execRowSexp tile s
  | .rowRescale tile => Sys2Proof.Machine.execRowRescale tile s
  | .rowDiv tile => Sys2Proof.Machine.execRowDiv tile s
  | .rowMom tile => Sys2Proof.Machine.execRowMom tile s
  | .rowVar tile => Sys2Proof.Machine.execRowVar tile s
  | .rowNorm tile => Sys2Proof.Machine.execRowNorm tile s
  | .lut tile => Sys2Proof.Machine.execLut tile s
  | .lutWriteComplete tile arr => Sys2Proof.Machine.execLutWriteComplete tile arr s
  | .laneSwap tile arr lane => Sys2Proof.Machine.execLaneSwap tile arr lane s
  | .dmaLoad tile => Sys2Proof.Machine.execDmaLoad tile s
  | .dmaStore tile => Sys2Proof.Machine.execDmaStore tile s
  | .dmaRed tile => Sys2Proof.Machine.execDmaRed tile s
  | .dmaPush tile => Sys2Proof.Machine.execDmaPush tile s
  | .dmaComplete tile => Sys2Proof.Machine.execDmaComplete tile s
  | .loop tile => Sys2Proof.Machine.execLoop tile s
  | .arset tile => Sys2Proof.Machine.execArset tile s
  | .aradd tile => Sys2Proof.Machine.execAradd tile s
  | .syncWait tile => Sys2Proof.Machine.execSyncWait tile s
  | .syncSignal tile => Sys2Proof.Machine.execSyncSignal tile s
  | .syncFence tile => Sys2Proof.Machine.execSyncFence tile s
  | .syncDelay tile => Sys2Proof.Machine.execSyncDelay tile s
  | .endTile tile => Sys2Proof.Machine.execEndTile tile s
  | .tileComplete tile => Sys2Proof.Machine.execTileComplete tile s
  | .transpose h t => Sys2Proof.Machine.execTranspose h t s
  | .gather h t => Sys2Proof.Machine.execGather h t s
  | .scatterAdd h t => Sys2Proof.Machine.execScatterAdd h t s
  | .rng h t => Sys2Proof.Machine.execRng h t s
  | .hreduce h t => Sys2Proof.Machine.execHreduce h t s
  | .hist h t => Sys2Proof.Machine.execHist h t s
  | .scalemax h t => Sys2Proof.Machine.execScalemax h t s
  | .scalehist h t => Sys2Proof.Machine.execScalehist h t s
  | .quant h t => Sys2Proof.Machine.execQuant h t s
  | .qcode h t => Sys2Proof.Machine.execQcode h t s
  | .copy h t => Sys2Proof.Machine.execCopy h t s
  | .fill h t => Sys2Proof.Machine.execFill h t s
  | .scrub h t => Sys2Proof.Machine.execScrub h t s
  | .engineComplete h t => Sys2Proof.Machine.execEngineComplete h t s
  | .moveCopy h t hostData => Sys2Proof.Machine.execMoveCopy h t hostData s
  | .moveReduceWrite h t hostData => Sys2Proof.Machine.execMoveReduceWrite h t hostData s
  | .moveComplete h t => Sys2Proof.Machine.execMoveComplete h t s
  | .collExact h t => Sys2Proof.Machine.execCollExact h t s
  | .collOrdered h t => Sys2Proof.Machine.execCollOrdered h t s
  | .collFast h t => Sys2Proof.Machine.execCollFast h t s
  | .collComplete h t => Sys2Proof.Machine.execCollComplete h t s
  | .markSnapshot h t smartWarn => Sys2Proof.Machine.execMarkSnapshot h t smartWarn s
  | .markCursor h t => Sys2Proof.Machine.execMarkCursor h t s
  | .markLockstep h t => Sys2Proof.Machine.execMarkLockstep h t s
  | .markMaint h t => Sys2Proof.Machine.execMarkMaint h t s
  | .channelRequestStart g => Sys2Proof.Machine.execChannelRequestStart g s
  | .agePromotion g => Sys2Proof.Machine.execAgePromotion g s
  | .refreshDue g => Sys2Proof.Machine.execRefreshDue g s
  | .autoRetrain g lane => Sys2Proof.Machine.execAutoRetrain g lane s
  | .hardLaneFailure g lane => Sys2Proof.Machine.execHardLaneFailure g lane s
  | .channelRetrainDone g res => Sys2Proof.Machine.execChannelRetrainDone g res s
  | .rowRemapDone g bank => Sys2Proof.Machine.execRowRemapDone g bank s
  | .portTrainingDone p res => Sys2Proof.Machine.execPortTrainingDone p res s
  | .trainingTimeout p => Sys2Proof.Machine.execTrainingTimeout p s
  | .lightDetect seen => Sys2Proof.Machine.execLightDetect seen s
  | .failedRetryTimer p light => Sys2Proof.Machine.execFailedRetryTimer p light s
  | .laserInputLow p => Sys2Proof.Machine.execLaserInputLow p s
  | .lightLoss p => Sys2Proof.Machine.execLightLoss p s
  | .laneLockLoss p lane => Sys2Proof.Machine.execLaneLockLoss p lane s
  | .portRetrainDone p res => Sys2Proof.Machine.execPortRetrainDone p res s
  | .retrainTimeout p => Sys2Proof.Machine.execRetrainTimeout p s
  | .flitReceive p flit before errs => Sys2Proof.Machine.execFlitReceive p flit before errs s
  | .ackTimer p => Sys2Proof.Machine.execAckTimer p s
  | .replayTimeout p => Sys2Proof.Machine.execReplayTimeout p s
  | .tlRead p => Sys2Proof.Machine.execTlRead p s
  | .tlWrite p => Sys2Proof.Machine.execTlWrite p s
  | .redwrite p => Sys2Proof.Machine.execRedwrite p s
  | .tlPersist p => Sys2Proof.Machine.execTlPersist p s
  | .readrsp p => Sys2Proof.Machine.execReadrsp p s
  | .tlAck p => Sys2Proof.Machine.execTlAck p s
  | .responseTimeout p tag => Sys2Proof.Machine.execResponseTimeout p tag s
  | .message p => Sys2Proof.Machine.execMessage p s
  | .collseg p => Sys2Proof.Machine.execCollseg p s
  | .mgmtHello p => Sys2Proof.Machine.execMgmtHello p s
  | .mgmtChallenge p => Sys2Proof.Machine.execMgmtChallenge p s
  | .cert p => Sys2Proof.Machine.execCert p s
  | .signed p => Sys2Proof.Machine.execSigned p s
  | .attestTimeout p => Sys2Proof.Machine.execAttestTimeout p s
  | .detach p => Sys2Proof.Machine.execDetach p s
  | .collCancel p => Sys2Proof.Machine.execCollCancel p s
  | .lsPair p => Sys2Proof.Machine.execLsPair p s
  | .lsStart p => Sys2Proof.Machine.execLsStart p s
  | .lsDigest p => Sys2Proof.Machine.execLsDigest p s
  | .lsTiles p => Sys2Proof.Machine.execLsTiles p s
  | .lsFreeze p => Sys2Proof.Machine.execLsFreeze p s
  | .lsEnd p => Sys2Proof.Machine.execLsEnd p s
  | .lockstepTimeout h => Sys2Proof.Machine.execLockstepTimeout h s
  | .buddyData p => Sys2Proof.Machine.execBuddyData p s
  | .buddyCommit p => Sys2Proof.Machine.execBuddyCommit p s
  | .buddyFetch p => Sys2Proof.Machine.execBuddyFetch p s
  | .nvmeCompletion port ok => Sys2Proof.Machine.execNvmeCompletion port ok s
  | .nvmeTimeout port => Sys2Proof.Machine.execNvmeTimeout port s
  | .powerUp => Sys2Proof.Machine.execPowerUp s
  | .powerGood testMode refclkOk => Sys2Proof.Machine.execPowerGood testMode refclkOk s
  | .bringupStage stage res => Sys2Proof.Machine.execBringupStage stage res s
  | .vinSample mv warn => Sys2Proof.Machine.execVinSample mv warn s
  | .rideThroughExpiry => Sys2Proof.Machine.execRideThroughExpiry s
  | .pwrWarnAssert => Sys2Proof.Machine.execPwrWarnAssert s
  | .clockDividerUpdate meas => Sys2Proof.Machine.execClockDividerUpdate meas s
  | .sensorSample r => Sys2Proof.Machine.execSensorSample r s
  | .rootLockLoss => Sys2Proof.Machine.execRootLockLoss s
  | .i3cPrivateWrite data => Sys2Proof.Machine.execI3cPrivateWrite data s
  | .i3cPrivateRead n => Sys2Proof.Machine.execI3cPrivateRead n s
  | .i3cAddressAssign a => Sys2Proof.Machine.execI3cAddressAssign a s
  | .extest cells => Sys2Proof.Machine.execExtest cells s
  | .samplePreload cells => Sys2Proof.Machine.execSamplePreload cells s
  | .idcode => Sys2Proof.Machine.execIdcode s
  | .clamp => Sys2Proof.Machine.execClamp s
  | .highz => Sys2Proof.Machine.execHighz s
  | .memrep op => Sys2Proof.Machine.execMemrep op s
  | .tbist tiles failing => Sys2Proof.Machine.execTbist tiles failing s
  | .scandump bits => Sys2Proof.Machine.execScandump bits s
  | .fuseprog target => Sys2Proof.Machine.execFuseprog target s
  | .bypass code => Sys2Proof.Machine.execBypass code s
  | .powerUpStagger step => Sys2Proof.Machine.execPowerUpStagger step s
  | .hostLinkTrained => Sys2Proof.Machine.execHostLinkTrained s
  | .lsPairTimeout => Sys2Proof.Machine.execLsPairTimeout s
  | .lsStartTimeout h => Sys2Proof.Machine.execLsStartTimeout h s

end Sys2Proof.Machine
end

