-- ==== Sys2Proof/Safety.lean ====
section
/-! DEFINITION. What counts as a safe run: no fault and no refusal along it. -/

namespace Sys2Proof

/-- The machine has run k steps from s without a fault or a refusal. -/
def safeFor (k : Nat) (s : Machine.State) : Prop := ∃ t, core.run k s = .next t

/-- Every run from s is safe for every number of steps. -/
def safe (s : Machine.State) : Prop := ∀ k, safeFor k s

end Sys2Proof
end

