-- ==== Sys2Proof/Certificates/Slice0/Obligations.lean ====
section
/-! DEFINITION. The statements for the provers, each with the rules of spec/ it comes from; first the words they are said in. -/

open Sys2Proof Sys2Proof.Machine


/-! ### The whole machine -/

namespace Sys2Proof.Claims

/-- What holds of the platform at every moment: D is 6 to 24, PWR_LIMIT within its bounds, no stage after 5; without rails no die and no
engine is powered, the SSDs are held in reset and the host link is down; the link is up only in stage 5; a trip has stopped the clocks
and the converters; a power-failed part that has not tripped keeps its rails, its channels in self-refresh and its engines off. -/
def platInv (p : Plat) : Prop :=
  6 ≤ p.clk.div ∧ p.clk.div ≤ 24 ∧ 6 ≤ p.clk.frameDiv ∧ p.clk.frameDiv ≤ 24 ∧
    2000 ≤ p.sup.pwrLimit.toNat ∧ p.sup.pwrLimit.toNat ≤ 7500 ∧ p.boot.stage.toNat ≤ 5 ∧
    (p.sup.phase ≠ .up → p.boot.rails = 0 ∧ p.boot.engOn = 0 ∧ p.boot.snPerst = 0xF#4 ∧ p.boot.link = .down) ∧
    (p.boot.link ≠ .down → p.boot.stage = 5#8) ∧
    (tripped p = true → p.clk.running = false ∧ p.sup.phase = .off) ∧
    (p.sup.state = .powerFailed → tripped p = true ∨ (p.sup.phase = .up ∧ p.boot.selfRefresh = true ∧ p.boot.engOn = 0))

end Sys2Proof.Claims

/-- A step with a command at the front of the queue is that command's effect on the state with the rest of the queue. -/
def Obligations.StepRunsTheFrontCommand : Prop :=
  ∀ (c : Instr) (cs : List Instr) (s : State), s.pending = c :: cs → step s = exec c { s with pending := cs }

/-- R419, R422: a step on an empty queue is one ACLK cycle (the model's choice, LOG 4): CYCLE counts one, D ROOT periods pass, where D is
the frame's own in its second cycle and CLK_STAT's as a new frame begins, and STRETCH_TICKS counts the ELAPSED ticks of a D above 6; no
other field of the platform changes, and while the domain clocks stand nothing does. What the cycle brings to the chip by itself
(LOG 119) is the end of the old cycle for the tiles, the stop of aborted tasks, the timed transfers and the banks of the new cycle, in
this order; with no run started it touches tiles and their trace records only, and with no tile that stirs either it touches nothing. -/
def Obligations.AnEmptyQueueLetsOneCyclePass : Prop :=
  ∀ (s : State), s.pending = [] →
    let k := s.plat.clk
    let D := if k.half then k.frameDiv else k.div
    (k.running = true → s.plat.sup.phase = .up →
      ∃ t, step s = .next t ∧ t.pending = [] ∧
        t.plat = { s.plat with clk := { k with
          cycle := k.cycle + 1#64, root := k.root + D, frameDiv := D, half := !k.half,
          stretchTicks := if 6 < D then k.stretchTicks + BitVec.ofNat 64 ((k.root + D) / 66 - k.root / 66) else k.stretchTicks } } ∧
        t.dev = bankCycle t.plat.cyc (slotTick t.plat (abortsLand t.plat (cycleEnds s.plat.cyc s.dev))) ∧
        ((∀ r ∈ s.dev.runs, r.started = false) →
          t.dev = { s.dev with tiles := t.dev.tiles, obs := t.dev.obs } ∧
            ((∀ e ∈ s.dev.tiles, e.2.stirs = false) → t.dev = s.dev))) ∧
    (k.running = false ∨ s.plat.sup.phase ≠ .up → step s = .next s)

/-- Every command answers a next state and leaves the queue alone, whatever waits in it; only a VIN_SAMPLE above 80 V, beyond the absolute
maximum (Table 16.1), stops the machine. -/
def Obligations.EveryCommandAnswersAndKeepsTheQueue : Prop :=
  ∀ (c : Instr) (s : State),
    (∃ t, exec c s = .next t ∧ t.pending = s.pending ∧ (∀ q, exec c { s with pending := q } = .next { t with pending := q }) ∧
      ∀ mv w, c = .vinSample mv w → mv ≤ 80000) ∨
    ∃ mv w, c = .vinSample mv w ∧ 80000 < mv ∧ exec c s = .fault .beyondAbsoluteMaximum

/-- Every step, of any command or of an idle cycle, keeps the platform's invariant. -/
def Obligations.EveryStepKeepsThePlatformInvariant : Prop :=
  ∀ (s t : State), Claims.platInv s.plat → step s = .next t → Claims.platInv t.plat

/-- The platform's invariant holds after reset. -/
def Obligations.ThePlatformInvariantHoldsAtReset : Prop := Claims.platInv State.reset.plat

/-- Tables 1.3, 1.4, 10.3, 11.2, 11.12, 12.4, 12.13, 13.3, 14.8, 15.5, 15.12, 16.4, 16.7a, 17.4 and 18.3: after reset every register reads its
table's reset value, no command waits, and the
configuration header reads the identifiers of R378. -/
def Obligations.ResetLeavesTheTablesValues : Prop :=
  let s := State.reset
  let d := s.dev
  let k := s.plat.clk
  s.pending = [] ∧
    identPart d.geom = 0xA100D640 ∧ d.fw.nid = 0xA101000100000001#64 ∧ d.geom.gen = 1#32 ∧ geomStatus d.geom = 0xFFFFF ∧
    rowBytes d.geom = List.replicate 16 0x32#8 ∧ geomTiles d.geom = 0x13880 ∧ (∀ i, (retiredOf d.geom i).toNat = 0) ∧
    (∀ n, streamAt d n = { key := 0, step := 0, next := 0, adv := false }) ∧
    (∀ r, (regionAt d r).valid = false ∧ (farAt d r).valid = false) ∧
    d.near.memmapGen = 1#32 ∧ d.near.regionGen = 0#32 ∧ d.near.memCap = 0x2000000000#40 ∧ d.near.ageLimit = 0x1000#16 ∧
    (∀ g, g < 1024 → chStatReg d g = 0) ∧
    (∀ p, portStatReg (portAt d p) = 0xFF000F0000 ∧ portCapReg (portAt d p) = 0 ∧ portCntReg (portAt d p) = 0 ∧ (portAt d p).partner = []) ∧
    d.obs.tdcSluice = 0 ∧ d.obs.tdcNear = 0 ∧ d.obs.tdcLink = 0 ∧ d.obs.tdcColl = 0 ∧ d.obs.slipIngress = 0 ∧ d.obs.slipPause = 0 ∧
    d.obs.ls.state = .unpaired ∧ d.obs.ls.runSeq = 0 ∧ d.obs.ls.port = 0 ∧ d.obs.traceMask = 3#8 ∧
    (∀ i, (tget ({} : TraceRing) d.obs.trace i).head = 0 ∧ (tget ({} : TraceRing) d.obs.trace i).dropped = 0 ∧
      (tget ({} : TraceRing) d.obs.trace i).wraps = 0) ∧
    oxbPath d = 2 ∧ d.oxb.restored = false ∧ d.oxb.waiting = false ∧ d.oxb.snap = none ∧ d.oxb.parity = false ∧ d.oxb.commitSeq = 0 ∧
    d.oxb.commitStep = 0 ∧ d.oxb.k = 1#32 ∧ d.oxb.lambda = 0 ∧ d.oxb.c = 0 ∧ d.oxb.tStep = 0 ∧ d.oxb.events = 0 ∧
    (∀ j, tget 0#64 d.oxb.cursor j = 0) ∧
    (∀ r, (ringAt d r).base = 0 ∧ ringCtlReg (ringAt d r) = 0x600#64 ∧ (ringAt d r).head = 0 ∧ (ringAt d r).tail = 0 ∧
      (ringAt d r).badDb = false ∧ (ringAt d r).dmaErr = false) ∧
    d.host.aperBase = 0 ∧ d.host.yenelVer = 0 ∧ (∀ h, (graphAt d h).state = .free ∧ (graphAt d h).runs = 0) ∧
    k.elapsed = 0 ∧ k.cycle = 0 ∧ k.hostEpoch = 0 ∧ k.hostEpochAt = 0 ∧ k.cycleAt = 0 ∧ supplyStat s.plat = 0xBB8000000000 ∧
    s.plat.sup.pwrLimit = 0x1D4C#16 ∧ clkStat s.plat = 6 ∧ k.stretchTicks = 0 ∧ thermStat s.plat = 0 ∧
    secStat s.plat.boot.testMode d.fw = 1 ∧ (∀ c, c < 6 → fwSlotReg (compAt d.fw c) = 1) ∧ bootStat s.plat = 1 ∧
    s.plat.mgmt.sensors = [] ∧
    configIds d.geom = { vendor := 0x1F3B#16, device := 0xD640#16, revision := 0xA1#8, classCode := 0x120000#24, subVendor := 0x1F3B#16,
                         subsystem := 0#16 } ∧
    (∀ q j i, q < 4 → j < 4 → i < 64 →
      colMapRead d.geom (0x100000 * (q + 1) + 0x4000 + (j * 64 + i) * 4) = some (if i < 50 then 0x7F7F else 0))
/-! ### Tile instructions: what every statement of one says -/

namespace Sys2Proof.Claims

/-- Only the tiles of the device may differ, and of them only physical tile k. -/
def onlyTile (s t : State) (k : Nat) : Prop :=
  t = { s with dev := { s.dev with tiles := t.dev.tiles } } ∧ ∀ j, j ≠ k → tileAt t.dev j = tileAt s.dev j

/-- The bytes of local SRAM from an address are those given, and every other byte is as before. -/
def storedAt (m m' : Mem) (a : Nat) (bs : List Byte) : Prop :=
  (∀ i, i < bs.length → readByte m' (a + i) = bs.getD i 0#8) ∧
    ∀ b, b < a ∨ a + bs.length ≤ b → readByte m' b = readByte m b

/-- A tile that differs from another in its SRAM, the error marks and count of its SRAM, and its flags alone. -/
def sramAndFlags (u v : Tile) : Prop :=
  u = { v with sram := u.sram, sram1 := u.sram1, sram2 := u.sram2, corrected := u.corrected, vflags := u.vflags,
               tflags := u.tflags }

/-- The flags of vector results together. -/
def allFlags (rs : List VRes) : Flags := rs.foldl (fun a r => a ||| r.flags) fNone

/-- The elementwise vector instructions: command, operation code, one element's result (Table 8.8). -/
def vecElementwise : List ((Nat → Instr) × Nat × (VArgs → List Nat → VRes)) :=
  [(.vecAdd, 0x00, fun a => vArith a (opAdd a)), (.vecSub, 0x01, fun a => vArith a (opSub a)),
   (.vecMul, 0x02, fun a => vArith a opMul), (.vecFma, 0x03, fun a => vArith a (opFma a)),
   (.vecDiv, 0x04, fun a => vArith a (fun l => numDiv (arg l 0) (arg l 1))), (.vecSqrt, 0x05, fun a => vArith a opSqrt),
   (.vecMin, 0x06, fun a => vArith a (opPure (fun l => numMin (arg l 0) (arg l 1)))),
   (.vecMax, 0x07, fun a => vArith a (opPure (fun l => numMax (arg l 0) (arg l 1)))),
   (.vecAbs, 0x08, fun a bs => vAbs a (bs.getD 0 0)), (.vecNeg, 0x09, fun a bs => vNeg a (bs.getD 0 0)),
   (.vecCmpeq, 0x0A, fun a => vCompare a true (fun o => o == .eq)),
   (.vecCmplt, 0x0B, fun a => vCompare a false (fun o => o == .lt)),
   (.vecCmple, 0x0C, fun a => vCompare a false (fun o => o != .gt)),
   (.vecSel, 0x0D, fun _ bs => ⟨if bs.getD 2 0 != 0 then bs.getD 0 0 else bs.getD 1 0, fNone, false⟩),
   (.vecCvt, 0x0E, fun a bs => vConvert a (bs.getD 0 0)), (.vecShl, 0x13, vShl), (.vecShr, 0x14, vShr),
   (.vecAnd, 0x15, fun _ bs => ⟨bs.getD 0 0 &&& bs.getD 1 0, fNone, false⟩),
   (.vecOr, 0x16, fun _ bs => ⟨bs.getD 0 0 ||| bs.getD 1 0, fNone, false⟩),
   (.vecXor, 0x17, fun _ bs => ⟨bs.getD 0 0 ^^^ bs.getD 1 0, fNone, false⟩)]

/-- The reductions: command, operation code, result over the elements in order (R186). -/
def vecReductions : List ((Nat → Instr) × Nat × (VArgs → List Nat → VRes)) :=
  [(.vecMaxr, 0x0F, fun a => vExtreme a numMax), (.vecMinr, 0x10, fun a => vExtreme a numMin), (.vecSumr, 0x11, vSum),
   (.vecAmaxr, 0x12, vAmax)]

end Sys2Proof.Claims

/-- R185, R172: an elementwise vector instruction that issues writes LEN results at DST, each its operation on the elements of that
index read before the write, and nothing else of any SRAM; it ORs its flags into VFLAGS and TFLAGS (R56); no other tile and
nothing else of the part changes. -/
def Sys2Proof.Claims.VecElementwiseWritesItsResults : Prop :=
  ∀ e ∈ Claims.vecElementwise, ∀ (s : State) (tile k : Nat),
    issuesNow s tile k (isVec e.2.1) (fun c _ t ws => noWait c t ws) →
    let t0 := tileAt s.dev k
    let ws := t0.word
    let rs := (List.range (vLen (wd ws 1))).map (fun j => e.2.2 (vArgs ws) ((vOperands t0 ws).map (fun c => c.getD j 0)))
    ∃ t, exec (e.1 tile) s = .next t ∧ Claims.onlyTile s t k ∧
      Claims.storedAt t0.sram (tileAt t.dev k).sram (localAddr t0.regs (wd ws 0) (fld (wd ws 0) 39 22))
        (rs.flatMap (fun r => natLe (vDest ws) r.bits)) ∧
      (tileAt t.dev k).vflags = t0.vflags ||| vflagsOf (Claims.allFlags rs) (rs.any (·.dz)) ∧
      (tileAt t.dev k).tflags = t0.tflags ||| Claims.allFlags rs ||| flagIf (rs.any (·.dz)) fOverflow ∧
      Claims.sramAndFlags (tileAt t.dev k) (afterIssue s.plat.cyc t0)

/-- R186: a reduction writes one element at DST; VEC FILL writes the source's element 0 LEN times (Table 8.8). -/
def Sys2Proof.Claims.VecReductionsAndFillWriteTheirResults : Prop :=
  (∀ e ∈ Claims.vecReductions, ∀ (s : State) (tile k : Nat),
    issuesNow s tile k (isVec e.2.1) (fun c _ t ws => noWait c t ws) →
    let t0 := tileAt s.dev k
    let ws := t0.word
    let r := e.2.2 (vArgs ws) ((vOperands t0 ws).getD 0 [])
    ∃ t, exec (e.1 tile) s = .next t ∧ Claims.onlyTile s t k ∧
      Claims.storedAt t0.sram (tileAt t.dev k).sram (localAddr t0.regs (wd ws 0) (fld (wd ws 0) 39 22))
        (natLe (vDest ws) r.bits) ∧
      (tileAt t.dev k).vflags = t0.vflags ||| vflagsOf r.flags r.dz ∧
      (tileAt t.dev k).tflags = t0.tflags ||| r.flags ||| flagIf r.dz fOverflow ∧
      Claims.sramAndFlags (tileAt t.dev k) (afterIssue s.plat.cyc t0)) ∧
  ∀ (s : State) (tile k : Nat), issuesNow s tile k (isVec 0x18) (fun c _ t ws => noWait c t ws) →
    let t0 := tileAt s.dev k
    let ws := t0.word
    ∃ t, exec (.vecFill tile) s = .next t ∧ Claims.onlyTile s t k ∧
      Claims.storedAt t0.sram (tileAt t.dev k).sram (localAddr t0.regs (wd ws 0) (fld (wd ws 0) 39 22))
        ((List.replicate (vLen (wd ws 1)) (natLe (elemBytes (vFmt (wd ws 0)))
          (t0.rd (localAddr t0.regs (wd ws 0) (fld (wd ws 0) 21 4)) (elemBytes (vFmt (wd ws 0)))))).flatten) ∧
      (tileAt t.dev k).vflags = t0.vflags ∧ (tileAt t.dev k).tflags = t0.tflags ∧
      Claims.sramAndFlags (tileAt t.dev k) (afterIssue s.plat.cyc t0)

/-- R187: RDREG, once it may issue, writes the image of its selector at DST and touches no register; CLRVF, once every earlier
vector instruction has completed, makes VFLAGS 0 and changes nothing else. -/
def Sys2Proof.Claims.RdregWritesImageAndClrvfClearsVflags : Prop :=
  (∀ (s : State) (tile k : Nat), issuesNow s tile k (isVec 0x20) (fun c _ t ws => rdregClear c t ws) →
    let t0 := tileAt s.dev k
    let ws := t0.word
    rdregBytes (vReg (wd ws 1)) ≠ 0 →
    ∃ t, exec (.rdreg tile) s = .next t ∧ Claims.onlyTile s t k ∧
      Claims.storedAt t0.sram (tileAt t.dev k).sram (localAddr t0.regs (wd ws 0) (fld (wd ws 0) 39 22))
        (regImage t0 (vReg (wd ws 1))) ∧
      (tileAt t.dev k).vflags = t0.vflags ∧ (tileAt t.dev k).tflags = t0.tflags ∧
      Claims.sramAndFlags (tileAt t.dev k) (afterIssue s.plat.cyc t0)) ∧
  ∀ (s : State) (tile k : Nat), issuesNow s tile k (isVec 0x21) (fun c _ t _ => landed c (fun u => u == 1) t) →
    ∃ t, exec (.clrvf tile) s = .next t ∧ Claims.onlyTile s t k ∧
      tileAt t.dev k = { afterIssue s.plat.cyc (tileAt s.dev k) with vflags := 0#5 }

/-- R163: an SFU instruction writes COUNT results at DST, each the function of the element of its index at its source, and raises
the flags of all of them. -/
def Sys2Proof.Claims.SfuWritesItsResults : Prop :=
  ∀ (s : State) (tile k : Nat), issuesNow s tile k (fun ws => opOf (wd ws 0) == 0x60) (fun _ _ _ _ => true) →
    let t0 := tileAt s.dev k
    let w := wd t0.word 0
    let i := fmtOf (fld w 48 45)
    let f := fmtOf (fld w 44 41)
    let rs := (List.range (fld (wd t0.word 1) 63 48)).map (fun j =>
      let b := t0.rd (localAddr t0.regs w (fld w 22 5) + fmtBytes i * j) (fmtBytes i)
      let x := decodeIn t0.n.subflush i true b
      let r := sfuEval (sfuRev s.dev) (fld w 52 49) i f t0.n.opts x.1
      (r.1, r.2 ||| x.2))
    ∃ t, exec (.sfu tile) s = .next t ∧ Claims.onlyTile s t k ∧
      Claims.storedAt t0.sram (tileAt t.dev k).sram (localAddr t0.regs w (fld w 40 23)) (rs.flatMap (fun r => natLe (fmtBytes f) r.1)) ∧
      (tileAt t.dev k).tflags = t0.tflags ||| rs.foldl (fun x r => x ||| r.2) fNone ∧ (tileAt t.dev k).vflags = t0.vflags ∧
      Claims.sramAndFlags (tileAt t.dev k) (afterIssue s.plat.cyc t0)

/-- R163, R172, R185, R186, R187: vector, SFU and RDREG instructions write their results at DST and their flags, CLRVF clears VFLAGS, and
nothing else changes. -/
def Obligations.VectorAndFunctionInstructionsWriteTheirResults : Prop :=
  Claims.VecElementwiseWritesItsResults ∧ Claims.VecReductionsAndFillWriteTheirResults ∧ Claims.RdregWritesImageAndClrvfClearsVflags ∧
    Claims.SfuWritesItsResults

/-! ### Quire operations and rows -/

namespace Sys2Proof.Claims

/-- The cells of a slot after an operation: cell c holds the field given for it, cut to the slot's bits, and every cell of every
slot outside the span of the slot is as before. -/
def slotHolds (u v : Tile) (arr slot : Nat) (f : Nat → Nat) : Prop :=
  (∀ c, c < 64 → u.slotGet v.n.qwidth arr slot c = f c % 2 ^ (if v.n.qwidth ≤ 128 then 128 else v.n.qwidth)) ∧
    ∀ key, (∀ i c, i < v.n.span → c < 64 → key ≠ slotKey arr (slot + i) c) → tget 0#128 u.acc key = tget 0#128 v.acc key

/-- One row of a row operation: from tile a to tile b, row i of the context takes the registers given, the flags given are raised, and
where the operation writes a destination the row's patterns are written to it; nothing else of the tile changes. Its sources are those
of tile v, as they stood before the first row was written. -/
def rowStep (write : Bool) (ws : List W64) (f : Tile → RowCtx → Nat → RowCell → RowStep) (v a b : Tile) (i : Nat) : Prop :=
  let c := rCtx (wd ws 0)
  let r := f v (a.rowCtx c) i ((a.rowCtx c).rows.getD i {})
  b.tflags = a.tflags ||| r.flags ∧
    (∀ c', b.rowCtx c' = if c' = c then { a.rowCtx c with rows := (a.rowCtx c).rows.set i r.cell.settle } else a.rowCtx c') ∧
    (b = { a with rows := b.rows, tflags := b.tflags } ∨ write = true) ∧
    (write = true → ∃ x, x = rowWrite ws i r.out a ∧ b = { x with rows := b.rows, tflags := b.tflags })

/-- The eight rows of a row operation, in order (R151). -/
def eightRows (write : Bool) (ws : List W64) (f : Tile → RowCtx → Nat → RowCell → RowStep) (v u : Tile) : Prop :=
  ∃ us : Nat → Tile, us 0 = v ∧ us 8 = u ∧ ∀ i, i < 8 → rowStep write ws f v (us i) (us (i + 1)) i

/-- What ROW.SMAX, ROW.SEXP, ROW.MOM do to one row. -/
def rowSourced (ws : List W64) (g : Tile → RowCtx → List Num → RowCell → RowStep) : Tile → RowCtx → Nat → RowCell → RowStep :=
  fun t c i r => let x := rowSource t ws i; let y := g t c (x.1.map (·.1)) r; { y with flags := y.flags ||| x.2 }

end Sys2Proof.Claims

/-- What a QOP leaves held (R184): nothing where no earlier pass or QOP is still to come in a cell; else itself, for the cells left to
it, with the fields of the others where it only reads. -/
def Sys2Proof.Claims.heldAfter (s : State) (t0 : Tile) (stores : Bool) : List HeldQop :=
  let w := wd t0.word 0
  t0.held ++ (if qopLeft t0 w = [] then [] else
    [{ ws := t0.word, regs := t0.regs, issue := s.plat.cyc, anchor := t0.anchorOf (qArrD w) (qSlotD w), left := qopLeft t0 w,
       fields := if stores then ((List.range 64).filter (fun c => !(qopLeft t0 w).contains c)).map
           (fun c => (c, t0.slotGet t0.n.qwidth (qArrD w) (qSlotD w) c)) else [] }])

/-- A tile that differs from another in its accumulator words, their error marks, the count of corrected errors and its flags alone, and
in the QOPs it holds, which are those given. -/
def Sys2Proof.Claims.quireDone (u v : Tile) (held : List HeldQop) : Prop :=
  u = { v with acc := u.acc, acc1 := u.acc1, acc2 := u.acc2, corrected := u.corrected, tflags := u.tflags, held := held }

/-- R184, R38, R69: QADD adds the source slot's quire field of each cell to the destination's, NaR staying NaR; QSHR shifts each field
right toward minus infinity; a cell in which an earlier pass has groups to come stays and the QOP is held for it; neither touches
another slot, SRAM or anything else but TFLAGS. -/
def Sys2Proof.Claims.QaddAndQshrChangeTheSlotCellByCell : Prop :=
  ∀ (s : State) (tile k : Nat),
    let t0 := tileAt s.dev k
    let v := afterIssue s.plat.cyc t0
    let ws := t0.word
    let w := wd ws 0
    let q := t0.n.qwidth
    qopBad t0 ws = false →
    (issuesNow s tile k (isQop 0) (fun c _ t ws => qopClear c t ws) →
      ∃ t, exec (.qadd tile) s = .next t ∧ Claims.onlyTile s t k ∧
        Claims.slotHolds (tileAt t.dev k) v (qArrD w) (qSlotD w) (fun c =>
          let x := t0.slotGet q (qArrD w) (qSlotD w) c
          if c ∈ qopLeft t0 w ∨ isNarField q x = true then x else (quireSum q x (t0.slotGet q (qArrS w) (qSlotS w) c)).1) ∧
        Claims.quireDone (tileAt t.dev k) v (Claims.heldAfter s t0 false)) ∧
    (issuesNow s tile k (isQop 1) (fun c _ t ws => qopClear c t ws) →
      ∃ t, exec (.qshr tile) s = .next t ∧ Claims.onlyTile s t k ∧
        Claims.slotHolds (tileAt t.dev k) v (qArrD w) (qSlotD w) (fun c =>
          let x := t0.slotGet q (qArrD w) (qSlotD w) c
          if c ∈ qopLeft t0 w then x else (shiftField q (qAmt w) x).1) ∧
        Claims.quireDone (tileAt t.dev k) v (Claims.heldAfter s t0 false))

/-- R184: QLD loads each cell's field from SRAM, but for the cells it is held for, and gives the slot its anchor; it raises no flag and
writes no SRAM. -/
def Sys2Proof.Claims.QldLoadsTheSlotAndItsAnchor : Prop :=
  ∀ (s : State) (tile k : Nat), issuesNow s tile k (isQop 2) (fun c _ t ws => qopClear c t ws) →
    let t0 := tileAt s.dev k
    let v := afterIssue s.plat.cyc t0
    let w := wd t0.word 0
    let q := t0.n.qwidth / 8
    qopBad t0 t0.word = false →
    ∃ t, exec (.qld tile) s = .next t ∧ Claims.onlyTile s t k ∧
      Claims.slotHolds (tileAt t.dev k) v (qArrD w) (qSlotD w) (fun c =>
        if c ∈ qopLeft t0 w then t0.slotGet t0.n.qwidth (qArrD w) (qSlotD w) c
        else t0.rd (localAddr t0.regs w (fld w 26 9) + q * c) q) ∧
      (tileAt t.dev k).held = Claims.heldAfter s t0 false ∧
      (tileAt t.dev k).anchorOf (qArrD w) (qSlotD w) = signed9 (qAmt w) ∧
      (∀ key, key ≠ qArrD w * 16 + qSlotD w → tget 0 (tileAt t.dev k).anchor key = tget 0 t0.anchor key) ∧
      (tileAt t.dev k).sram = t0.sram ∧ (tileAt t.dev k).tflags = t0.tflags ∧ (tileAt t.dev k).pc = v.pc

/-- R184: QST stores each cell's field (WIDEN: its quire32 image), QRND each cell's value rounded once to its format, and both leave
every slot as it was; while an earlier pass has groups to come in a cell, they store nothing yet and are held with the fields they
have read. -/
def Sys2Proof.Claims.QstAndQrndStoreEveryCell : Prop :=
  ∀ (s : State) (tile k : Nat),
    let t0 := tileAt s.dev k
    let v := afterIssue s.plat.cyc t0
    let w := wd t0.word 0
    let q := t0.n.qwidth
    let field := fun c => t0.slotGet q (qArrD w) (qSlotD w) c
    qopBad t0 t0.word = false →
    (issuesNow s tile k (isQop 3) (fun c _ t ws => qopClear c t ws) → qopLeft t0 w = [] →
      ∃ t, exec (.qst tile) s = .next t ∧ Claims.onlyTile s t k ∧
        Claims.storedAt t0.sram (tileAt t.dev k).sram (localAddr t0.regs w (fld w 26 9))
          ((List.range 64).flatMap (fun c => natLe (if qBit w then 64 else q / 8) (if qBit w then widen q (field c) else field c))) ∧
        (tileAt t.dev k).tflags = t0.tflags ∧ (tileAt t.dev k).vflags = t0.vflags ∧
        Claims.sramAndFlags (tileAt t.dev k) v) ∧
    (issuesNow s tile k (isQop 4) (fun c _ t ws => qopClear c t ws) → qopLeft t0 w = [] →
      let r := fun c => roundTo (fmtOf (qFmt w)) (qBit w) t0.n.opts false (fieldValue q (field c) (t0.anchorOf (qArrD w) (qSlotD w)))
      ∃ t, exec (.qrnd tile) s = .next t ∧ Claims.onlyTile s t k ∧
        Claims.storedAt t0.sram (tileAt t.dev k).sram (localAddr t0.regs w (fld w 26 9))
          ((List.range 64).flatMap (fun c => natLe (fmtBytes (fmtOf (qFmt w))) (r c).1)) ∧
        (tileAt t.dev k).tflags = t0.tflags ||| (List.range 64).foldl (fun x c => x ||| (r c).2) fNone ∧
        (tileAt t.dev k).vflags = t0.vflags ∧ Claims.sramAndFlags (tileAt t.dev k) v) ∧
    (∀ e ∈ [(Instr.qst, 3), (Instr.qrnd, 4)], issuesNow s tile k (isQop e.2) (fun c _ t ws => qopClear c t ws) → qopLeft t0 w ≠ [] →
      ∃ t, exec (e.1 tile) s = .next t ∧ Claims.onlyTile s t k ∧ tileAt t.dev k = { v with corrected := (tileAt t.dev k).corrected, held := Claims.heldAfter s t0 true })

/-- R150: ROW.INIT gives its context the anchor of its word and all eight rows their reset values; no other context changes. R152, R158:
ROW.SMAX and ROW.MOM change the registers of the rows of their context in order and write nothing. -/
def Sys2Proof.Claims.RowInitSmaxAndMomChangeTheirContext : Prop :=
  ∀ (s : State) (tile k : Nat),
    let t0 := tileAt s.dev k
    let v := afterIssue s.plat.cyc t0
    let ws := t0.word
    (issuesNow s tile k (isRow 0) (fun c _ t ws => noWait c t ws) →
      ∃ t, exec (.rowInit tile) s = .next t ∧ Claims.onlyTile s t k ∧
        (∀ c, (tileAt t.dev k).rowCtx c =
          if c = rCtx (wd ws 0) then { anchor := signed9 (rArg (wd ws 1) % 512), rows := List.replicate 8 {} } else t0.rowCtx c) ∧
        tileAt t.dev k = { v with rows := (tileAt t.dev k).rows }) ∧
    (issuesNow s tile k (isRow 1) (fun c _ t ws => noWait c t ws) →
      ∃ t, exec (.rowSmax tile) s = .next t ∧ Claims.onlyTile s t k ∧
        Claims.eightRows false ws (Claims.rowSourced ws (fun _ _ xs r => smaxRow ws xs r)) v (tileAt t.dev k)) ∧
    (issuesNow s tile k (isRow 5) (fun c _ t ws => noWait c t ws) →
      ∃ t, exec (.rowMom tile) s = .next t ∧ Claims.onlyTile s t k ∧
        Claims.eightRows false ws (Claims.rowSourced ws (fun _ c xs r => momRow c.anchor xs (rB (wd ws 0)) r)) v (tileAt t.dev k))

/-- R153, R155, R161: ROW.SEXP, ROW.DIV and ROW.NORM run their eight rows in order, each row's results written at its place of the
destination and its registers kept or changed as the rule of the operation says. -/
def Sys2Proof.Claims.RowSexpDivAndNormRunTheirRows : Prop :=
  ∀ (s : State) (tile k : Nat),
    let t0 := tileAt s.dev k
    let v := afterIssue s.plat.cyc t0
    let ws := t0.word
    let w1 := wd ws 1
    (issuesNow s tile k (isRow 2) (fun _ _ _ _ => true) →
      ∃ t, exec (.rowSexp tile) s = .next t ∧ Claims.onlyTile s t k ∧
        Claims.eightRows true ws (Claims.rowSourced ws (fun t c xs r => sexpRow (sfuRev s.dev) ws t.n c.anchor xs r)) v (tileAt t.dev k)) ∧
    (issuesNow s tile k (isRow 4) (fun c _ t ws => divSlotsFinal c t ws) → rowSlotsBad t0.n.span t0 ws = false →
      ∃ t, exec (.rowDiv tile) s = .next t ∧ Claims.onlyTile s t k ∧
        Claims.eightRows true ws (fun t c i r =>
          let os := (List.range 8).map (fun j => divOut t.n (fmtOf (rFmt2 w1)) (bit w1 49) r.exc (rowQuire c.anchor r.q1)
            (scaledValue t (if rMask w1 = 1 then 0 else 1) (rSlot w1) i j))
          ⟨r, os.foldl (fun a x => a ||| x.2) fNone, os.map (·.1)⟩) (rowSlotsCount t0.n.span ws v) (tileAt t.dev k)) ∧
    (issuesNow s tile k (isRow 7) (fun c _ t ws => noWait c t ws) →
      let g := normVector t0 ws (bit (wd ws 2) 27) (fld (wd ws 2) 63 46) (.fin false 1 0)
      let b := normVector t0 ws (bit (wd ws 2) 26) (fld (wd ws 2) 45 28) (.zero false)
      ∃ t u, exec (.rowNorm tile) s = .next t ∧ Claims.onlyTile s t k ∧ tileAt t.dev k = raiseT (g.2 ||| b.2) u ∧
        Claims.eightRows true ws (fun t _ i r =>
          let x := rowSource t ws i
          let mu : Num := if rMode w1 then .zero false else decode .fp32 true r.mu.toNat
          let os := (List.range (rB (wd ws 0))).map (fun j => normOut (fmtOf (rFmt2 w1)) t.n.opts ((x.1.getD j (.nar, 0)).1) mu
            (decode .fp32 true r.rstd.toNat) (g.1.getD j .nar) (b.1.getD j .nar))
          ⟨r, x.2 ||| os.foldl (fun a x => a ||| x.2) fNone, os.map (·.1)⟩) v u)

/-- R154, R159: ROW.RESCALE leaves every D of its context 0 and every other register of every context as it was, and writes no SRAM;
ROW.VAR latches MU and RSTD of each row of its context and writes no slot. -/
def Sys2Proof.Claims.RowRescaleClearsDAndRowVarLatches : Prop :=
  ∀ (s : State) (tile k : Nat),
    let t0 := tileAt s.dev k
    let v := afterIssue s.plat.cyc t0
    let ws := t0.word
    let c := rCtx (wd ws 0)
    (issuesNow s tile k (isRow 3) (fun c _ t ws => rescaleSlotsFree c t ws) →
      rowSlotsBad (rCount (wd ws 1)) t0 ws = false →
      ∃ t, exec (.rowRescale tile) s = .next t ∧ Claims.onlyTile s t k ∧
        (∀ c', (tileAt t.dev k).rowCtx c' =
          if c' = c then { t0.rowCtx c with rows := (t0.rowCtx c).rows.map (fun r => { r with d := 0#32 }) } else t0.rowCtx c') ∧
        tileAt t.dev k = { v with
          rows := (tileAt t.dev k).rows, acc := (tileAt t.dev k).acc, acc1 := (tileAt t.dev k).acc1, acc2 := (tileAt t.dev k).acc2,
          corrected := (tileAt t.dev k).corrected, tflags := (tileAt t.dev k).tflags }) ∧
    (issuesNow s tile k (isRow 6) (fun _ _ _ _ => true) → (t0.rowCtx c).rows.length = 8 →
      ∃ t, exec (.rowVar tile) s = .next t ∧ Claims.onlyTile s t k ∧
        (∀ i, i < 8 → let r := (t0.rowCtx c).rows.getD i {}
          let x := varRow (sfuRev s.dev) ws t0.n (t0.rowCtx c).anchor r
          ((tileAt t.dev k).rowCtx c).rows.getD i {} = { r with mu := BitVec.ofNat 32 x.1, rstd := BitVec.ofNat 32 x.2.2.1 }) ∧
        (∀ c', c' ≠ c → (tileAt t.dev k).rowCtx c' = t0.rowCtx c') ∧ (tileAt t.dev k).acc = t0.acc ∧
        (tileAt t.dev k).vflags = t0.vflags ∧ (tileAt t.dev k).regs = t0.regs)

/-- R38, R69, R184: QADD, QSHR and QLD change their destination slot, QST and QRND store every cell. -/
def Obligations.QuireInstructionsChangeAccumulatorsAndMemory : Prop :=
  Claims.QaddAndQshrChangeTheSlotCellByCell ∧ Claims.QldLoadsTheSlotAndItsAnchor ∧ Claims.QstAndQrndStoreEveryCell

/-- R150, R152 to R155, R158, R159, R161: what each ROW instruction does to its context, the slots and SRAM. -/
def Obligations.RowInstructionsChangeTheirContext : Prop :=
  Claims.RowInitSmaxAndMomChangeTheirContext ∧ Claims.RowSexpDivAndNormRunTheirRows ∧ Claims.RowRescaleClearsDAndRowVarLatches

/-! ### Arrays, conversion, LUT banks -/

/-- R178 to R180: FEED and FEEDS put the stream of their words into the pending register of their feeder, once that register is free;
no other feeder, memory or flag changes. -/
def Sys2Proof.Claims.FeedAndFeedsFillThePendingRegister : Prop :=
  ∀ (s : State) (tile k : Nat),
    let t0 := tileAt s.dev k
    let v := afterIssue s.plat.cyc t0
    let w := wd t0.word 0
    let key := feederKey (feedArr w) (feedSide w)
    (issuesNow s tile k (fun ws => opOf (wd ws 0) == 0x10)
        (fun _ _ t ws => (tget {} t.feed (feederKey (feedArr (wd ws 0)) (feedSide (wd ws 0)))).pendD.isNone) →
      ∃ t, exec (.feed tile) s = .next t ∧ Claims.onlyTile s t k ∧
        tileAt t.dev k = { v with feed := (tileAt t.dev k).feed } ∧
        ∀ n, tget {} (tileAt t.dev k).feed n =
          if n = key then { tget {} t0.feed key with pendD := some (feedStream t0.regs t0.word) } else tget {} t0.feed n) ∧
    (issuesNow s tile k (fun ws => opOf (wd ws 0) == 0x11)
        (fun _ _ t ws => (tget {} t.feed (feederKey (feedArr (wd ws 0)) (feedSide (wd ws 0)))).pendS.isNone) →
      ∃ t, exec (.feeds tile) s = .next t ∧ Claims.onlyTile s t k ∧
        tileAt t.dev k = { v with feed := (tileAt t.dev k).feed } ∧
        ∀ n, tget {} (tileAt t.dev k).feed n =
          if n = key then { tget {} t0.feed key with pendS := some (feedsStream t0.regs w) } else tget {} t0.feed n)

/-- R91, R98, R180, R182: an MMA or MMA.B that issues starts one pass on its array, the last of them, into its slot, over KCNT elements
of the streams of both feeders, with the anchor of its word when it initialises and the slot's own otherwise, an MMA.B with a bias;
no group of it has been added; the other array's passes, every slot's field and every SRAM stay. -/
def Sys2Proof.Claims.MmaStartsAPass : Prop :=
  ∀ (c : Nat → Instr) (op : Nat), (c, op) ∈ [(Instr.mma, 0x20), (Instr.mmaB, 0x21)] → ∀ (s : State) (tile k : Nat),
    issuesNow s tile k (fun ws => opOf (wd ws 0) == op) mmaClear →
    let t0 := tileAt s.dev k
    let w := wd t0.word 0
    let arr := mmaArr w
    ∃ t q, exec (c tile) s = .next t ∧ Claims.onlyTile s t k ∧
      (tileAt t.dev k).passes arr = t0.passes arr ++ [q] ∧ (tileAt t.dev k).passes (1 - arr) = t0.passes (1 - arr) ∧
      q.slot = mmaSlot w ∧ q.init = mmaInit w ∧ q.kcnt = mmaKcnt w ∧ q.issue = s.plat.cyc ∧ q.done = [] ∧
      q.bias.isSome = (op == 0x21) ∧
      q.anchor = (if mmaInit w then signed9 (fld w 46 38) else t0.anchorOf arr (mmaSlot w)) ∧
      q.dA = (tget {} t0.feed (feederKey arr 0)).data ∧ q.dB = (tget {} t0.feed (feederKey arr 1)).data ∧
      (mmaInit w = true → (tileAt t.dev k).anchorOf arr (mmaSlot w) = signed9 (fld w 46 38)) ∧
      (tileAt t.dev k).acc = t0.acc ∧ (tileAt t.dev k).sram = t0.sram ∧ (tileAt t.dev k).tflags = t0.tflags

/-- R106, R97, R98, R182: GROUP_ADD, once the group of a cell is due and both feeders have read it, adds exactly that group of the
cell's first unfinished pass to the field of its slot, an initialising pass having given the slot its starting value; with a pass's last
group the next pass gives its own slot its starting value in the cell: the fields of the slots, the chunk register and TFLAGS become what
this makes of them, and SRAM, registers and the other array stay. Where it is the last group that a held QADD, QSHR or QLD waited for in
the cell, that QOP then acts on the cell (R184). Named with another group than the cell's next it leaves the tile as it was (the model's
choice, LOG 3). -/
def Sys2Proof.Claims.GroupAddAddsOneGroup : Prop :=
  ∀ (s : State) (tile k arr i j : Nat),
    let t0 := tileAt s.dev k
    tileOf s.dev.geom tile = some k → s.plat.alive = true → tileRuns s.dev t0 = true → (t0.phase = .running ∨ t0.phase = .ended) →
    arr < 2 → i < 8 → j < 8 →
    (∀ ix q g, passOfCell t0.n (8 * i + j) (t0.passes arr) = some (ix, q) → g ≠ tget 0 q.done (8 * i + j) →
      ∃ t, exec (.groupAdd tile arr i j g) s = .next t ∧ Claims.onlyTile s t k ∧ tileAt t.dev k = t0) ∧
    (∀ ix q, passOfCell t0.n (8 * i + j) (t0.passes arr) = some (ix, q) →
      q.issue + 2 + i + j + tget 0 q.done (8 * i + j) * t0.n.period ≤ s.plat.cyc → tget 0 q.done (8 * i + j) < q.read →
      groupBad t0 arr q i j (tget 0 q.done (8 * i + j)) = false → (∀ h ∈ t0.held, 8 * i + j ∉ h.left) →
      let g := tget 0 q.done (8 * i + j)
      let x := initCell arr i j q t0
      let e := cellGroup x.2 arr x.1 i j g
      let e1 := e.setPasses arr ((t0.passes arr).set ix { x.1 with done := tset 0 q.done (8 * i + j) (g + 1) })
      let e2 := if g + 1 = q.groups t0.n then initAt arr i j (ix + 1) e1 else e1
      ∃ t, exec (.groupAdd tile arr i j g) s = .next t ∧ Claims.onlyTile s t k ∧
        (tileAt t.dev k).acc = e2.acc ∧ (tileAt t.dev k).chunk = e2.chunk ∧ (tileAt t.dev k).tflags = e2.tflags ∧
        (tileAt t.dev k).sram = t0.sram ∧ (tileAt t.dev k).regs = t0.regs ∧
        (tileAt t.dev k).passes (1 - arr) = t0.passes (1 - arr) ∧
        (tileAt t.dev k).passes arr = (e2.passes arr).filter (fun p => !p.finished t0.n)) ∧
    ∀ q h, passOfCell t0.n (8 * i + j) (t0.passes arr) = some (0, q) → t0.passes arr = [q] → t0.passes (1 - arr) = [] →
      tget 0 q.done (8 * i + j) + 1 = q.groups t0.n → tget 0 q.done (8 * i + j) < q.read →
      q.issue + 2 + i + j + tget 0 q.done (8 * i + j) * t0.n.period ≤ s.plat.cyc →
      groupBad t0 arr q i j (tget 0 q.done (8 * i + j)) = false →
      t0.held = [h] → 8 * i + j ∈ h.left → q.after.contains h.issue = false → qSub (wd h.ws 0) ≤ 2 →
      let x := initCell arr i j q t0
      ∃ t, exec (.groupAdd tile arr i j (tget 0 q.done (8 * i + j))) s = .next t ∧ Claims.onlyTile s t k ∧
        (tileAt t.dev k).acc =
          (qopCells [8 * i + j] h.regs (wd h.ws 0) (cellGroup x.2 arr x.1 i j (tget 0 q.done (8 * i + j)))).acc ∧
        (tileAt t.dev k).sram = t0.sram ∧
        (tileAt t.dev k).held = (if h.left.all (· == 8 * i + j) then []
          else [{ h with left := h.left.filter (fun c => c != 8 * i + j) }])

/-- R193: in a cycle in which the feeders of an array are served nothing, an array whose pass lacks a word of the group to be read halts:
its passes move one cycle later, HALT counts one, and slots, SRAM, flags and the other array stay; a pass that lacks none has read the
group. -/
def Sys2Proof.Claims.AnArrayWithoutItsWordsHalts : Prop :=
  ∀ (d : Dev) (t : Tile) (q : Pass) (cyc k arr : Nat), arr < 2 → readingPass cyc t.n (t.passes arr) = some q → t.passes arr = [q] →
    let u := feedArray cyc k arr [] d t
    (feedNeeds t.n q q.read ≠ [] →
      u.passes arr = [{ q with issue := q.issue + 1 }] ∧ u.passes (1 - arr) = t.passes (1 - arr) ∧
        u.cnt = t.cnt.set 5 (satAdd 32 (t.cnt.getD 5 0) 1) ∧ u.acc = t.acc ∧ u.sram = t.sram ∧ u.tflags = t.tflags) ∧
    (feedNeeds t.n q q.read = [] → u = t.setPasses arr [{ q with read := q.read + 1 }])

/-- The place of a request in the order of R192: the conversion unit, requesters refused 16 cycles on end, the others; then the
requester. -/
def Sys2Proof.Claims.before (age : Table Nat) (a b : BankReq) : Prop :=
  let cls (r : BankReq) : Nat := if r.rank = 0 then 0 else if 16 ≤ tget 0 age (ageKey r) then 1 else 2
  cls a < cls b ∨ (cls a = cls b ∧ a.rank ≤ b.rank)

/-- R191, R192: in a cycle the banks serve only what was asked, no bank more than one access, the neighbour port no more than four words;
and a bank asked by a requester of the tile itself serves it, or one before it in the order of R192. -/
def Sys2Proof.Claims.BanksServeOneAccessEachInOrder : Prop :=
  ∀ (age : Table Nat) (l : List BankReq),
    (∀ r ∈ bankServe age l, r ∈ l) ∧ ((bankServe age l).map (fun r => bankOf r.word)).Nodup ∧
    ((bankServe age l).filter (fun r => r.rank == 16)).length ≤ 4 ∧
    ∀ r ∈ l, r.rank ≠ 16 → ∃ x ∈ bankServe age l, bankOf x.word = bankOf r.word ∧ Claims.before age x r

/-- R101, R341: a null pass of an idle array that is not gated counts one null cycle of that array, once a cycle, and changes nothing
else of the part. -/
def Sys2Proof.Claims.NullPassCountsANullCycle : Prop :=
  ∀ (s : State) (tile k arr : Nat),
    let t0 := tileAt s.dev k
    tileOf s.dev.geom tile = some k → s.plat.alive = true → tileRuns s.dev t0 = true → t0.phase ≠ .idle →
    arr < 2 → t0.passes arr = [] → t0.gated.toNat.testBit arr = false → t0.cntAt.getD (arr + 2) none ≠ some s.plat.cyc →
    ∃ t, exec (.nullPass tile arr) s = .next t ∧ Claims.onlyTile s t k ∧
      tileAt t.dev k = { t0 with
        cnt := t0.cnt.set (arr + 3) (satAdd 32 (t0.cnt.getD (arr + 3) 0) 1), cntAt := t0.cntAt.set (arr + 2) (some s.plat.cyc) }

/-- The patterns of row i of a DRAIN's outputs (R132). -/
def Sys2Proof.Claims.outRow (t : Tile) (x : Drain) (osc : Int) (i : Nat) : List Byte :=
  (List.range 8).flatMap (fun j => natLe (elemBytes t.n.fmtOut)
    (match (convertAll t x osc (drainXs x).1)[8 * i + j]? with | some o => o.bits | none => 0))

/-- A tile whose sequencer may still have DRAINs in hand: it is named, in service, its run in progress. -/
def Sys2Proof.Claims.converts (s : State) (tile k : Nat) : Prop :=
  tileOf s.dev.geom tile = some k ∧ s.plat.alive = true ∧ tileRuns s.dev (tileAt s.dev k) = true ∧
    ((tileAt s.dev k).phase = .running ∨ (tileAt s.dev k).phase = .ended)

/-- R79 to R82: LUT on banks that are SETTLED loads 128 bytes of SRAM into the bank no lane uses and leaves the banks LOADING; in a Flow
run a LUT that reached the sequencer before they were ends the tile with RELOAD_PENDING; 8 cycles after the load LUT_WRITE_COMPLETE makes
them PENDING; and LANE_SWAP turns one lane, no other, to the new bank from the lane's swap cycle on, which is the first of PENDING when no
pass is in progress. -/
def Obligations.LutLoadsThenPendsThenLanesSwap : Prop :=
  ∀ (s : State) (tile k : Nat),
    let t0 := tileAt s.dev k
    (issuesNow s tile k (fun ws => opOf (wd ws 0) == 0x80) (fun cyc _ t ws => (t.lut (fld (wd ws 0) 52 52)).settledAt cyc) →
      reloadRefused s.plat s.dev t0 = false →
      let w := wd t0.word 0
      let arr := fld w 52 52
      let b : LutBank := { bytes := readBytes t0.sram (localAddr t0.regs w (fld w 46 29)) 128, fmt := fld w 51 48, sign := bit w 47 }
      ∃ t, exec (.lut tile) s = .next t ∧ Claims.onlyTile s t k ∧
        (tileAt t.dev k).lut arr = { t0.lut arr with
          bank1 := if (t0.lut arr).lanes = 0#8 then b else (t0.lut arr).bank1,
          bank0 := if (t0.lut arr).lanes = 0#8 then (t0.lut arr).bank0 else b,
          st := .loading, since := s.plat.cyc, target := (t0.lut arr).lanes == 0#8 } ∧
        (tileAt t.dev k).lut (1 - arr) = t0.lut (1 - arr) ∧ (tileAt t.dev k).sram = t0.sram) ∧
    (tileOf s.dev.geom tile = some k → reloadRefused s.plat s.dev t0 = true →
      ∃ t, exec (.lut tile) s = .next t ∧ Claims.onlyTile s t k ∧ (tileAt t.dev k).phase = .stopped .reloadPending ∧
        (tileAt t.dev k).endCycle = s.plat.cyc ∧ (tileAt t.dev k).sram = t0.sram ∧ (tileAt t.dev k).acc = t0.acc) ∧
    (∀ arr, arr < 2 → tileOf s.dev.geom tile = some k → s.plat.alive = true → tileRuns s.dev t0 = true → (t0.lut arr).st = .loading →
      (t0.lut arr).since + 8 ≤ s.plat.cyc →
      ∃ t, exec (.lutWriteComplete tile arr) s = .next t ∧ Claims.onlyTile s t k ∧
        tileAt t.dev k = t0.setLut arr { t0.lut arr with st := .pending, since := (t0.lut arr).since + 9 }) ∧
    (∀ arr lane, arr < 2 → lane < 8 → tileOf s.dev.geom tile = some k → s.plat.alive = true → tileRuns s.dev t0 = true →
      (t0.lut arr).st = .pending → (t0.lut arr).since ≤ s.plat.cyc → (t0.lut arr).lanes.toNat.testBit lane ≠ (t0.lut arr).target →
      swapCycle t0.n lane (t0.lut arr).since (t0.passes arr) ≤ s.plat.cyc →
      ∃ t, exec (.laneSwap tile arr lane) s = .next t ∧ Claims.onlyTile s t k ∧
        (∀ l, l < 8 → ((tileAt t.dev k).lut arr).lanes.toNat.testBit l =
          if l = lane then (t0.lut arr).target else (t0.lut arr).lanes.toNat.testBit l) ∧
        ((tileAt t.dev k).lut arr).st =
          (if ((tileAt t.dev k).lut arr).lanes = (if (t0.lut arr).target then 0xFF#8 else 0#8) then .settled else .pending) ∧
        (tileAt t.dev k).lut (1 - arr) = t0.lut (1 - arr) ∧ (tileAt t.dev k).sram = t0.sram ∧ (tileAt t.dev k).acc = t0.acc) ∧
    (∀ arr lane, t0.passes arr = [] → swapCycle t0.n lane (t0.lut arr).since (t0.passes arr) = (t0.lut arr).since)

/-- R91, R97, R98, R101, R106, R178 to R182, R191 to R193: streams are fed, passes start, banks serve their feeders, their groups are
added one by one, null cycles count. -/
def Obligations.PassesAreFedStartedAndAccumulated : Prop :=
  Claims.FeedAndFeedsFillThePendingRegister ∧ Claims.MmaStartsAPass ∧ Claims.GroupAddAddsOneGroup ∧ Claims.NullPassCountsANullCycle ∧
    Claims.AnArrayWithoutItsWordsHalts ∧ Claims.BanksServeOneAccessEachInOrder

/-- R97, R99, R132: DRAIN brings everything the tile's DRAINs have due in the cycle. When nothing is due, a DRAIN that issues is held,
last of the tile's DRAINs, with the address registers of its issue. A DRAIN alone takes its next outputs from the slot in the cycle
they are due; in settled form it stores a row 3 cycles after it took it; and with the last outputs a DRAIN under a policy without a
second pass is accepted: it leaves the tile's DRAINs, and slots and address registers stay.
R144 to R146: DRAIN_RETRY brings every row that the converting passes of the tile's DRAINs have due. A DRAIN alone that was kept for
a second pass stores row i with the OSCALE found in cycle L + 9 + i; with its last row, 16 cycles after the last write of its first pass,
it is accepted: it leaves the tile's DRAINs; slots, address registers and SCALE_MISS count stay. -/
def Obligations.DrainsAreHeldAcceptedAndRetried : Prop :=
  (∀ (s : State) (tile k : Nat),
    let t0 := tileAt s.dev k
    let still := (graphAt s.dev t0.handle).still
    (Claims.converts s tile k → drainDue s.plat.cyc still t0 = true →
      ∃ t, exec (.drain tile) s = .next t ∧ Claims.onlyTile s t k ∧
        tileAt t.dev k = drainGo (30 * t0.drains.length) s.plat.cyc still t0) ∧
    (issuesNow s tile k (fun ws => opOf (wd ws 0) == 0x30) drainClear → drainDue s.plat.cyc still t0 = false →
      ∃ t, exec (.drain tile) s = .next t ∧ Claims.onlyTile s t k ∧
        tileAt t.dev k = { afterIssue s.plat.cyc t0 with
          drains := t0.drains ++ [{ ws := t0.word, regs := t0.regs, issue := s.plat.cyc }] }) ∧
    ∀ x, Claims.converts s tile k → t0.drains = [x] → x.stall = none →
      let y := drainPlan t0 x
      let w := wd x.ws 0
      let cs := stepCells y x.taken
      (x.taken < y.steps → s.plat.cyc = y.lo + x.taken → x.taken < x.wrote + 3 → (∀ c ∈ cs, cellReady t0 x (8 * c.1 + c.2) = true) →
        slotBad t0 t0.n.qwidth (drArr w) (drSlot w) (cs.map (fun c => 8 * c.1 + c.2)) = false →
        ∃ t, exec (.drain tile) s = .next t ∧ Claims.onlyTile s t k ∧
          tileAt t.dev k = { t0 with
            corrected := (tileAt t.dev k).corrected,
            drains := [{ x with taken := x.taken + 1, xs := x.xs ++ cs.map (fun c => (8 * c.1 + c.2, drainX t0 x c.1 c.2)) }] }) ∧
      (y.steps = 8 → x.taken = 8 → x.wrote + 1 < 8 → s.plat.cyc = y.lo + x.wrote + 3 → t0.n.policy ≠ 2 → t0.sram2 = [] →
        ∃ t, exec (.drain tile) s = .next t ∧ Claims.onlyTile s t k ∧
          Claims.storedAt t0.sram (tileAt t.dev k).sram (outAddr t0 x x.wrote 0) (Claims.outRow t0 x (drScale x) x.wrote) ∧
          (tileAt t.dev k).drains = [{ x with wrote := x.wrote + 1 }] ∧ (tileAt t.dev k).acc = t0.acc ∧
          (tileAt t.dev k).tflags = t0.tflags ∧ (tileAt t.dev k).regs = t0.regs) ∧
      (x.taken = y.steps → x.wrote + 1 = y.steps → y.lo + x.wrote + 3 ≤ s.plat.cyc → t0.n.policy ≠ 2 → t0.sram2 = [] →
        ∃ t, exec (.drain tile) s = .next t ∧ Claims.onlyTile s t k ∧ (tileAt t.dev k).drains = [] ∧
          (tileAt t.dev k).acc = t0.acc ∧ (tileAt t.dev k).regs = t0.regs ∧ (tileAt t.dev k).pc = t0.pc)) ∧
  (∀ (s : State) (tile k : Nat), Claims.converts s tile k →
    let t0 := tileAt s.dev k
    (∃ t, exec (.drainRetry tile) s = .next t ∧ Claims.onlyTile s t k ∧
      tileAt t.dev k = retryGo (8 * t0.drains.length) s.plat.cyc t0) ∧
    ∀ x osc, t0.drains = [x] → x.again = some osc → t0.sram2 = [] →
      (x.rows < 7 → s.plat.cyc = drainLast t0 x + 9 + x.rows →
        ∃ t, exec (.drainRetry tile) s = .next t ∧ Claims.onlyTile s t k ∧
          Claims.storedAt t0.sram (tileAt t.dev k).sram (outAddr t0 x x.rows 0) (Claims.outRow t0 x osc x.rows) ∧
          (tileAt t.dev k).drains = [{ x with rows := x.rows + 1 }] ∧ (tileAt t.dev k).acc = t0.acc ∧
          (tileAt t.dev k).regs = t0.regs ∧ (tileAt t.dev k).smiss = t0.smiss) ∧
      (x.rows = 7 → drainLast t0 x + 16 ≤ s.plat.cyc →
        ∃ t, exec (.drainRetry tile) s = .next t ∧ Claims.onlyTile s t k ∧ (tileAt t.dev k).drains = [] ∧
          (tileAt t.dev k).acc = t0.acc ∧ (tileAt t.dev k).regs = t0.regs ∧ (tileAt t.dev k).smiss = t0.smiss))

/-! ### DMA, sequencer, tokens, END -/

namespace Sys2Proof.Claims

/-- The value ARSET or ARADD gives its register (Table 8.2), before it is cut to the register's width. -/
def arValue (regs : Table Nat) (w : W64) : Nat :=
  if opOf w = 0xA1 then fld w 47 8
  else ((((regRead regs (fld w 52 49) : Nat) : Int) + signedField 40 (fld w 47 8)) % 2 ^ 40).toNat

/-- The near-tier DMA directions: command, DIR (Table 8.5). -/
def nearDma : List ((Nat → Instr) × Nat) := [(.dmaLoad, 0), (.dmaStore, 1), (.dmaRed, 2)]

end Sys2Proof.Claims

/-- R200, R201, R254: a LOAD, STORE or RED that issues on mapped addresses is held, last of the tile's transfers, with the addresses,
length, hint and token of its words and the bytes it sends as SRAM holds them at issue; every tile's SRAM, every byte of near memory
and every packet stay. On an address of no valid region it stops the tile instead. -/
def Sys2Proof.Claims.NearDmaIsHeldAtIssue : Prop :=
  ∀ e ∈ Claims.nearDma, ∀ (s : State) (tile k : Nat), issuesNow s tile k (isDma e.2) dmaClear →
    let t0 := tileAt s.dev k
    let w := wd t0.word 0
    let near := nearAddr t0.regs (dmaNbsel w) (dmaNaddr (wd t0.word 1))
    let la := localAddr t0.regs w (fld w 40 23)
    let n := dmaLen (wd t0.word 2)
    (mapped s.dev near n = true →
      ∃ t y, exec (e.1 tile) s = .next t ∧ (tileAt t.dev k).dma = t0.dma ++ [y] ∧ y.id = t0.nextXfer ∧
        (tileAt t.dev k).nextXfer = t0.nextXfer + 1 ∧ y.dir = e.2 ∧ y.near = near ∧ y.laddr = la ∧ y.len = n ∧
        y.token = dmaToken w ∧ y.hint = dmaHint w ∧ y.data = (if e.2 = 0 then [] else readBytes t0.sram la n) ∧
        (tileAt t.dev k).sram = t0.sram ∧ (∀ j, j ≠ k → tileAt t.dev j = tileAt s.dev j) ∧ t.dev.near.mem = s.dev.near.mem ∧
        t.dev.host = s.dev.host ∧ t.plat = s.plat ∧ t.pending = s.pending) ∧
    (mapped s.dev near n = false →
      ∃ t, exec (e.1 tile) s = .next t ∧ Claims.onlyTile s t k ∧ (tileAt t.dev k).phase = .stopped .badParam ∧
        (tileAt t.dev k).dma = t0.dma ∧ (tileAt t.dev k).sram = t0.sram)

/-- R198, R201, R202: a PUSH that issues is held, last of the tile's transfers, with the bytes SRAM holds at issue. DMA_COMPLETE takes
the oldest transfer from the tile once it is due: a PUSH then stands in the neighbour's SRAM, and no transfer of that number is
held. -/
def Sys2Proof.Claims.PushIsHeldAndDmaCompleteDelivers : Prop :=
  ∀ (s : State) (tile k : Nat),
    let t0 := tileAt s.dev k
    let w := wd t0.word 0
    (issuesNow s tile k (isDma 3) dmaClear →
      ∃ t y, exec (.dmaPush tile) s = .next t ∧ Claims.onlyTile s t k ∧ (tileAt t.dev k).dma = t0.dma ++ [y] ∧ y.dir = 3 ∧
        y.len = dmaLen (wd t0.word 2) ∧ y.rtype = dmaNbr w ∧ y.near = dmaNaddr (wd t0.word 1) % 2 ^ 18 ∧ y.token = dmaToken w ∧
        y.data = readBytes t0.sram (localAddr t0.regs w (fld w 40 23)) (dmaLen (wd t0.word 2)) ∧
        s.plat.cyc + 1 + cdiv (dmaLen (wd t0.word 2)) 32 ≤ y.due ∧ (tileAt t.dev k).sram = t0.sram) ∧
    (∀ x l, tileOf s.dev.geom tile = some k → s.plat.alive = true → t0.phase ≠ .idle → tileRuns s.dev t0 = true → t0.dma = x :: l →
      x.due ≤ s.plat.cyc → (x.dir = 3 ∨ x.left = 0) →
      ∃ t, exec (.dmaComplete tile) s = .next t ∧ (∀ y ∈ (tileAt t.dev k).dma, y.id ≠ x.id) ∧
        (∀ j, x.dir = 3 → neighbour s.dev t0 x.rtype = some j → j ≠ k → (tileAt s.dev j).badWrite x.near x.data.length = false →
          Claims.storedAt (tileAt s.dev j).sram (tileAt t.dev j).sram x.near x.data) ∧
        (x.dir ≠ 3 → x.token < 32 →
          Claims.onlyTile s t k ∧ tget 0 (tileAt t.dev k).tok x.token = min 65535 (tget 0 t0.tok x.token + 1) ∧
          ∀ n, n ≠ x.token → tget 0 (tileAt t.dev k).tok n = tget 0 t0.tok n) ∧
        t.plat = s.plat ∧ t.pending = s.pending)

/-- R177, R203: LOOP enters its body; ARSET and ARADD write one address register, cut to its width, LB0 and NB0 reading zero whatever
is written; nothing but the sequencer and that register changes. -/
def Sys2Proof.Claims.LoopArsetAraddChangeSequencerState : Prop :=
  ∀ (s : State) (tile k : Nat),
    let t0 := tileAt s.dev k
    let v := afterIssue s.plat.cyc t0
    let w := wd t0.word 0
    (issuesNow s tile k (fun ws => opOf (wd ws 0) == 0xA0) (fun c _ t ws => noWait c t ws) →
      ∃ t, exec (.loop tile) s = .next t ∧ Claims.onlyTile s t k ∧ tileAt t.dev k = v ∧ v.pc = t0.pc + 1 ∧
        v.loops = (t0.pc + 1, t0.pc + 1 + fld w 36 25, fld w 52 37) :: t0.loops ∧ v.sram = t0.sram ∧ v.regs = t0.regs) ∧
    ∀ (c : Nat → Instr) (op : Nat), (c, op) ∈ [(Instr.arset, 0xA1), (Instr.aradd, 0xA2)] →
      issuesNow s tile k (fun ws => opOf (wd ws 0) == op) (fun c _ t ws => noWait c t ws) →
      ∃ t, exec (c tile) s = .next t ∧ Claims.onlyTile s t k ∧ tileAt t.dev k = { v with regs := (tileAt t.dev k).regs } ∧
        ∀ n, regRead (tileAt t.dev k).regs n =
          if n = 0 ∨ n = 8 then 0
          else if n = fld w 52 49 then Claims.arValue t0.regs w % 2 ^ (if n < 8 then 18 else 40) else regRead t0.regs n

/-- R196: WAIT issues once its token holds COUNT and takes COUNT from it; FENCE issues once all is done and changes nothing more;
DELAY holds the next issue for COUNT cycles; SIGNAL to the tile itself is under way and arrives in the next cycle, and so is one to a
neighbour of the tile set that takes signals, unless a PUSH toward it is held. -/
def Sys2Proof.Claims.SyncInstructionsActOnTokensAndIssue : Prop :=
  ∀ (s : State) (tile k : Nat),
    let t0 := tileAt s.dev k
    let v := afterIssue s.plat.cyc t0
    let w := wd t0.word 0
    let had := t0.arrive s.plat.cyc
    (issuesNow s tile k (isSync 0) (fun cyc _ t ws => decide (syncCount (wd ws 0) ≤ tget 0 (t.arrive cyc).tok (syncTok (wd ws 0)))) →
      ∃ t, exec (.syncWait tile) s = .next t ∧ Claims.onlyTile s t k ∧
        tileAt t.dev k = { v with tok := (tileAt t.dev k).tok, arriving := had.arriving } ∧
        ∀ n, tget 0 (tileAt t.dev k).tok n = tget 0 had.tok n - (if n = syncTok w then syncCount w else 0)) ∧
    (issuesNow s tile k (isSync 2) (fun c _ t _ => allDone c t) →
      ∃ t, exec (.syncFence tile) s = .next t ∧ Claims.onlyTile s t k ∧ tileAt t.dev k = v) ∧
    (issuesNow s tile k (isSync 3) (fun c _ t ws => noWait c t ws) →
      ∃ t, exec (.syncDelay tile) s = .next t ∧ Claims.onlyTile s t k ∧
        tileAt t.dev k = { v with notBefore := s.plat.cyc + syncCount w }) ∧
    (issuesNow s tile k (isSync 1) (fun cyc _ t _ => t.drains.isEmpty && landed cyc (fun u => u == 6 || u == 7) t) →
      (syncTgt w = 0 →
        ∃ t, exec (.syncSignal tile) s = .next t ∧ Claims.onlyTile s t k ∧
          tileAt t.dev k = { v with arriving := t0.arriving ++ [(s.plat.cyc, syncTok w, syncCount w)] }) ∧
      (∀ j, syncTgt w ≠ 0 → neighbour s.dev t0 (syncTgt w) = some j → j ≠ k → takesSignal t0.handle t0.task (tileAt s.dev j) = true →
        (∀ x ∈ t0.dma, x.dir = 3 → x.rtype ≠ syncTgt w) →
        ∃ t, exec (.syncSignal tile) s = .next t ∧ tileAt t.dev k = v ∧
          tileAt t.dev j = { tileAt s.dev j with
            arriving := (tileAt s.dev j).arriving ++ [(s.plat.cyc, syncTok w, syncCount w)] } ∧
          (∀ i, i ≠ k → i ≠ j → tileAt t.dev i = tileAt s.dev i) ∧
          t = { s with dev := { s.dev with tiles := t.dev.tiles } }))

/-- R174: END ends the tile's program; once END has issued and everything earlier has completed, TILE_COMPLETE ends the tile's part of
the task, in the cycle after the last of it completed, with its flags and, in Still mode, its cycles in the digest (R345). -/
def Sys2Proof.Claims.EndThenTileComplete : Prop :=
  ∀ (s : State) (tile k : Nat),
    let t0 := tileAt s.dev k
    (issuesNow s tile k (fun ws => opOf (wd ws 0) == 0xFF) (fun c _ t ws => noWait c t ws) →
      ∃ t, exec (.endTile tile) s = .next t ∧ Claims.onlyTile s t k ∧
        tileAt t.dev k = { afterIssue s.plat.cyc t0 with phase := .ended }) ∧
    (∀ r, tileOf s.dev.geom tile = some k → runOf s.dev t0.handle = some r → s.plat.alive = true → r.pausedAt = none →
      t0.phase = .ended → allDone s.plat.cyc t0 = true → t0.notBefore ≤ s.plat.cyc →
      ∃ t, exec (.tileComplete tile) s = .next t ∧ Claims.onlyTile s t k ∧
        tileAt t.dev k = { t0 with
          phase := .done, endCycle := t0.endNow, lastRan := some s.plat.cyc,
          crc := crcFrom t0.crc (natLe 4 t0.tflags.toNat ++
            (if isStill s.dev r then natLe 4 (t0.endNow - r.cycle0 - r.slipPause - (taskAt r t0.task).s) else [])) })

/-- R198, R200 to R202, R254: a tile's transfers are held at issue, and a PUSH stands in the neighbour's SRAM when it completes. -/
def Obligations.TransfersAreHeldPushedAndDelivered : Prop :=
  Claims.NearDmaIsHeldAtIssue ∧ Claims.PushIsHeldAndDmaCompleteDelivers

/-- R177, R196, R203: LOOP, ARSET and ARADD, and WAIT, FENCE, DELAY and SIGNAL. -/
def Obligations.SequencerAndSynchronisation : Prop :=
  Claims.LoopArsetAraddChangeSequencerState ∧ Claims.SyncInstructionsActOnTokensAndIssue

/-! ### Runs, tasks, engines, MOVEs, COLLs, MARKs -/

namespace Sys2Proof.Claims

/-- The Sluice may dispatch task t of the run r in progress of handle h, and its descriptor is of a kind. -/
def dispatches (s : State) (h t : Nat) (r : Run) (kind : List W64 → Bool) : Prop :=
  runOf s.dev h = some r ∧ s.plat.alive = true ∧ mayDispatch s.plat s.dev r (graphAt s.dev h) t = true ∧
    kind (descOf (graphAt s.dev h) t) = true

/-- Task t of the run r in progress of handle h runs, the run is not paused, and its descriptor is of a kind. -/
def runs (s : State) (h t : Nat) (r : Run) (kind : List W64 → Bool) : Prop :=
  runOf s.dev h = some r ∧ s.plat.alive = true ∧ (taskAt r t).st = .running ∧ r.pausedAt = none ∧
    kind (descOf (graphAt s.dev h) t) = true

/-- An end of the task in run cycle c does not break the run (R220): Flow mode, a task that is not timed, no DECL, S + DECL exactly, or an
end at dispatch. -/
def notEarly (s : State) (h t : Nat) (r : Run) (c : Nat) : Prop :=
  (graphAt s.dev h).still = false ∨ isTimed (descOf (graphAt s.dev h) t) = false ∨ dDecl (descOf (graphAt s.dev h) t) = 0 ∨
    c = (taskAt r t).s + dDecl (descOf (graphAt s.dev h) t) ∨ (taskAt r t).work.atDispatch = true

/-- The task has ended in run cycle c with a status and DETAIL. -/
def endedAt (s t : State) (h i : Nat) (r : Run) (c : Nat) (e : Nat × Nat) : Prop :=
  ∃ y, taskOf t.dev h i = some y ∧ y.st = .ended ∧ y.e = c ∧ y.s = (taskAt r i).s ∧ y.status = e.1 ∧ y.detail = e.2 ∧
    t.pending = s.pending

/-- The task has ended in this run cycle with a status and DETAIL. -/
def endedWith (s t : State) (h i : Nat) (r : Run) (e : Nat × Nat) : Prop := endedAt s t h i r (runCycle s.plat r) e

/-- The near tier is as it was, but for the requests of a task that has ended, which no longer wait at their channels. -/
def nearBut (s t : State) (h i : Nat) : Prop := t.dev.near = (dropAsks h (fun u => u == i) s.dev).near

/-- The task runs, dispatched in this run cycle. -/
def startedNow (s t : State) (h i : Nat) (r : Run) (y : TaskRun) : Prop :=
  taskOf t.dev h i = some y ∧ y.st = .running ∧ y.s = runCycle s.plat r ∧ t.plat = s.plat ∧ t.pending = s.pending ∧
    t.dev.graphs = s.dev.graphs ∧ t.dev.geom = s.dev.geom ∧ t.dev.fw = s.dev.fw ∧ t.dev.rng = s.dev.rng

/-- The ENGINE commands: command, SUB, MODE, the work of the engine (Table 10.1). -/
def engines : List ((Nat → Nat → Instr) × Nat × (Nat → Bool) × (EngC → List W64 → Eng → Eng × Bool)) :=
  [(.transpose, 0, fun _ => true, fun c w e => (engTranspose c w e, false)),
   (.gather, 1, (· == 0), fun c w e => (engGather c w e, false)),
   (.scatterAdd, 1, (· == 1), fun c w e => (engScatter c w e, false)),
   (.rng, 2, fun _ => true, fun c w e => (engRng c w e, false)),
   (.hreduce, 3, (· == 0), fun c w e => (engHreduce c w e, false)),
   (.hist, 3, (· == 1), fun c w e => (engHist c w e, false)),
   (.scalemax, 3, (· == 2), fun c w e => (engScalemax c w e, false)),
   (.scalehist, 3, (· == 3), fun c w e => (engScalehist c w e, false)),
   (.quant, 3, (· == 4), fun c w e => (engQuant c w e, false)),
   (.qcode, 3, (· == 5), fun c w e => (engQcode c w e, false)),
   (.copy, 4, (· == 0), fun c w e => (engCopy c w e, false)),
   (.fill, 4, (· == 1), fun c w e => (engFill c w e, false)),
   (.scrub, 5, fun _ => true, engScrub)]

/-- NEXT as a sequential RNG task will leave it in its stream (R237). -/
def rngAfter (d : Dev) (w : List W64) : Option (Nat × W64) :=
  if dSub w = 2 ∧ !bit (word w 4) 63 then some (fld (word w 4) 11 0, BitVec.ofNat 64 ((rngDraws d w).1 + (rngDraws d w).2)) else none

end Sys2Proof.Claims

/-- R223, R229, R247, R248, R260: an ENGINE task that is dispatched runs from this run cycle on, and no byte of the near tier has changed.
With a bad parameter it has BAD_PARAM as its end and the near tier and the host see nothing of it. Otherwise, in a Flow run, its reads are
requests at their channels, one access for each of its ranges; in a Still run, whose accesses have their own slots, and where it reads
nothing, it holds what its engine will write, its flags, and an end if a read met a poisoned beat. Tiles, links, streams, graphs and
Oxbow stay. -/
def Sys2Proof.Claims.EnginesWorkAtDispatch : Prop :=
  ∀ e ∈ Claims.engines, ∀ (s : State) (h t : Nat) (r : Run),
    Claims.dispatches s h t r (fun w => dKind w == 2 && dSub w == e.2.1 && e.2.2.1 (engW w).mode) →
    let still := (graphAt s.dev h).still
    let w := descOf (graphAt s.dev h) t
    let c : EngC := ⟨s.plat, still, (engW w).hint, h⟩
    let d1 := dispatchTask s.plat h t s.dev
    let d2 := modTask h t (fun x => { x with work := { x.work with rngNext := Claims.rngAfter s.dev w } }) d1
    let reads := (e.2.2.2 c w { dev := d1, seen := d1 }).1.reads
    let x := e.2.2.2 c w { dev := d2, seen := d2 }
    ∃ s' y, exec (e.1 h t) s = .next s' ∧ Claims.startedNow s s' h t r y ∧ s'.dev.tiles = s.dev.tiles ∧
      s'.dev.links = s.dev.links ∧ s'.dev.oxb = s.dev.oxb ∧ s'.dev.quads = s.dev.quads ∧ s'.dev.near.mem = s.dev.near.mem ∧
      (engBadParam s.dev w = true → s'.dev.near = s.dev.near ∧ s'.dev.host = s.dev.host ∧
        y.work.fate = some (stBadParam, 0) ∧ y.work.atDispatch = true) ∧
      (engBadParam s.dev w = false → y.work.rngNext = Claims.rngAfter s.dev w ∧
        (still = false → reads ≠ [] → y.work.engStage = 1 ∧ s'.dev.near.accSeq = s.dev.near.accSeq + reads.length ∧
          s'.dev.host = s.dev.host) ∧
        (still = true ∨ reads = [] → y.work.puts = x.1.puts.reverse ∧ y.work.flags = x.1.flags ∧ y.work.msgDone = x.1.stop.isSome ∧
          (∀ v, x.1.stop = some v → y.work.fate = some (stMem, v)) ∧ (x.1.stop = none → x.2 = false → y.work.fate = none)) ∧
        (still = true → y.work.engStage = 4 ∧ s'.dev.near = x.1.dev.near))

/-- R223, R247, R237: ENGINE_COMPLETE leaves an ENGINE task alone before its time and then ends it with its status, DETAIL and digest,
in a Still run in exactly the cycle due, its writes made; a sequential RNG task writes NEXT of its stream, and every other stream
stays. -/
def Sys2Proof.Claims.EngineCompleteEndsTheTask : Prop :=
  ∀ (s : State) (h t : Nat) (r : Run), Claims.runs s h t r (fun w => dKind w == 2) →
    let w := descOf (graphAt s.dev h) t
    let x := taskAt r t
    let due := engineDue s.dev w x
    let c := if (graphAt s.dev h).still || x.work.atDispatch then due else runCycle s.plat r
    (runCycle s.plat r < due → exec (.engineComplete h t) s = .next s) ∧
    (due ≤ runCycle s.plat r → Claims.notEarly s h t r c → x.work.atDispatch = true ∨ x.work.engStage = 3 →
      ∃ s' y, exec (.engineComplete h t) s = .next s' ∧ Claims.endedAt s s' h t r c (engineStatus x) ∧
        taskOf s'.dev h t = some y ∧ y.digest = BitVec.ofNat 64 (crcFrom x.work.crc (natLe 4 x.work.flags.toNat)) ∧
        (∀ n v, x.work.rngNext = some (n, v) → (rngAt s'.dev n).next = v ∧ ∀ m, m ≠ n → rngAt s'.dev m = rngAt s.dev m) ∧
        (x.work.rngNext = none → s'.dev.rng = s.dev.rng) ∧ Claims.nearBut s s' h t ∧ s'.dev.tiles = s.dev.tiles ∧
        s'.dev.graphs = s.dev.graphs ∧ s'.dev.geom = s.dev.geom ∧ s'.plat = s.plat) ∧
    (∀ z, due ≤ runCycle s.plat r → Claims.notEarly s h t r c → x.work.atDispatch = false → 4 ≤ x.work.engStage →
      taskOf (makePuts s.plat h t x.work.puts s.dev) h t = some z →
      ∃ s' y, exec (.engineComplete h t) s = .next s' ∧ Claims.endedAt s s' h t r c (engineStatus z) ∧
        taskOf s'.dev h t = some y ∧ y.digest = BitVec.ofNat 64 (crcFrom z.work.crc (natLe 4 z.work.flags.toNat)) ∧
        s'.dev.near.mem = (makePuts s.plat h t x.work.puts s.dev).near.mem ∧ s'.dev.tiles = s.dev.tiles ∧
        s'.dev.graphs = s.dev.graphs ∧ s'.dev.geom = s.dev.geom ∧ s'.plat = s.plat)

/-- R214, R215, R341, R347: a run that may start starts in this cycle: run cycle 0 is this CYCLE, its graph is RUNNING and has one more
run, the tiles of its dies have SRAM and counters clear, every other tile stays, and a channel keeps the staging lines that may hold
their granule in the run's mode (R259). In lock-step a run that has not sent LS_START sends
it and still waits. -/
def Sys2Proof.Claims.RunStartBeginsRunCycleZero : Prop :=
  ∀ (s : State) (h : Nat) (r : Run), waitingRun s.dev h = some r → runOf s.dev h = none → s.plat.serving = true →
    mayStart s.dev r = true → outranked s.dev r = false → startFail s.dev r = none →
    ((graphAt s.dev h).still = true → maintPending s.dev = false ∧ maintBusy s.dev = false ∧ refreshBusy s.plat s.dev = false) →
    ((isPaired s.dev = false ∨ r.pkt = none) →
      ∃ s' r', exec (.runStart h) s = .next s' ∧ runOf s'.dev h = some r' ∧ r'.cycle0 = s.plat.cyc ∧ r'.elapsed0 = s.plat.now ∧
        r'.partNid = s.dev.fw.nid ∧ r'.geomGen = s.dev.geom.gen ∧ r'.regionGen = s.dev.near.regionGen ∧ r'.tasks = r.tasks ∧
        r'.pkt = r.pkt ∧ r'.segment = r.segment ∧ r'.rowsOut = (if r'.wave then 1 else 50)) ∧
    ((isPaired s.dev = false ∨ r.pkt = none) →
      ∃ s', exec (.runStart h) s = .next s' ∧ (graphAt s'.dev h).state = .running ∧
        (graphAt s'.dev h).runs = satAdd 32 (graphAt s.dev h).runs 1 ∧ (graphAt s'.dev h).tasks = (graphAt s.dev h).tasks ∧
        (∀ g, g ≠ h → graphAt s'.dev g = graphAt s.dev g) ∧
        (∀ k, (graphAt s.dev h).dieMask.toNat.testBit (dieOfPhys k) = true →
          (tileAt s'.dev k).sram = [] ∧ (tileAt s'.dev k).cnt = List.replicate 7 0) ∧
        (∀ k, (graphAt s.dev h).dieMask.toNat.testBit (dieOfPhys k) = false → tileAt s'.dev k = tileAt s.dev k) ∧
        s'.dev.near = { s.dev.near with chans := s'.dev.near.chans } ∧
        (∀ g, chanAt s'.dev g = fitLines (graphAt s.dev h).still (chanAt s.dev g)) ∧ s'.plat = s.plat ∧ s'.pending = s.pending) ∧
    (isPaired s.dev = true → r.pkt ≠ none → r.lsStart = false → s.dev.obs.ls.gotStart = none →
      ∃ s', exec (.runStart h) s = .next s' ∧ { r with lsStart := true, lsSince := s.plat.now } ∈ s'.dev.runs ∧
        runOf s'.dev h = none ∧ s'.dev.graphs = s.dev.graphs ∧ s'.dev.tiles = s.dev.tiles)

/-- R215: ROW_RELEASE releases the next logical row of a run under its activity wave once run cycle 1,408 times the row has come, and
changes nothing else; before that cycle it changes nothing. -/
def Sys2Proof.Claims.RowReleaseFollowsTheWave : Prop :=
  ∀ (s : State) (h row : Nat) (r : Run), runOf s.dev h = some r → s.plat.alive = true → r.wave = true → r.rowsOut = row → row < 50 →
    (1408 * row ≤ runCycle s.plat r →
      ∃ s', exec (.rowRelease h row) s = .next s' ∧ runOf s'.dev h = some { r with rowsOut := row + 1 } ∧
        (∀ g, g ≠ h → runOf s'.dev g = runOf s.dev g) ∧ s' = { s with dev := { s.dev with runs := s'.dev.runs } }) ∧
    (runCycle s.plat r < 1408 * row → exec (.rowRelease h row) s = .next s)

/-- R173, R206, R222, R177, R96: a TILE task that is dispatched runs from this run cycle on; each of its tiles begins its program at word
0 with SRAM kept, cells, tokens and flags clear, NB1 as the descriptor says and its first issue held while the program loads; every
other tile stays. -/
def Sys2Proof.Claims.TileTaskDispatchStartsItsTiles : Prop :=
  ∀ (s : State) (h t : Nat) (r : Run), Claims.dispatches s h t r (fun w => dKind w == 1) →
    let g := graphAt s.dev h
    let w := descOf g t
    let c := rectOf w
    ∃ s' y, exec (.tileTaskDispatch h t) s = .next s' ∧ Claims.startedNow s s' h t r y ∧ s'.dev.near = s.dev.near ∧
      s'.dev.links = s.dev.links ∧ s'.dev.host = s.dev.host ∧
      (∀ i k, i < c.count → tileOf s.dev.geom (c.num i) = some k →
        (∀ j, j < c.count → tileOf s.dev.geom (c.num j) = some k → j = i) →
        let u := tileAt s'.dev k
        u.phase = .running ∧ u.handle = h ∧ u.task = t ∧ u.index = i ∧ u.number = c.num i ∧ u.pc = 0 ∧ u.store = progOf g w ∧
          u.ncw = word w 2 ∧ u.sram = (tileAt s.dev k).sram ∧ u.notBefore = s.plat.cyc + cdiv (progOf g w).length 8 ∧ u.acc = [] ∧
          u.anchor = [] ∧ u.tok = [] ∧ u.tflags = 0 ∧ u.rows = [] ∧ u.dma = [] ∧
          regRead u.regs 9 = (fld (word w 5) 39 0 + i * fld (word w 6) 39 0) % 2 ^ 40) ∧
      ∀ k, (∀ j, j < c.count → tileOf s.dev.geom (c.num j) ≠ some k) → tileAt s'.dev k = tileAt s.dev k

/-- R149, R209, R345, R104: once every tile of a TILE task has reached its end or stopped in an earlier cycle, the task ends, in the cycle
after the last of them, with the status of its tiles and a digest over the digests of its tiles and their flags; its tiles go, and one that
stopped at an uncorrectable error is marked failed (R16). -/
def Sys2Proof.Claims.TileTaskCompleteEndsTheTask : Prop :=
  ∀ (s : State) (h t : Nat) (r : Run), Claims.runs s h t r (fun w => dKind w == 1) →
    let ts := ((taskTiles s.dev (descOf (graphAt s.dev h) t)).filterMap id).map (tileAt s.dev)
    let last := ts.foldl (fun a u => max a u.endCycle) 0
    let c := last + 1 - r.cycle0 - r.slipPause
    let digs : Table W64 := (tilesOf s.dev h t).foldl (fun m e => tins m e.2.index (BitVec.ofNat 64 e.2.crc)) []
    Claims.notEarly s h t r c → (∀ u ∈ ts, u.over = true) → last < s.plat.cyc →
    ∃ s' y, exec (.tileTaskComplete h t) s = .next s' ∧ Claims.endedAt s s' h t r c (tileStatus ts) ∧ taskOf s'.dev h t = some y ∧
      y.digest = BitVec.ofNat 64 (crcFrom (crc64 (digs.flatMap (fun e => natLe 8 e.2.toNat)))
        (natLe 4 (ts.foldl (fun a u => a ||| u.tflags) fNone).toNat)) ∧
      (∀ k, (tileAt s.dev k).handle = h → (tileAt s.dev k).task = t → (tileAt s'.dev k).phase = .idle) ∧
      (∀ k, (tileAt s.dev k).handle ≠ h ∨ (tileAt s.dev k).task ≠ t → tileAt s'.dev k = tileAt s.dev k) ∧
      (∀ e ∈ s.dev.tiles, e.2.handle = h → e.2.task = t → e.2.phase = .stopped .uncorrectable → e.1 ∈ s'.dev.geom.failed) ∧
      s'.dev.graphs = s.dev.graphs ∧ s'.plat = s.plat

/-- R223, R229, R237, R247, R248, R260: an ENGINE task does its work from its dispatch on and ends by ENGINE_COMPLETE. -/
def Obligations.EnginesWorkAndComplete : Prop :=
  Claims.EnginesWorkAtDispatch ∧ Claims.EngineCompleteEndsTheTask

/-- R214, R215, R341, R347: a run that may start starts, and the activity wave releases its rows. -/
def Obligations.RunsStartAndRowsAreReleased : Prop :=
  Claims.RunStartBeginsRunCycleZero ∧ Claims.RowReleaseFollowsTheWave

/-- R149, R173, R174, R206, R209, R222, R345: a TILE task starts its tiles, each ends its part, and the task ends with their digests. -/
def Obligations.TileTasksStartEndAndComplete : Prop :=
  Claims.TileTaskDispatchStartsItsTiles ∧ Claims.EndThenTileComplete ∧ Claims.TileTaskCompleteEndsTheTask

/-- R216, R217, R280, Table 9.9: a BARRIER that is dispatched ends in the same cycle, and so does BARRIER INGRESS in Flow mode; in Still
mode it runs until INGRESS_COMPLETE. MARK MAINT that is dispatched runs in Still mode, and no channel's retrain or repair is pending any
more; in Flow mode it is a barrier. -/
def Obligations.BarriersAndMaintenanceAreDispatched : Prop :=
  ∀ (s : State) (h t : Nat) (r : Run),
    (Claims.dispatches s h t r (fun w => dKind w == 6 && dSub w == 0) →
      ∃ s' y, exec (.barrier h t) s = .next s' ∧ taskOf s'.dev h t = some y ∧ y.st = .ended ∧ y.s = runCycle s.plat r ∧
        y.e = runCycle s.plat r ∧ y.status = stOk ∧ y.detail = 0 ∧ y.digest = 0 ∧ s'.dev.tiles = s.dev.tiles ∧
        Claims.nearBut s s' h t ∧ s'.plat = s.plat) ∧
    (Claims.dispatches s h t r (fun w => dKind w == 6 && dSub w == 1) →
      ∃ s' y, exec (.barrierIngress h t) s = .next s' ∧ taskOf s'.dev h t = some y ∧ y.s = runCycle s.plat r ∧
        ((graphAt s.dev h).still = true → y.st = .running) ∧
        ((graphAt s.dev h).still = false → y.st = .ended ∧ y.e = runCycle s.plat r ∧ y.status = stOk) ∧
        s'.dev.tiles = s.dev.tiles ∧ s'.dev.near.mem = s.dev.near.mem ∧ s'.plat = s.plat) ∧
    (Claims.dispatches s h t r (fun w => dKind w == 5 && dSub w == 3) →
      ((graphAt s.dev h).still = true →
        ∃ s' y, exec (.markMaint h t) s = .next s' ∧ Claims.startedNow s s' h t r y ∧ s'.dev.tiles = s.dev.tiles ∧
          (∀ g, (chanAt s'.dev g).retrainPend = false ∧ (chanAt s'.dev g).repairPend = []) ∧
          ∀ g, (chanAt s.dev g).retrainPend = true → (chanAt s'.dev g).retraining = some .maint) ∧
      ((graphAt s.dev h).still = false →
        ∃ s', exec (.markMaint h t) s = .next s' ∧ (∃ y, taskOf s'.dev h t = some y ∧ y.st = .ended ∧ y.s = runCycle s.plat r ∧
            y.e = runCycle s.plat r ∧ y.status = stOk) ∧
          s'.dev.tiles = s.dev.tiles ∧ Claims.nearBut s s' h t ∧ s'.plat = s.plat))

/-- R216, R217: outside lock-step an ingress point whose predecessors have ended and whose own kind waits for nothing ends in this cycle;
in Still mode, with the wave over and no channel in a refresh window, the next segment starts in it, unless the run dispatches no more. -/
def Obligations.IngressCompleteOpensTheNextSegment : Prop :=
  ∀ (s : State) (h t : Nat) (r : Run), Claims.runs s h t r isIngress → r.lock = none → (taskAt r t).work.fate = none →
    (preds (graphAt s.dev h) t).all (fun u => (taskAt r u).st == .ended) = true →
    ingressReady s.dev (descOf (graphAt s.dev h) t) (taskAt r t) = true →
    ((graphAt s.dev h).still = true → r.rowsOut = 50 ∧ refreshBusy s.plat s.dev = false) →
    ∃ s', exec (.ingressComplete h t) s = .next s' ∧ Claims.endedWith s s' h t r (stOk, 0) ∧
      (∃ r', runOf s'.dev h = some r' ∧
        ((graphAt s.dev h).still = true → r.stopped = false →
          r'.segment = r.segment + 1 ∧ r'.segStart = runCycle s.plat r ∧ r'.slots = []) ∧
        ((graphAt s.dev h).still = false ∨ r.stopped = true → r'.segment = r.segment ∧ r'.segStart = r.segStart)) ∧
      s'.dev.tiles = s.dev.tiles ∧ Claims.nearBut s s' h t ∧ s'.dev.graphs = s.dev.graphs ∧ s'.plat = s.plat

/-- R220, R221: where no tile of it has stopped at an uncorrectable error, a timed task of a Still-mode run that is not complete at
S + DECL ends with STILL_BREAK, DETAIL bit 31 set, the run breaks
and no task of it runs; a task whose time limit has passed ends with TIMEOUT and its tiles go, the rest of the run going on. -/
def Obligations.LimitsEndTasks : Prop :=
  ∀ (s : State) (h t : Nat) (r : Run),
    let g := graphAt s.dev h
    let w := descOf g t
    let x := taskAt r t
    (Claims.runs s h t r isTimed → g.still = true → dDecl w ≠ 0 → x.s + dDecl w ≤ runCycle s.plat r → declExempt s.dev w x = false →
      completeBy s.dev r w x = false → memStop ((tilesOf s.dev h t).map (·.2)) = none →
      ∃ s' r', exec (.declExpiry h t) s = .next s' ∧ Claims.endedWith s s' h t r (stBreak, 2 ^ 31 + slowTile s.dev w) ∧
        runOf s'.dev h = some r' ∧ r'.broken = true ∧ r'.stopped = true ∧ (∀ u, (taskAt r' u).st ≠ .running) ∧
        (∀ k, (tileAt s.dev k).handle = h → (tileAt s'.dev k).phase = .idle) ∧ s'.plat = s.plat) ∧
    (Claims.runs s h t r (fun _ => true) → g.timeout ≠ 0 → (g.still = false ∨ isUntimed w = true) →
      x.s + g.timeout < runCycle s.plat r → memStop ((tilesOf s.dev h t).map (·.2)) = none →
      ∃ s' r', exec (.taskTimeout h t) s = .next s' ∧ Claims.endedWith s s' h t r (stTimeout, 2 ^ 31 + slowTile s.dev w) ∧
        runOf s'.dev h = some r' ∧ r'.stopped = true ∧ (∀ u, u ≠ t → taskAt r' u = taskAt r u) ∧
        (∀ k, (tileAt s.dev k).handle = h → (tileAt s.dev k).task = t → (tileAt s'.dev k).phase = .idle) ∧
        (∀ k, (tileAt s.dev k).handle ≠ h ∨ (tileAt s.dev k).task ≠ t → tileAt s'.dev k = tileAt s.dev k) ∧ s'.plat = s.plat)

/-- R225, R343, R344: a run outside lock-step with no task running and none to come ends: it leaves the runs, its graph is LOADED again, or
INVALID after a geometry change (R27), its tiles go, and its record of 256 bytes and 32 a task, beginning with DZRR, is written to the
host address it named. -/
def Obligations.RunEndWritesTheRecord : Prop :=
  ∀ (s : State) (h : Nat) (r : Run), runOf s.dev h = some r → s.plat.alive = true → r.pausedAt = none →
    runOver (graphAt s.dev h) r = true → r.lock = none → r.silent = false → r.pkt ≠ none → r.record ≠ 0#64 →
    ∃ s' b, exec (.runEnd h) s = .next s' ∧ runOf s'.dev h = none ∧ (∀ g, g ≠ h → runOf s'.dev g = runOf s.dev g) ∧
      (graphAt s'.dev h).state = (if (graphAt s.dev h).invalidate then .invalid else .loaded) ∧
      (∀ k, (tileAt s.dev k).handle = h → (tileAt s'.dev k).phase = .idle) ∧
      HostOut.write r.record b ∈ s'.dev.out.host ∧ b.length = 256 + 32 * (graphAt s.dev h).tasks.length ∧
      b.take 8 = natLe 4 0x52525A44 ++ natLe 2 1 ++ natLe 1 r.handle ++ (b.drop 7).take 1 ∧
      (b.drop 8).take 8 = natLe 2 (runStatus (graphAt s.dev h) r).1 ++ natLe 2 0 ++ natLe 4 (runStatus (graphAt s.dev h) r).2 ∧
      (b.drop 16).take 8 = natLe 8 r.partNid.toNat ∧ s'.dev.near = s.dev.near ∧ s'.plat = s.plat ∧ s'.pending = s.pending

/-- R207, R210, R223, R324: a MOVE or a COLL that is dispatched runs from this run cycle on; one with an end at dispatch has that end
and moves nothing, and a MOVE that has none moves nothing in this cycle either. -/
def Sys2Proof.Claims.MovesAndCollectivesAreDispatched : Prop :=
  ∀ (s : State) (h t : Nat) (r : Run),
    let g := graphAt s.dev h
    let w := descOf g t
    (∀ (c : Nat → Nat → List Byte → Instr) (sub : Nat), (c, sub) ∈ [(Instr.moveCopy, 0), (Instr.moveReduceWrite, 1)] →
      Claims.dispatches s h t r (fun w => dKind w == 3 && dSub w == sub) → ∀ bytes : List Byte,
      ∃ s' y, exec (c h t bytes) s = .next s' ∧ Claims.startedNow s s' h t r y ∧ s'.dev.near = s.dev.near ∧
        s'.dev.host = s.dev.host ∧ s'.dev.links = s.dev.links ∧ s'.dev.tiles = s.dev.tiles ∧
        (∀ e, moveFate s.dev g w = some e → y.work.fate = some e ∧ y.work.atDispatch = true) ∧
        (moveFate s.dev g w = none → y.work.fate = (taskAt r t).work.fate ∧ y.work.atDispatch = (taskAt r t).work.atDispatch ∧
          (mvSrcSp w = 2 → (y.work.msgDone = true ↔ mvLen w ≤ bytes.length)))) ∧
    (∀ (c : Nat → Nat → Instr) (sub : Nat), (c, sub) ∈ [(Instr.collExact, 0), (Instr.collOrdered, 1), (Instr.collFast, 2)] →
      Claims.dispatches s h t r (fun w => dKind w == 4 && dSub w == sub) →
      ∃ s' y, exec (c h t) s = .next s' ∧ Claims.startedNow s s' h t r y ∧ s'.dev.tiles = s.dev.tiles ∧
        (∀ e, collFate (dispatchTask s.plat h t s.dev) h t w = some e →
          y.work.fate = some e ∧ y.work.atDispatch = true ∧ s'.dev.near = s.dev.near ∧ s'.dev.links = s.dev.links) ∧
        (collFate (dispatchTask s.plat h t s.dev) h t w = none →
          ∀ k ∈ y.work.steps, k ∈ (taskAt r t).work.steps ∨ (taskAt r t).work.askStep = some k ∨ k ∈ collSteps w))

/-- R267, R271, R329, R223: a MOVE or COLL whose end is known ends so from the cycle after its dispatch on, no request of the MOVE
staying outstanding; a MOVE that, carried on in this cycle, has done its work, and a COLL that has done its steps, end with the
status their flags give, in Still mode in exactly the cycle due. A MOVE that an abort stops stops once its units in progress are written or
have failed (R226). -/
def Sys2Proof.Claims.MovesAndCollectivesComplete : Prop :=
  ∀ (s : State) (h t : Nat) (r : Run),
    let w := descOf (graphAt s.dev h) t
    let x := taskAt r t
    let still := (graphAt s.dev h).still
    let at_ := if x.work.atDispatch then x.s + 1 else runCycle s.plat r
    (Claims.runs s h t r (fun w => dKind w == 3) →
      (x.work.halting = false →
        (∀ e, x.work.fate = some e → x.s + 1 ≤ runCycle s.plat r → Claims.notEarly s h t r at_ →
          ∃ s', exec (.moveComplete h t) s = .next s' ∧ Claims.endedAt s s' h t r at_ e ∧ hasRequests s'.dev h t = false ∧
            s'.dev.tiles = s.dev.tiles ∧ s'.dev.graphs = s.dev.graphs ∧ s'.plat = s.plat) ∧
        (∀ y, x.work.fate = none → taskOf (movePump s.plat h t s.dev) h t = some y → y.work.fate = none →
          moveDone (movePump s.plat h t s.dev) h t w y.work = true →
          let due := moveDue (movePump s.plat h t s.dev) r w y
          let c := if (mvSrcSp w == 0 && mvDstSp w == 0) && !still then runCycle s.plat r else due
          due ≤ runCycle s.plat r → Claims.notEarly s h t r c →
          ∃ s', exec (.moveComplete h t) s = .next s' ∧ Claims.endedAt s s' h t r c (moveStatus w y.work) ∧
            s'.dev.tiles = s.dev.tiles ∧ s'.dev.graphs = s.dev.graphs ∧ s'.plat = s.plat)) ∧
      (x.work.halting = true → x.work.fate ≠ none →
        ∃ s' y, exec (.moveComplete h t) s = .next s' ∧ taskOf s'.dev h t = some y ∧ y.st = .stopped ∧
          hasRequests s'.dev h t = false ∧ s'.dev.tiles = s.dev.tiles ∧ s'.plat = s.plat)) ∧
    (Claims.runs s h t r (fun w => dKind w == 4) →
      (∀ e, x.work.fate = some e → x.s + 1 ≤ runCycle s.plat r → Claims.notEarly s h t r at_ →
        ∃ s', exec (.collComplete h t) s = .next s' ∧ Claims.endedAt s s' h t r at_ e ∧ s'.dev.tiles = s.dev.tiles) ∧
      (x.work.fate = none → collDone s.dev w x.work = true →
        let due := x.s + (if clN w = 1 then collLength s.dev w else 1)
        let c := if clN w = 1 ∧ still = true then due else runCycle s.plat r
        due ≤ runCycle s.plat r → Claims.notEarly s h t r c →
        ∃ s', exec (.collComplete h t) s = .next s' ∧
          Claims.endedAt s s' h t r c (flagStatus (~~~ fInexact) x.work.flags, x.work.flags.toNat) ∧ s'.dev.tiles = s.dev.tiles ∧
          s'.plat = s.plat))

/-- R355, R238, R347, R357: MARK CURSOR, MARK LOCKSTEP and, without a policy, MARK SNAPSHOT run from their dispatch on, MARK SNAPSHOT
with PARITY taken from its descriptor and nothing to wait for. 16 cycles later MARK CURSOR ends, STEP has grown by one, SAMPLE by
the descriptor's number, and each stream with ADV has its STEP grown and NEXT zero; MARK LOCKSTEP ends after 32 cycles. -/
def Obligations.MarksRunAndEnd : Prop :=
  ∀ (s : State) (h t : Nat) (r : Run),
    let w := descOf (graphAt s.dev h) t
    (∀ (c : Nat → Nat → Instr) (sub : Nat), (c, sub) ∈ [(Instr.markCursor, 1), (Instr.markLockstep, 2)] →
      Claims.dispatches s h t r (fun w => dKind w == 5 && dSub w == sub) →
      ∃ s' y, exec (c h t) s = .next s' ∧ Claims.startedNow s s' h t r y ∧ s'.dev.oxb = s.dev.oxb ∧ s'.dev.near = s.dev.near) ∧
    (Claims.dispatches s h t r (fun w => dKind w == 5 && dSub w == 0) → policyOn s.dev.oxb = none →
      (preds (graphAt s.dev h) t).all (fun u => (taskAt r u).st == .ended) = true → ∀ smart : BitVec 4,
      ∃ s' y, exec (.markSnapshot h t smart) s = .next s' ∧ Claims.startedNow s s' h t r y ∧ y.work.markStage = 3 ∧
        y.work.markStep = cursorStep s.dev.oxb ∧ s'.dev.oxb = { s.dev.oxb with parity := bit (word w 2) 0 } ∧
        s'.dev.near = s.dev.near) ∧
    (Claims.runs s h t r (fun w => dKind w == 5 && dSub w == 1) → Claims.notEarly s h t r (runCycle s.plat r) → (taskAt r t).s + 16 ≤ runCycle s.plat r →
      ∃ s', exec (.markCursor h t) s = .next s' ∧ Claims.endedWith s s' h t r (stOk, 0) ∧
        cursorStep s'.dev.oxb = cursorStep s.dev.oxb + 1#64 ∧
        tget 0#64 s'.dev.oxb.cursor 1 = tget 0#64 s.dev.oxb.cursor 1 ∧ tget 0#64 s'.dev.oxb.cursor 2 = tget 0#64 s.dev.oxb.cursor 2 ∧
        tget 0#64 s'.dev.oxb.cursor 3 = tget 0#64 s.dev.oxb.cursor 3 + word w 2 ∧
        (∀ j, j < 8 → tget 0#64 s'.dev.oxb.cursor (4 + j) = tget 0#64 s.dev.oxb.cursor (4 + j) + word w (3 + j)) ∧
        (∀ n, streamAt s'.dev n = (if (streamAt s.dev n).adv then
          { streamAt s.dev n with step := (streamAt s.dev n).step + 1#64, next := 0#64 } else streamAt s.dev n)) ∧
        s'.dev.tiles = s.dev.tiles ∧ s'.plat = s.plat) ∧
    (Claims.runs s h t r (fun w => dKind w == 5 && dSub w == 2) → Claims.notEarly s h t r (runCycle s.plat r) → (taskAt r t).s + 32 ≤ runCycle s.plat r →
      ∃ s', exec (.markLockstep h t) s = .next s' ∧ Claims.endedWith s s' h t r (stOk, 0) ∧ s'.dev.oxb = s.dev.oxb ∧
        s'.dev.tiles = s.dev.tiles ∧ s'.plat = s.plat)

/-- R207, R210, R223, R267, R271, R324, R329: MOVE and COLL tasks are dispatched and end. -/
def Obligations.MovesAndCollectivesRunAndComplete : Prop :=
  Claims.MovesAndCollectivesAreDispatched ∧ Claims.MovesAndCollectivesComplete

/-! ### Packets -/

namespace Sys2Proof.Claims

/-- The device can take the packet now and R389 refuses it nothing. -/
def accepted (s : State) (ring : Nat) (pkt : Packet) : Prop :=
  canTake s.plat s.dev ring pkt = true ∧ takeChecks s.dev ring pkt = none

/-- HEAD has passed the packet's slots (R386); platform and queue are as before. -/
def passed (s t : State) (ring : Nat) (pkt : Packet) : Prop :=
  (ringAt t.dev ring).head = ((ringAt s.dev ring).head + pkSlots pkt) % (ringAt s.dev ring).size ∧ t.plat = s.plat ∧
    t.pending = s.pending

/-- The packet is taken and completes in the same step with a status and DETAIL: its completion is written at TAIL of its completion
ring, TAIL moves on by one entry, and the packets outstanding are those that were (R386, R390). -/
def completes (s t : State) (ring : Nat) (pkt : Packet) (status detail : Nat) : Prop :=
  let c := ringAt s.dev (ring + 9)
  passed s t ring pkt ∧ t.dev.host.taken = s.dev.host.taken ∧ (ringAt t.dev (ring + 9)).tail = (c.tail + 1) % c.size ∧
    HostOut.write (BitVec.ofNat 64 (c.base.toNat * 4096 + 32 * c.tail))
      (completionBytes (pkSeq pkt) status ring detail s.plat.now (pkTag pkt) c.phase) ∈ t.dev.out.host

/-- The packet is taken and stays outstanding: an entry of its completion ring is reserved for it (R386). -/
def outstanding (s t : State) (ring : Nat) (pkt : Packet) : Prop :=
  passed s t ring pkt ∧ (ringAt t.dev (ring + 9)).reserved = (ringAt s.dev (ring + 9)).reserved + 1 ∧
    t.dev.host.taken = s.dev.host.taken ++
      [{ id := freshId s.dev.host, ring := ring, seq := pkSeq pkt, tag := pkTag pkt, noint := pkNoint pkt }]

/-- Nothing but the host interface and what it sends has changed. -/
def onlyHost (s t : State) : Prop := t = { s with dev := { s.dev with host := t.dev.host, out := t.dev.out } }

/-- The packet commands and the packets each takes. -/
def packetCommands (image : List Byte) (smart : BitVec 4) (vols : List VolPort) (images : List SlotImage) :
    List ((Nat → Packet → Instr) × (Packet → Bool)) :=
  let op (n : Nat) (p : Packet) : Bool := pkOpcode p == n
  [(.hello, op 0x01), (.identify, op 0x02), (.graphLoad, op 0x10), (.graphRun, op 0x11), (.graphAbort, op 0x12),
   (.graphUnload, op 0x13), (.regionMap, op 0x20), (.regionUnmap, op 0x21), (.linkEnumerate, op 0x30), (.linkAttach, op 0x31),
   (.linkDetach, op 0x32),
   (fun r p => .oxbowPolicySet r p vols, fun p => op 0x40 p && par p 0 1 != 1),
   (.oxbowPolicyReport, fun p => op 0x40 p && par p 0 1 == 1),
   (fun r p => .oxbowSnapshot r p smart, op 0x41), (fun r p => .oxbowRestore r p images, op 0x42),
   (fun r p => .oxbowVerify r p images, op 0x43),
   (.lockstepPair, fun p => op 0x50 p && par p 0 1 != 0xFF), (.lockstepDissolve, fun p => op 0x50 p && par p 0 1 == 0xFF),
   (fun r p => .fwStage r p image, op 0x60),
   (.fwCommitWrite, fun p => op 0x61 p && par p 0 1 != 1), (.fwCommitActivate, fun p => op 0x61 p && par p 0 1 == 1),
   (.memRepairQuery, op 0x70),
   (.memRepairRowRemap, fun p => op 0x71 p && par p 2 1 != 1), (.memRepairRowRetire, fun p => op 0x71 p && par p 2 1 == 1),
   (.memRetrain, op 0x72), (.memBist, op 0x73),
   (.memRepairLaneSpare, fun p => op 0x74 p && par p 2 1 != 1), (.memRepairLaneMapout, fun p => op 0x74 p && par p 2 1 == 1),
   (.quadrantDrain, op 0x80), (.quadrantResume, op 0x81), (.telemetryRead, op 0x90), (.secureErase, op 0xB0), (.selfTest, op 0xC0)]

/-- A table of channels reads the same but for one of them. -/
def otherChans (s t : State) (g : Nat) : Prop := ∀ k, k ≠ g → chanAt t.dev k = chanAt s.dev k

end Sys2Proof.Claims

/-- R386, R389, R390: a packet that R389 refuses is taken and completes at once with the refusing status and DETAIL 0, whichever command
it is, and nothing but the host interface changes; a packet of another command, or one that the device cannot take yet, changes
nothing. -/
def Obligations.RefusedPacketsCompleteAtOnce : Prop :=
  ∀ (image : List Byte) (smart : BitVec 4) (vols : List VolPort) (images : List SlotImage),
    ∀ e ∈ Claims.packetCommands image smart vols images, ∀ (s : State) (ring : Nat) (pkt : Packet),
      (∀ st, e.2 pkt = true → canTake s.plat s.dev ring pkt = true → takeChecks s.dev ring pkt = some st →
        ∃ t, exec (e.1 ring pkt) s = .next t ∧ Claims.completes s t ring pkt st 0 ∧ Claims.onlyHost s t) ∧
      (e.2 pkt = false ∨ canTake s.plat s.dev ring pkt = false → exec (e.1 ring pkt) s = .next s)

/-- R391: HELLO on a work ring is refused as BAD_OPCODE. On the admin ring a MINVER above MAXVER is BAD_PARAM; otherwise V is the smaller of
MAXVER and 1.3 (0x13): not below MINVER and 1.0 (0x10) it is accepted, YENEL_VER takes it and no packet of a later version is
accepted after it; else the answer is VERSION_UNSUPPORTED and the agreement stays. DETAIL holds V or 0, 0x10, 0x13 and zero. -/
def Obligations.HelloAgreesOnAVersion : Prop :=
  ∀ (s : State) (pkt : Packet), pkOpcode pkt = 0x01 →
    (∀ ring, ring ≠ 8 → ringHeld s.dev ring = false → canTake s.plat s.dev ring pkt = true →
      ∃ t, exec (.hello ring pkt) s = .next t ∧ Claims.completes s t ring pkt stBadOpcode 0 ∧ Claims.onlyHost s t ∧
        t.dev.host.yenelVer = s.dev.host.yenelVer) ∧
    (Claims.accepted s 8 pkt →
      let minVer := par pkt 0 1
      let maxVer := par pkt 1 1
      let v := min maxVer 0x13
      let ends (status detail : Nat) (ver : BitVec 8) (more : State → Prop) : Prop :=
        ∃ t, exec (.hello 8 pkt) s = .next t ∧ Claims.completes s t 8 pkt status detail ∧ Claims.onlyHost s t ∧
          t.dev.host.yenelVer = ver ∧ more t
      (maxVer < minVer → ends stBadParam 0 s.dev.host.yenelVer (fun _ => True)) ∧
      (minVer ≤ maxVer → max minVer 0x10 ≤ v → ends stOk (v + 0x10 * 2 ^ 8 + 0x13 * 2 ^ 16) (BitVec.ofNat 8 v) (fun t =>
        ∀ ring q, pkOpcode q ≠ 0x01 → pkOpcode q ≠ 0x02 → Claims.accepted t ring q → pkVersion q ≤ v)) ∧
      (minVer ≤ maxVer → v < max minVer 0x10 →
        ends stVersion (0x10 * 2 ^ 8 + 0x13 * 2 ^ 16) s.dev.host.yenelVer (fun _ => True)))

/-- R391, R393, R286: HELLO keeps the version it agrees on and reports it; IDENTIFY, TELEMETRY_READ, LINK_ENUMERATE and MEM_REPAIR_QUERY
with a long enough buffer write their record to the host address of the packet and complete OK; nothing but the host interface
changes. -/
def Obligations.HelloAndRecordsAnswerTheHost : Prop :=
  ∀ (s : State) (ring : Nat) (pkt : Packet), Claims.accepted s ring pkt →
    let a := helloAnswer (par pkt 0 1) (par pkt 1 1)
    let record (c : Instr) (addr : Nat) (l : List Byte) : Prop :=
      ∃ t, exec c s = .next t ∧ Claims.completes s t ring pkt stOk 0 ∧ HostOut.write (BitVec.ofNat 64 addr) l ∈ t.dev.out.host ∧
        Claims.onlyHost s t
    (pkOpcode pkt = 0x01 → ∃ t, exec (.hello ring pkt) s = .next t ∧ Claims.completes s t ring pkt a.1 a.2.1 ∧
      t.dev.host.yenelVer = (match a.2.2 with | some v => BitVec.ofNat 8 v | none => s.dev.host.yenelVer) ∧ Claims.onlyHost s t) ∧
    (pkOpcode pkt = 0x02 → 4096 ≤ par pkt 8 4 → record (.identify ring pkt) (par pkt 0 8) (identifyRecord s.dev)) ∧
    (pkOpcode pkt = 0x30 → 3072 ≤ par pkt 8 4 → record (.linkEnumerate ring pkt) (par pkt 0 8) (enumerateRecord s.dev)) ∧
    (pkOpcode pkt = 0x70 → par pkt 0 2 ≤ 1023 → 5184 ≤ par pkt 0x10 4 → stillRunning s.dev = false →
      record (.memRepairQuery ring pkt) (par pkt 8 8) (repairRecord s.dev (par pkt 0 2))) ∧
    (∀ l, pkOpcode pkt = 0x90 → telemetryRecord s.plat s.dev (par pkt 0 1) (par pkt 2 2) = some l →
      telemetrySize s.dev (par pkt 0 1) (par pkt 2 2) ≤ par pkt 0x10 4 → record (.telemetryRead ring pkt) (par pkt 8 8) l)

/-- R226: in the cycle after an abort every running task of the run but a MOVE or COLL stops, and the tiles of those tasks let go. -/
def Claims.AnAbortLandsInItsCycle : Prop :=
  ∀ (p : Plat) (d : Dev) (r : Run) (c : Nat), d.runs = [r] → r.started = true → r.stopAt = some c → c ≤ p.cyc →
    let stops := stopsNext (graphAt d r.handle)
    ∃ r', runOf (abortsLand p d) r.handle = some r' ∧ r'.stopAt = none ∧ (∀ u, stops u = true → (taskAt r' u).st ≠ .running) ∧
      ∀ k, (tileAt d k).handle = r.handle → stops (tileAt d k).task = true → (tileAt (abortsLand p d) k).phase = .idle

/-- R213, R214, R226, R466, Table 9.6: an acceptable GRAPH_RUN stays outstanding, its run joins the runs and its ring is blocked until the
run starts; GRAPH_ABORT of a LOADED graph completes; of a RUNNING one whose last task has not ended it aborts the run: its COLLs stop at
once, its MOVEs when the transfer units that have started are written, every other task in the next cycle; one whose last task has ended
ends as it would (LOG 43); GRAPH_UNLOAD frees a graph without a run. -/
def Obligations.GraphRunAbortAndUnload : Prop :=
  Claims.AnAbortLandsInItsCycle ∧
  ∀ (s : State) (ring : Nat) (pkt : Packet), Claims.accepted s ring pkt →
    let h := par pkt 0 1
    let g := graphAt s.dev h
    (pkOpcode pkt = 0x11 → h ≤ 63 → g.state ≠ .free → g.state ≠ .invalid →
      (par pkt 8 8 ≠ 0 → 256 + 32 * g.tasks.length ≤ par pkt 0x10 4) → resourceGone s.dev g = false →
      (isPaired s.dev = true → lockGraphOk s.dev g = true) →
      ∃ t, exec (.graphRun ring pkt) s = .next t ∧ Claims.outstanding s t ring pkt ∧ (ringAt t.dev ring).blocked = true ∧
        t.dev.runs = s.dev.runs ++ [{ handle := h, pkt := some (freshId s.dev.host), ring := ring,
                                      record := BitVec.ofNat 64 (par pkt 8 8) }] ∧
        t.dev.graphs = s.dev.graphs ∧ t.dev.tiles = s.dev.tiles ∧ t.dev.out = s.dev.out) ∧
    (pkOpcode pkt = 0x12 → g.state = .loaded ∨ g.state = .invalid →
      ∃ t, exec (.graphAbort ring pkt) s = .next t ∧ Claims.completes s t ring pkt stOk 0 ∧ Claims.onlyHost s t) ∧
    (∀ r, pkOpcode pkt = 0x12 → g.state = .running → runOf s.dev h = some r →
      ∃ t r', exec (.graphAbort ring pkt) s = .next t ∧ Claims.outstanding s t ring pkt ∧ runOf t.dev h = some r' ∧
        r'.aborts = r.aborts ++ [freshId s.dev.host] ∧
        (runOver g r = true → r' = { r with aborts := r'.aborts } ∧ t.dev.graphs = s.dev.graphs) ∧
        (runOver g r = false → (graphAt t.dev h).state = .aborting ∧ r'.aborted = true ∧ r'.stopped = true ∧
          r'.stopAt = some (s.plat.cyc + 1) ∧
          (∀ u, (taskAt r u).st = .running → dKind (descOf g u) = 4 → (taskAt r' u).st = .stopped) ∧
          (∀ u, (taskAt r u).st = .running → dKind (descOf g u) = 3 →
            (taskAt r' u).st = .stopped ∨ ((taskAt r' u).st = .running ∧ (taskAt r' u).work.halting = true)))) ∧
    (pkOpcode pkt = 0x13 → h ≤ 63 → g.state = .loaded ∨ g.state = .invalid → runWaits s.dev h = false →
      ∃ t, exec (.graphUnload ring pkt) s = .next t ∧ Claims.completes s t ring pkt stOk 0 ∧ graphAt t.dev h = {} ∧
        (∀ k, k ≠ h → graphAt t.dev k = graphAt s.dev k) ∧
        t = { s with dev := { s.dev with host := t.dev.host, out := t.dev.out, graphs := t.dev.graphs } })

/-- R211: GRAPH_LOAD of an image that lies in readable mapped memory, has its magic, CRC, version, the part's row counts and NID (or
OVERRIDE), keeps every rule and fits places its graph under a free handle, reports the handle, and leaves every other graph. An
address outside the near tier's space or its regions is BAD_PARAM and loads nothing. -/
def Obligations.GraphLoadPlacesACheckedGraph : Prop :=
  ∀ (s : State) (ring : Nat) (pkt : Packet), Claims.accepted s ring pkt → pkOpcode pkt = 0x10 →
    let a := par pkt 0 8
    let len := nearLe s.dev (a + 0x60) 8
    let img := nearBytes s.dev a len
    let d1 := readEffects s.plat 5 0 false a (max len 256) (takeIt ring pkt s.dev).2
    (2 ^ 40 ≤ a ∨ covered s.dev a 256 = false →
      ∃ t, exec (.graphLoad ring pkt) s = .next t ∧ Claims.completes s t ring pkt stBadParam 0 ∧ Claims.onlyHost s t) ∧
    (∀ g, a < 2 ^ 40 → covered s.dev a 256 = true → nearBad s.dev a 256 = [] → a + len ≤ 2 ^ 40 → covered s.dev a len = true →
      nearBad s.dev a (max len 256) = [] → imgNum img 0 4 = 0x52475A44 → imgCrc img = imgNum img 0x70 8 → imgNum img 4 2 = 2 →
      imgBytes img 0x18 16 = rowBytes s.dev.geom → (BitVec.ofNat 64 (imgNum img 0x10 8) = s.dev.fw.nid ∨ pkOverride pkt = true) →
      graphChecked d1 img (pkOverride pkt) = some g → graphFits s.dev g = true →
      ∃ t h, exec (.graphLoad ring pkt) s = .next t ∧ Claims.completes s t ring pkt stOk h ∧ h < 64 ∧
        (graphAt s.dev h).state = .free ∧ graphAt t.dev h = g ∧ (∀ k, k ≠ h → graphAt t.dev k = graphAt s.dev k) ∧
        t.dev.near.mem = s.dev.near.mem ∧ t.dev.tiles = s.dev.tiles ∧ t.dev.runs = s.dev.runs)

/-- R251, R253, R315, R285: REGION_MAP and REGION_UNMAP write one entry of their table, raise REGION_GEN by one and complete OK; every
other entry, every byte of memory and all else of the machine stay. While a Still-mode run is in progress both complete BUSY
on the near tier's table. -/
def Obligations.RegionMapAndUnmapChangeOneEntry : Prop :=
  ∀ (s : State) (ring : Nat) (pkt : Packet), Claims.accepted s ring pkt →
    let i := par pkt 4 2
    let b2 := par pkt 2 1
    let unit := par pkt 6 2
    let base := par pkt 8 8
    let size := par pkt 0x10 8
    let l := channelList s.dev (interleaveOf b2) unit
    let near (t : State) (st : Nat) : Prop := Claims.completes s t ring pkt st 0 ∧
      t = { s with dev := { s.dev with
        host := t.dev.host, out := t.dev.out,
        near := { s.dev.near with regions := t.dev.near.regions, regionGen := s.dev.near.regionGen + 1#32 } } } ∧
      ∀ k, k ≠ i → regionAt t.dev k = regionAt s.dev k
    let far (t : State) (st : Nat) : Prop := Claims.completes s t ring pkt st 0 ∧
      t = { s with dev := { s.dev with
        host := t.dev.host, out := t.dev.out, links := { s.dev.links with far := t.dev.links.far },
        near := { s.dev.near with regionGen := s.dev.near.regionGen + 1#32 } } } ∧
      ∀ k, k ≠ i → farAt t.dev k = farAt s.dev k
    (pkOpcode pkt = 0x20 → par pkt 0 1 = 0 → par pkt 1 1 ≤ 1 → b2 ≤ 3 → i ≤ 255 → unitInRange (interleaveOf b2) unit = true →
      par pkt 0x20 8 = 0 → par pkt 0x28 8 = 0 → stillRunning s.dev = false →
      nearMapOk s.dev i (interleaveOf b2) unit base size (par pkt 0x18 4) = true →
      ∃ t, exec (.regionMap ring pkt) s = .next t ∧ near t stOk ∧
        regionAt t.dev i = { valid := true, persist := par pkt 1 1 == 1, il := interleaveOf b2, unit := unit, base := base, size := size,
                             choff := par pkt 0x18 4, chans := l }) ∧
    (pkOpcode pkt = 0x20 → par pkt 0 1 = 1 → par pkt 1 1 ≤ 1 → 12 ≤ b2 → b2 ≤ 20 → i ≤ 1023 → unit = 0 → par pkt 0x18 4 = 0 →
      stillRunning s.dev = false → farMapOk s.dev i base size b2 (par pkt 0x20 8) (par pkt 0x28 8) = true →
      ∃ t, exec (.regionMap ring pkt) s = .next t ∧ far t stOk ∧
        farAt t.dev i = { valid := true, persist := par pkt 1 1 == 1, stripe := b2, base := base, size := size,
                          ports := BitVec.ofNat 48 (par pkt 0x20 8), pbase := BitVec.ofNat 64 (par pkt 0x28 8) }) ∧
    (pkOpcode pkt = 0x21 → par pkt 0 1 = 0 → i ≤ 255 → stillRunning s.dev = false → (regionAt s.dev i).valid = true →
      policyNames s.dev false i = false →
      ∃ t, exec (.regionUnmap ring pkt) s = .next t ∧ near t stOk ∧ regionAt t.dev i = { regionAt s.dev i with valid := false }) ∧
    (pkOpcode pkt = 0x21 → par pkt 0 1 = 1 → i ≤ 1023 → stillRunning s.dev = false → (farAt s.dev i).valid = true →
      policyNames s.dev true i = false →
      ∃ t, exec (.regionUnmap ring pkt) s = .next t ∧ far t stOk ∧ farAt t.dev i = { farAt s.dev i with valid := false }) ∧
    (stillRunning s.dev = true → par pkt 0 1 = 0 → i ≤ 255 →
      (pkOpcode pkt = 0x20 → par pkt 1 1 ≤ 1 → b2 ≤ 3 → unitInRange (interleaveOf b2) unit = true → par pkt 0x20 8 = 0 →
        par pkt 0x28 8 = 0 →
        ∃ t, exec (.regionMap ring pkt) s = .next t ∧ Claims.completes s t ring pkt stBusy 0 ∧ Claims.onlyHost s t) ∧
      (pkOpcode pkt = 0x21 →
        ∃ t, exec (.regionUnmap ring pkt) s = .next t ∧ Claims.completes s t ring pkt stBusy 0 ∧ Claims.onlyHost s t))

/-- R281, R282, R286, R276, R277, Table 11.13: outside a Still-mode run and with the channel's quadrant drained, MEM_REPAIR_ROW remaps a
row while spares and field count allow, or retires its page, MEM_REPAIR_LANE takes a spare lane, or maps a FAILED channel out that no
region uses; each completes OK and changes no byte of memory and no other channel. -/
def Obligations.RepairCommandsRepairOneChannel : Prop :=
  ∀ (s : State) (ring : Nat) (pkt : Packet), Claims.accepted s ring pkt →
    let g := par pkt 0 2
    let c := chanAt s.dev g
    let bank := par pkt 3 1
    let row := par pkt 4 2
    let lane := par pkt 4 2
    let done (i : Instr) (f : State → Prop) : Prop :=
      ∃ t, exec i s = .next t ∧ Claims.completes s t ring pkt stOk 0 ∧ f t ∧ Claims.otherChans s t g ∧
        t.dev.near.mem = s.dev.near.mem ∧ t.dev.near.regions = s.dev.near.regions ∧
        t = { s with dev := { s.dev with host := t.dev.host, out := t.dev.out, near := t.dev.near } }
    g ≤ 1023 → stillRunning s.dev = false → quadDrained s.dev (quadOfChan g) = true →
    (pkOpcode pkt = 0x71 → bank ≤ 15 → row ≤ 4095 →
      (par pkt 2 1 = 0 → canRemap c bank row = true → done (.memRepairRowRemap ring pkt) (fun t =>
        (bank, row, fieldCount c bank row + 1) ∈ (chanAt t.dev g).remaps ∧ (bank, row, s.plat.now) ∈ (chanAt t.dev g).bankBusy ∧
          tget 0 (chanAt t.dev g).spareUsed bank = tget 0 c.spareUsed bank + 1 ∧ (chanAt t.dev g).retired = c.retired)) ∧
      (par pkt 2 1 = 1 → done (.memRepairRowRetire ring pkt) (fun t =>
        row / 2 ∈ (chanAt t.dev g).retired ∧ (∀ x, x ∈ (chanAt t.dev g).retired ↔ x ∈ c.retired ∨ x = row / 2) ∧
          (row / 2 ∉ c.retired → t.dev.near.memCap = s.dev.near.memCap - 65536#40 ∧
            t.dev.near.memmapGen = s.dev.near.memmapGen + 1#32)))) ∧
    (pkOpcode pkt = 0x74 → lane ≤ 575 →
      (par pkt 2 1 = 0 → c.spares.length < 4 → done (.memRepairLaneSpare ring pkt) (fun t =>
        lane ∈ (chanAt t.dev g).spares ∧ (chanAt t.dev g).spares.length ≤ 4)) ∧
      (par pkt 2 1 = 1 → chanState s.dev g = .failed → regionUses s.dev g = false → done (.memRepairLaneMapout ring pkt) (fun t =>
        (chanAt t.dev g).state = .mappedOut ∧ t.dev.near.memmapGen = s.dev.near.memmapGen + 1#32 ∧
          t.dev.near.regionGen = s.dev.near.regionGen + 1#32)))

/-- R286, R395, R396: MEM_RETRAIN, MEM_BIST, SECURE_ERASE and SELF_TEST that nothing forbids become the long operation and stay
outstanding; the channels that the first two name retrain from this cycle on. -/
def Obligations.LongOperationsBegin : Prop :=
  ∀ (s : State) (ring : Nat) (pkt : Packet), Claims.accepted s ring pkt →
    let l := namedChans pkt
    let id := freshId s.dev.host
    (pkOpcode pkt = 0x72 → stillRunning s.dev = false → (∀ g ∈ l, chanState s.dev g ≠ .mappedOut) →
      ∃ t, exec (.memRetrain ring pkt) s = .next t ∧ Claims.outstanding s t ring pkt ∧ t.dev.host.longOp = some (id, .memRetrain l) ∧
        (∀ g ∈ l, chanAt t.dev g = { chanAt s.dev g with retraining := some .command }) ∧
        (∀ g, g ∉ l → chanAt t.dev g = chanAt s.dev g) ∧ t.dev.near.mem = s.dev.near.mem) ∧
    (pkOpcode pkt = 0x73 → par pkt 0x80 1 ≤ 1 → stillRunning s.dev = false → (∀ g ∈ l, quadDrained s.dev (quadOfChan g) = true) →
      (par pkt 0x80 1 = 0 → ∀ g ∈ l, regionUses s.dev g = false) →
      ∃ t, exec (.memBist ring pkt) s = .next t ∧ Claims.outstanding s t ring pkt ∧ t.dev.host.longOp = some (id, .memBist l) ∧
        (∀ g ∈ l, chanAt t.dev g = { chanAt s.dev g with retraining := some .test }) ∧
        (∀ g, g ∉ l → chanAt t.dev g = chanAt s.dev g) ∧ t.dev.near.mem = s.dev.near.mem) ∧
    (pkOpcode pkt = 0xB0 → anyRun s.dev = false → draining s.dev = false →
      ∃ t, exec (.secureErase ring pkt) s = .next t ∧ Claims.outstanding s t ring pkt ∧
        t.dev.host.longOp = some (id, .secureErase) ∧ Claims.onlyHost s t) ∧
    (pkOpcode pkt = 0xC0 → par pkt 0 1 ≤ 15 → (∀ q ∈ bitsOf 4 (par pkt 0 1), quadDrained s.dev q = true) →
      ∃ t, exec (.selfTest ring pkt) s = .next t ∧ Claims.outstanding s t ring pkt ∧
        t.dev.host.longOp = some (id, .selfTest (par pkt 0 1)) ∧ Claims.onlyHost s t)

/-- R395, R396: LONG_OPERATION_DONE ends a SECURE_ERASE with SRAM, instruction stores, graphs, streams and region tables clear and the near
tier clear outside retired pages, a retrain whose channels are all trained, a self-test, and a firmware commit that is done; the ring
is free again. While a named channel still retrains, nothing changes, nor while a function-level reset waits for a training (R287). -/
def Obligations.LongOperationDoneFreesTheRing : Prop :=
  ∀ (s : State) (res : LongResult) (id : Nat), s.plat.serving = true →
    (s.dev.host.flrWait = true → exec (.longOperationDone res) s = .next s) ∧
    (s.dev.host.flrWait = false →
    let ends (t : State) : Prop := exec (.longOperationDone res) s = .next t ∧ t.dev.host.longOp = none ∧ t.plat = s.plat ∧ t.pending = s.pending
    (s.dev.host.longOp = some (id, .secureErase) →
      ∃ t, ends t ∧ t.dev.graphs = [] ∧ t.dev.rng = [] ∧ t.dev.near.regions = [] ∧ t.dev.links.far = [] ∧
        (∀ k, (tileAt t.dev k).sram = [] ∧ (tileAt t.dev k).store = []) ∧
        ∀ a, (chanAt s.dev (a / 2 ^ 27)).retired.contains (a % 2 ^ 27 / 65536) = false → readByte t.dev.near.mem a = 0#8) ∧
    (∀ l, s.dev.host.longOp = some (id, .memRetrain l) →
      ((∀ g ∈ l, (chanAt s.dev g).retraining = none) → ∃ t, ends t ∧ t.dev.near = s.dev.near) ∧
      ((∃ g ∈ l, (chanAt s.dev g).retraining ≠ none) → exec (.longOperationDone res) s = .next s)) ∧
    (∀ l, s.dev.host.longOp = some (id, .memBist l) →
      ∃ t, ends t ∧ ∀ g ∈ l, ∀ a, a / 2 ^ 27 = g → readByte t.dev.near.mem a = 0#8) ∧
    (∀ m, s.dev.host.longOp = some (id, .selfTest m) →
      ∃ t, ends t ∧ ∀ x ∈ res.tiles, m.testBit (x.1 / 4) = true → sound s.dev x = true →
        physNum x.1 x.2.1 x.2.2 ∈ t.dev.geom.failed) ∧
    (∀ st detail, s.dev.host.longOp = some (id, .fwDone st detail) → ∃ t, ends t ∧ t.dev.fw = s.dev.fw ∧ t.dev.near = s.dev.near))

/-- R399, R400: QUADRANT_DRAIN of a quadrant in service makes it draining, keeps the command and marks the waiting runs that involve it;
with FORCE the runs in progress that involve it are aborted, but those whose last task has ended. QUADRANT_DRAINED makes it drained when nothing keeps it, and
QUADRANT_RESUME puts a drained one back into service. -/
def Obligations.QuadrantsDrainAndResume : Prop :=
  ∀ (s : State),
    (∀ (ring : Nat) (pkt : Packet), Claims.accepted s ring pkt →
      let q := par pkt 0 1
      (pkOpcode pkt = 0x80 → q ≤ 3 → par pkt 1 1 ≤ 1 → (quadAt s.dev q).state = .inService →
        ∃ t, exec (.quadrantDrain ring pkt) s = .next t ∧ Claims.outstanding s t ring pkt ∧ (quadAt t.dev q).state = .draining ∧
          (∃ n, (freshId s.dev.host, n) ∈ (quadAt t.dev q).waiters) ∧ (∀ k, k ≠ q → quadAt t.dev k = quadAt s.dev k) ∧
          (quadAt t.dev q).forced = (par pkt 1 1 == 1) ∧
          (∀ r ∈ t.dev.runs, r.started = false → involves (graphAt s.dev r.handle) q = true → r.drainHit = true) ∧
          (par pkt 1 1 = 0 → t.dev.graphs = s.dev.graphs ∧ t.dev.tiles = s.dev.tiles) ∧
          (par pkt 1 1 = 1 → ∀ h r, runOf t.dev h = some r → involves (graphAt s.dev h) q = true →
            r.aborted = true ∨ runOver (graphAt s.dev h) r = true)) ∧
      (pkOpcode pkt = 0x80 → q ≤ 3 → par pkt 1 1 ≤ 1 → (quadAt s.dev q).state = .drained ∨ (quadAt s.dev q).state = .unavailable →
        ∃ t, exec (.quadrantDrain ring pkt) s = .next t ∧ Claims.completes s t ring pkt stOk 0 ∧ Claims.onlyHost s t) ∧
      (pkOpcode pkt = 0x81 → q ≤ 3 → (quadAt s.dev q).state = .drained →
        ∃ t, exec (.quadrantResume ring pkt) s = .next t ∧ Claims.completes s t ring pkt stOk 0 ∧
          (quadAt t.dev q).state = .inService ∧ (∀ k, k ≠ q → quadAt t.dev k = quadAt s.dev k) ∧ t.dev.near = s.dev.near ∧
          t.dev.tiles = s.dev.tiles ∧ t.dev.runs = s.dev.runs ∧
          ∀ x ∈ t.dev.geom.repairs, quadOfDie x.1 ≠ q)) ∧
    (∀ q, s.plat.alive = true → (quadAt s.dev q).state = .draining → drainOver s.dev q = true →
      ∃ t, exec (.quadrantDrained q) s = .next t ∧ (quadAt t.dev q).state = .drained ∧ (quadAt t.dev q).waiters = [] ∧
        (∀ k, k ≠ q → quadAt t.dev k = quadAt s.dev k) ∧
        t = { s with dev := { s.dev with host := t.dev.host, out := t.dev.out, quads := t.dev.quads } })

/-- R312, R313: an acceptable LINK_ATTACH stays outstanding while the partner is attested with the packet's identity, role and window; an
acceptable LINK_DETACH returns the port to UP without role and window and completes. -/
def Obligations.LinkAttachAndDetach : Prop :=
  ∀ (s : State) (ring : Nat) (pkt : Packet), Claims.accepted s ring pkt →
    let p := par pkt 0 1
    let x := portAt s.dev p
    let wbase := par pkt 8 8
    let wsize := par pkt 0x10 8
    (pkOpcode pkt = 0x31 → p ≤ 47 → par pkt 1 1 ≤ 1 → stillRunning s.dev = false → portInRun s.dev p = false → x.state = .up →
      x.retraining = false → x.attest = none → wbase % 2 ^ 21 = 0 → wsize % 2 ^ 21 = 0 → wbase + wsize ≤ 2 ^ 40 →
      (par pkt 1 1 = 1 → x.profile = 1) → leNat x.partner = par pkt 0x20 32 →
      ∃ t a, exec (.linkAttach ring pkt) s = .next t ∧ Claims.outstanding s t ring pkt ∧ (portAt t.dev p).state = .up ∧
        (portAt t.dev p).attest = some a ∧ a.pkt = some (freshId s.dev.host) ∧ a.expect = BitVec.ofNat 256 (par pkt 0x20 32) ∧
        a.anchor = BitVec.ofNat 256 (par pkt 0x40 32) ∧ a.role = par pkt 1 1 ∧ a.wbase = wbase ∧ a.wsize = wsize ∧ a.chain = [] ∧
        a.since = s.plat.now ∧ (∀ k, k ≠ p → portAt t.dev k = portAt s.dev k) ∧ t.dev.near = s.dev.near ∧ t.dev.runs = s.dev.runs) ∧
    (pkOpcode pkt = 0x32 → p ≤ 47 → portInRun s.dev p = false → x.state = .attached →
      (s.dev.links.far.map (·.2)).any (fun r => r.valid && r.ports.toNat.testBit p) = false →
      (s.dev.obs.ls.state = .unpaired ∨ s.dev.obs.ls.port ≠ p) →
      ∃ t, exec (.linkDetach ring pkt) s = .next t ∧ Claims.completes s t ring pkt stOk 0 ∧ (portAt t.dev p).state = .up ∧
        (portAt t.dev p).role = 0 ∧ (portAt t.dev p).wsize = 0 ∧ (portAt t.dev p).pending = [] ∧ t.dev.near.mem = s.dev.near.mem ∧
        t.dev.near.regions = s.dev.near.regions ∧ t.dev.tiles = s.dev.tiles ∧
        ∀ a ∈ t.dev.near.accs, ∀ n, a.who = .partner p n → a.txn = none)

/-- R359, R361, R376: an acceptable OXBOW_POLICY SET whose ports all have links and fitting, formatted or formattable namespaces puts its
policy in force with no port failed; REPORT counts its node losses as failure-class events; OXBOW_VERIFY answers whether the named
snapshot is whole, a port whose reads fail failing; each completes, and OXBOW_VERIFY changes nothing else. SET's byte fields and indices
are checked before BUSY, its other fields after (R376, R392). -/
def Obligations.OxbowPolicyAndVerify : Prop :=
  ∀ (s : State) (ring : Nat) (pkt : Packet), Claims.accepted s ring pkt →
    (∀ vols : List VolPort, pkOpcode pkt = 0x40 → par pkt 0 1 ≠ 1 →
      (policyRangeOk pkt = false → ∃ t, exec (.oxbowPolicySet ring pkt vols) s = .next t ∧ Claims.completes s t ring pkt stBadParam 0 ∧
        Claims.onlyHost s t) ∧
      (policyRangeOk pkt = true → anyRun s.dev = true ∨ draining s.dev = true →
        ∃ t, exec (.oxbowPolicySet ring pkt vols) s = .next t ∧ Claims.completes s t ring pkt stBusy 0 ∧ Claims.onlyHost s t)) ∧
    (∀ vols : List VolPort, pkOpcode pkt = 0x40 → policyRangeOk pkt = true → policyFieldsOk pkt = true → anyRun s.dev = false →
      draining s.dev = false → pairsOk s.dev (policyPairs pkt) = true →
      (∀ k ∈ enabledPorts s.dev (par pkt 1 1), (volPortOf vols k).link = true ∧ (volPortOf vols k).cmdOk = true ∧
        (volPortOf vols k).nsOk = true ∧ ((volPortOf vols k).isFmt3 = true ∨ par pkt 3 1 = 1)) →
      ∃ t, exec (.oxbowPolicySet ring pkt vols) s = .next t ∧ Claims.completes s t ring pkt stOk 0 ∧
        t.dev.oxb.policy = some (policyOf pkt) ∧ t.dev.oxb.failed = 0#4 ∧
        (∀ k ∈ enabledPorts s.dev (par pkt 1 1), NvmeOut.identify k ∈ t.dev.out.nvme ∧
          (∀ i, 1 ≤ i → i ≤ min 8 (volPortOf vols k).granted →
            NvmeOut.createCq k i ∈ t.dev.out.nvme ∧ NvmeOut.createSq k i ∈ t.dev.out.nvme) ∧
          tget 0 t.dev.oxb.queues k = min 8 (volPortOf vols k).granted ∧
          (tget ⟨k, 0, 0, 0⟩ t.dev.oxb.vols k).eui = (volPortOf vols k).eui) ∧
        t.dev.near = s.dev.near ∧ t.dev.links = s.dev.links ∧ t.dev.runs = s.dev.runs) ∧
    (pkOpcode pkt = 0x40 → par pkt 0 1 = 1 →
      ∃ t, exec (.oxbowPolicyReport ring pkt) s = .next t ∧ Claims.completes s t ring pkt stOk 0 ∧
        t.dev.oxb.events = s.dev.oxb.events + BitVec.ofNat 64 (par pkt 0x14 4) ∧
        t = { s with dev := { s.dev with host := t.dev.host, out := t.dev.out, oxb := t.dev.oxb } }) ∧
    (∀ images : List SlotImage, pkOpcode pkt = 0x43 →
      let x := scanVolumes s.plat.now images s.dev
      ∃ t, exec (.oxbowVerify ring pkt images) s = .next t ∧ t.dev.oxb = x.2.oxb ∧
        ((∀ m ∈ images, m.readOk = true) → t.dev.oxb = s.dev.oxb) ∧
        t = { s with dev := { s.dev with host := t.dev.host, out := t.dev.out, oxb := t.dev.oxb } } ∧
        Claims.completes s t ring pkt (if verifySeq x.2 x.1 (par pkt 0 8) then stOk else stSnapshot) 0)

/-- R371, R376, Table 14.6: OXBOW_SNAPSHOT during a run asks the next mark for a snapshot and completes; while a drain is in progress it is
BUSY. OXBOW_RESTORE from the volumes with candidates becomes the long operation, the part not yet restored; without any it completes
with SNAPSHOT_INVALID. From a buddy it becomes the long operation that fetches the image's header first, where BUDDY_PORT leads to a PEER
attached with ROLE 0; elsewhere it completes with SNAPSHOT_INVALID (the model's choice, LOG 53). -/
def Obligations.OxbowSnapshotAndRestore : Prop :=
  ∀ (s : State) (ring : Nat) (pkt : Packet), Claims.accepted s ring pkt →
    (∀ smart : BitVec 4, pkOpcode pkt = 0x41 → par pkt 0 1 ≤ 1 → policyOn s.dev.oxb ≠ none →
      (anyRun s.dev = true → ∃ t, exec (.oxbowSnapshot ring pkt smart) s = .next t ∧ Claims.completes s t ring pkt stOk 0 ∧
        t = { s with dev := { s.dev with host := t.dev.host, out := t.dev.out, oxb := { s.dev.oxb with hostReq := true } } }) ∧
      (anyRun s.dev = false → draining s.dev = true →
        ∃ t, exec (.oxbowSnapshot ring pkt smart) s = .next t ∧ Claims.completes s t ring pkt stBusy 0 ∧ Claims.onlyHost s t)) ∧
    (∀ images : List SlotImage, pkOpcode pkt = 0x42 → restoreFieldsOk pkt = true → anyRun s.dev = false → draining s.dev = false →
      restoreParOk s.dev pkt = true →
      (par pkt 0 1 = 0 →
        let x := scanVolumes s.plat.now images s.dev
        let all := candidatesOf x.2 false x.1
        let l := if par pkt 8 8 = 0 then all else all.filter (fun c => c.seq == par pkt 8 8)
        (l = [] → ∃ t, exec (.oxbowRestore ring pkt images) s = .next t ∧ Claims.completes s t ring pkt stSnapshot 0 ∧
          t.dev.oxb = { x.2.oxb with restored := false } ∧
          t = { s with dev := { s.dev with host := t.dev.host, out := t.dev.out, oxb := t.dev.oxb } }) ∧
        (l ≠ [] → ∃ t r, exec (.oxbowRestore ring pkt images) s = .next t ∧ Claims.outstanding s t ring pkt ∧
          t.dev.host.longOp = some (freshId s.dev.host, .restore r) ∧ r.par = pkt ∧ r.replaying = false ∧ r.fetch = none ∧
          t.dev.oxb = { x.2.oxb with restored := false } ∧ t.dev.rng = s.dev.rng ∧ t.dev.runs = s.dev.runs ∧
          t.dev.graphs = s.dev.graphs)) ∧
      (par pkt 0 1 = 1 →
        let y := portAt s.dev (par pkt 1 1)
        (y.state = .attached → y.role = 0 → y.profile = 1 →
          ∃ t r, exec (.oxbowRestore ring pkt images) s = .next t ∧ Claims.outstanding s t ring pkt ∧
            t.dev.host.longOp = some (freshId s.dev.host, .restore r) ∧ r.par = pkt ∧ r.fetch = some 1 ∧ r.acks = 1 ∧
            t.dev.oxb = { s.dev.oxb with restored := false } ∧ t.dev.near = s.dev.near ∧ t.dev.rng = s.dev.rng ∧
            t.dev.runs = s.dev.runs ∧ t.dev.graphs = s.dev.graphs) ∧
        (y.state ≠ .attached ∨ y.role ≠ 0 ∨ y.profile ≠ 1 →
          ∃ t, exec (.oxbowRestore ring pkt images) s = .next t ∧ Claims.completes s t ring pkt stSnapshot 0 ∧
            t = { s with dev := { s.dev with host := t.dev.host, out := t.dev.out, oxb := { s.dev.oxb with restored := false } } })))

/-- R346: an acceptable LOCKSTEP_PAIR waits for the partner's LS_PAIR with the port and digest area it names; LS_PAIR of the same NID and
row counts makes the pairing, RUNSEQ zero; another NID is refused as NID_MISMATCH and other row counts as GEOMETRY_MISMATCH, and no
pairing is left. LOCKSTEP_PAIR that names no port dissolves a pairing. Without LS_PAIR for 1 s none is left either. -/
def Obligations.LockstepPairingIsMadeAndDissolved : Prop :=
  ∀ (s : State),
    let ls := s.dev.obs.ls
    (∀ (ring : Nat) (pkt : Packet), Claims.accepted s ring pkt → pkOpcode pkt = 0x50 → anyRun s.dev = false →
      (par pkt 0 1 ≤ 47 → ls.state ≠ .pairing → lockPort s.dev (par pkt 0 1) = true → ls.got = none →
        areaOk s.dev (par pkt 8 8) (par pkt 0x10 8) = true →
        ∃ t, exec (.lockstepPair ring pkt) s = .next t ∧ Claims.outstanding s t ring pkt ∧
          t.dev.obs.ls = { state := .pairing, port := par pkt 0 1, dbase := par pkt 8 8, dsize := par pkt 0x10 8,
                           pkt := some (freshId s.dev.host), since := s.plat.now } ∧
          t.dev.near = s.dev.near ∧ t.dev.runs = s.dev.runs) ∧
      (par pkt 0 1 = 0xFF → ls.pkt = none →
        ∃ t, exec (.lockstepDissolve ring pkt) s = .next t ∧ Claims.completes s t ring pkt stOk 0 ∧ t.dev.obs.ls = {} ∧
          t = { s with dev := { s.dev with host := t.dev.host, out := t.dev.out, obs := { s.dev.obs with ls := {} } } })) ∧
    (∀ p x l, (portAt s.dev p).req = x :: l → s.plat.alive = true → mgmtSub x = 0x10 → lockPort s.dev p = true → ls.state = .pairing →
      ls.port = p →
      let nid := BitVec.ofNat 64 (leNat (x.payload.take 8))
      let rows := (x.payload.drop 8).take 16
      ∃ t, exec (.lsPair p) s = .next t ∧ (portAt t.dev p).req = l ∧
        t.dev.obs.ls = (if nid = s.dev.fw.nid ∧ rows = rowBytes s.dev.geom then
          { ls with state := .paired, runSeq := 0, pkt := none, got := none } else {}) ∧
        (∀ id y, ls.pkt = some id → s.dev.host.taken.find? (fun u => u.id == id) = some y → (ringAt s.dev (y.ring + 9)).enable = true →
          ∃ ph, HostOut.write (BitVec.ofNat 64 ((ringAt s.dev (y.ring + 9)).base.toNat * 4096 + 32 * (ringAt s.dev (y.ring + 9)).tail))
            (completionBytes y.seq (if nid ≠ s.dev.fw.nid then stNid else if rows ≠ rowBytes s.dev.geom then stGeometry else stOk) y.ring
              0 s.plat.now y.tag ph) ∈ t.dev.out.host) ∧
        t.dev.near = s.dev.near ∧ t.dev.runs = s.dev.runs ∧ t.plat = s.plat) ∧
    (s.plat.alive = true → ls.state = .pairing → ls.since + oneSecond ≤ s.plat.now →
      ∃ t, exec .lsPairTimeout s = .next t ∧ t.dev.obs.ls = {} ∧
        t = { s with dev := { s.dev with host := t.dev.host, out := t.dev.out, obs := { s.dev.obs with ls := {} } } })

/-- R433, R434, R436, R440, R441: FW_STAGE keeps a well-formed, authentic image whose SVN is not below the rollback counter and reports
component and SVN; any other leaves nothing staged. FW_COMMIT WRITE of an acceptable staged image puts it, valid, into the slot that
no unit runs; ACTIVATE of a valid slot makes components 0, 1 and 4 pending, and the units of 2, 3 and 5 run it. The completion of a
commit is the end of a long operation; component 5 activates by SFU_ACTIVATION once no run is in progress. -/
def Obligations.FirmwareIsStagedCommittedAndActivated : Prop :=
  ∀ (s : State),
    let id := freshId s.dev.host
    (∀ (ring : Nat) (pkt : Packet), Claims.accepted s ring pkt →
      (∀ image : List Byte, pkOpcode pkt = 0x60 →
        let h := pkBytes image 0 1024
        let body := pkBytes image 1024 (hdrBodyLen h)
        let ok := hdrWell h && par pkt 8 4 == 1024 + hdrBodyLen h
        let auth := hdrAuthentic s.dev.fw h body
        let new := decide ((compAt s.dev.fw (hdrComponent h)).rb ≤ hdrSvn h)
        ∃ t, exec (.fwStage ring pkt image) s = .next t ∧
          (ok = true → auth = true → new = true → Claims.completes s t ring pkt stOk (hdrComponent h + hdrSvn h * 256)) ∧
          (ok = false → Claims.completes s t ring pkt stBadParam 0) ∧
          (ok = true → auth = false → Claims.completes s t ring pkt stAuth 0) ∧
          (ok = true → auth = true → new = false → Claims.completes s t ring pkt stRollback 0) ∧
          t = { s with dev := { s.dev with
            host := t.dev.host, out := t.dev.out, fw := { s.dev.fw with staged := if ok && auth && new then some (h, body) else none } } }) ∧
      (∀ h body b, pkOpcode pkt = 0x61 → par pkt 0 1 = 0 → par pkt 1 1 = 0 → s.dev.fw.staged = some (h, body) →
        let c := hdrComponent h
        c ≠ 5 → freeSlot s.dev.fw c = some b → targetOk c (par pkt 4 4) = true → revokeForbidden s.dev.fw (hdrRevoke h) = false →
        (compAt s.dev.fw c).rb ≤ hdrSvn h → targetClear s.dev c (par pkt 4 4) = true → hdrWell h = true →
        hdrAuthentic s.dev.fw h body = true →
        ∃ t, exec (.fwCommitWrite ring pkt) s = .next t ∧
          t.dev.host.longOp = some (id, .fwDone stOk (if c = 2 ∨ c = 3 then 1 else 2)) ∧ t.dev.fw.staged = none ∧
          ((compAt t.dev.fw c).slot b).header = h ∧ ((compAt t.dev.fw c).slot b).body = body ∧
          ((compAt t.dev.fw c).slot b).state = .valid ∧
          t.dev.fw.keyRevoked = s.dev.fw.keyRevoked ||| BitVec.ofNat 4 (hdrRevoke h) ∧ t.dev.near = s.dev.near ∧ t.plat = s.plat) ∧
      (∀ b, pkOpcode pkt = 0x61 → par pkt 0 1 = 1 →
        let c := par pkt 1 1
        c ≤ 5 → targetOk c (par pkt 4 4) = true → otherSlot s.dev.fw c (par pkt 4 4) = some b →
        ((compAt s.dev.fw c).slot b).state = .valid → targetClear s.dev c (par pkt 4 4) = true → (c = 5 → anyRun s.dev = false) →
        ∃ t, exec (.fwCommitActivate ring pkt) s = .next t ∧
          t.dev.host.longOp = some (id, .fwDone stOk (if c = 2 ∨ c = 3 ∨ c = 5 then 1 else 2)) ∧
          (c = 0 ∨ c = 1 ∨ c = 4 → ((compAt t.dev.fw c).slot b).pending = true ∧ t.dev.fw.nid = s.dev.fw.nid) ∧
          (c = 2 ∨ c = 3 → ∀ u, (par pkt 4 4).testBit u = true → (compAt t.dev.fw c).runsB u = b) ∧
          (c = 5 → (compAt t.dev.fw 5).runsB 0 = b ∧ t.dev.fw.nid = nidOf t.dev.fw) ∧ t.dev.near = s.dev.near ∧ t.plat = s.plat)) ∧
    (∀ n b w, s.dev.host.longOp = some (n, .fwCommit 5 b w) → s.plat.serving = true → anyRun s.dev = false →
      ∃ t, exec .sfuActivation s = .next t ∧ t.dev.host.longOp = some (n, .fwDone stOk 1) ∧ (compAt t.dev.fw 5).runsB 0 = b ∧
        t.dev.fw.nid = nidOf t.dev.fw ∧ t.dev.near = s.dev.near ∧ t.plat = s.plat ∧ t.pending = s.pending)

/-! ### Host accesses and resets -/

namespace Sys2Proof.Claims

/-- Nothing but the registers of one ring has changed. -/
def onlyRing (s t : State) (r : Nat) : Prop :=
  t = { s with dev := { s.dev with host := { s.dev.host with rings := t.dev.host.rings } } } ∧ ∀ k, k ≠ r → ringAt t.dev k = ringAt s.dev k

/-- A message of a vector goes out now: it owes one, nothing masks it, HOLDOFF has passed, and the function is not in D3hot (R387). -/
def ripe (s : State) (v : Nat) : Prop :=
  (vecAt s.dev v).owed = true ∧ s.dev.host.d3 = false ∧
    ∀ t, (vecAt s.dev v).lastMsg = some t → t + (ringAt s.dev (vectorRing v)).holdoff.toNat * 100 ≤ s.plat.now

/-- An access is held, last of all, with one request in a class for each of its runs, at port 3 of the run's channel (R260). -/
def accessQueued (s t : State) (cls : Nat) (x : NearAcc) (l : List Run2K) : Prop :=
  t.dev.near.accs = s.dev.near.accs ++ [x] ∧ t.dev.near.accSeq = s.dev.near.accSeq + 1 ∧
    ∀ q ∈ l, ∃ r ∈ (chanAt t.dev q.chan).queue cls, r.who = x.who ∧ r.piece q.chan = q ∧ r.off = q.addr - x.addr ∧
      r.arrival = s.plat.mclk ∧ r.port = 3

end Sys2Proof.Claims

/-- R7, R235, R356, R381, R422, Table 16.7a: an aligned write of 8 bytes to PWR_LIMIT leaves the nearest value of 2,000 to 7,500, to
TRACE_MASK its field and to AGE_LIMIT its field or 256, to a stream's NEXT and a cursor word outside runs the data, to HOST_EPOCH the data with the
ELAPSED of the write; an unaligned one, or one to a stream or cursor word during a run, changes nothing; and nothing else changes. -/
def Obligations.RegisterWritesReachOneRegister : Prop :=
  ∀ (s : State) (v : W64), s.plat.alive = true →
    (∃ t, exec (.registerWrite 0x4008 8 v) s = .next t ∧
      t.plat.sup.pwrLimit.toNat = max 2000 (min 7500 (fld v 15 0)) ∧
      t = { s with plat := { s.plat with sup := { s.plat.sup with pwrLimit := t.plat.sup.pwrLimit } } }) ∧
    (exec (.registerWrite 0xE0200 8 v) s =
      .next { s with dev := { s.dev with obs := { s.dev.obs with traceMask := BitVec.ofNat 8 (fld v 7 0) } } }) ∧
    (exec (.registerWrite 0xA2018 8 v) s =
      .next { s with dev := { s.dev with near := { s.dev.near with ageLimit := BitVec.ofNat 16 (max 256 (fld v 15 0)) } } }) ∧
    (exec (.hostEpochWrite 0x2010 8 v) s =
      .next { s with plat := { s.plat with clk := { s.plat.clk with hostEpoch := v, hostEpochAt := s.plat.clk.elapsedReg } } }) ∧
    (∀ c off size, c ∈ [Instr.registerWrite, Instr.rngTableWrite, Instr.oxbCursorWrite, Instr.hostEpochWrite] →
      accessOk off size = false → exec (c off size v) s = .next s) ∧
    (∀ n, n < 4096 →
      (anyRun s.dev = true → ∀ j, j < 4 → exec (.rngTableWrite (0x80000 + 32 * n + 8 * j) 8 v) s = .next s) ∧
      (anyRun s.dev = false → ∃ t, exec (.rngTableWrite (0x80000 + 32 * n + 16) 8 v) s = .next t ∧
        (∀ m, streamAt t.dev m = if m = n then { streamAt s.dev n with next := v } else streamAt s.dev m) ∧
        t = { s with dev := { s.dev with rng := t.dev.rng } })) ∧
    (∀ j, j < 12 →
      (anyRun s.dev = true → exec (.oxbCursorWrite (0xF0100 + 8 * j) 8 v) s = .next s) ∧
      (anyRun s.dev = false → ∃ t, exec (.oxbCursorWrite (0xF0100 + 8 * j) 8 v) s = .next t ∧
        (∀ m, tget 0#64 t.dev.oxb.cursor m = if m = j then v else tget 0#64 s.dev.oxb.cursor m) ∧
        (j = 0 → ∀ n, (streamAt s.dev n).adv = true → tget 0#64 t.dev.oxb.origin n = (streamAt s.dev n).step - v) ∧
        (j ≠ 0 → t.dev.oxb.origin = s.dev.oxb.origin) ∧
        t = { s with dev := { s.dev with oxb := { s.dev.oxb with cursor := t.dev.oxb.cursor, origin := t.dev.oxb.origin } } }))

/-- R387, R377, R402, R403, R422: ELAPSED_READ returns ELAPSED and, with 8 bytes, copies CYCLE into CYCLE_AT; unmasking a vector, the end of
its holdoff and the return to D0 send the message it owes and waited for; an aperture read of mapped addresses joins class LC at the
channels it touches, at port 3, and its answer waits for them; where nothing is mapped it is an Unsupported Request; AtomicOps are
Unsupported Requests. -/
def Obligations.HostReadsAndMessagesAreAnswered : Prop :=
  ∀ (s : State), s.plat.alive = true →
    (exec (.elapsedRead 8) s = .next { s with
      plat := { s.plat with clk := { s.plat.clk with cycleAt := s.plat.clk.cycle } },
      dev := hostOut (.read (natLe 8 s.plat.clk.elapsedReg.toNat)) s.dev }) ∧
    (exec (.elapsedRead 4) s = .next { s with dev := hostOut (.read (natLe 4 s.plat.clk.elapsedReg.toNat)) s.dev }) ∧
    (exec .atomicopRequest s = .next { s with dev := hostOut .unsupportedRequest s.dev }) ∧
    (∀ v, v < 10 → Claims.ripe s v →
      let x := vecAt s.dev v
      let sent (t : State) : Prop := HostOut.msi v x.addr x.data ∈ t.dev.out.host ∧
        vecAt t.dev v = { x with owed := false, pend := false, mask := false, lastMsg := some s.plat.now } ∧
        t = { s with dev := { s.dev with host := { s.dev.host with vec := t.dev.host.vec }, out := { s.dev.out with host := t.dev.out.host } } }
      (s.dev.host.funcMask = false → ∃ t, exec (.vectorUnmask (some v)) s = .next t ∧ sent t) ∧
      (s.dev.host.funcMask = false → x.mask = false → ∃ t, exec (.holdoffExpiry v) s = .next t ∧ sent t)) ∧
    (∀ v, v < 10 → (vecAt s.dev v).owed = true → (vecAt s.dev v).mask = false → (vecAt s.dev v).lastMsg = none →
      (s.dev.host.d3 = false → ∃ t, exec (.vectorUnmask none) s = .next t ∧ t.dev.host.funcMask = false ∧
        HostOut.msi v (vecAt s.dev v).addr (vecAt s.dev v).data ∈ t.dev.out.host) ∧
      (s.dev.host.funcMask = false → ∃ t, exec (.powerStateChange false) s = .next t ∧ t.dev.host.d3 = false ∧
        HostOut.msi v (vecAt s.dev v).addr (vecAt s.dev v).data ∈ t.dev.out.host)) ∧
    (exec (.powerStateChange true) s = .next { s with dev := { s.dev with host := { s.dev.host with d3 := true } } }) ∧
    (∀ off len, s.plat.boot.selfRefresh = false → off + len ≤ 2 ^ 28 →
      let a := aperAddr s.dev off
      (mapped s.dev a len = false → exec (.apertureRead off len) s = .next { s with dev := hostOut .unsupportedRequest (aerUnsupported s.dev) }) ∧
      (∀ l, runsOf s.dev a len = some l →
        ∃ t, exec (.apertureRead off len) s = .next t ∧ t.dev.near.mem = s.dev.near.mem ∧ t.dev.host = s.dev.host ∧ t.plat = s.plat ∧
          (l = [] → t.dev.out.host = s.dev.out.host ++ [.read []]) ∧
          (l ≠ [] → t.dev.out.host = s.dev.out.host ∧
            Claims.accessQueued s t 1 { who := .host s.dev.near.accSeq, kind := .read, addr := a, len := len, left := l.length } l)))

/-- R384, R385, R389, R408: a TAIL_DOORBELL within range of an enabled submission ring moves TAIL, and packets that come with it are
completed only where R389 refuses them; a HEAD_DOORBELL within range of an enabled completion or event ring moves HEAD; out of range, or
on a disabled ring, either sets BAD_DB. RING_ENABLE of a disabled ring enables it with HEAD, TAIL and reservations zero and PHASE 1, its
LOG2N taken from the write when it is 6 to 16, else 6, where the event ring then tells of events it lost; RING_DISABLE of an enabled
ring disables it, and with a completion ring no packet of its submission ring is outstanding any more. Nothing else changes. -/
def Obligations.DoorbellsAndRings : Prop :=
  (∀ (s : State) (ring value : Nat) (refused : List Packet), s.plat.alive = true → ring ≤ 8 → (ringAt s.dev ring).enable = true →
    value < (ringAt s.dev ring).size →
    ∃ t, exec (.tailDoorbell ring value refused) s = .next t ∧ (ringAt t.dev ring).tail = value ∧ Claims.onlyHost s t ∧
      (refused = [] → Claims.onlyRing s t ring ∧ ringAt t.dev ring = { ringAt s.dev ring with tail := value }) ∧
      (∀ pkt, refused.head? = some pkt → takeChecks s.dev ring pkt = none →
        Claims.onlyRing s t ring ∧ ringAt t.dev ring = { ringAt s.dev ring with tail := value })) ∧
  (∀ (s : State) (ring value : Nat), s.plat.alive = true → 9 ≤ ring → ring ≤ 18 → (ringAt s.dev ring).enable = true →
    value < (ringAt s.dev ring).size →
    ∃ t, exec (.headDoorbell ring value) s = .next t ∧ (ringAt t.dev ring).head = value ∧ Claims.onlyHost s t ∧
      (ring < 18 ∨ s.dev.host.dropped = 0 →
        Claims.onlyRing s t ring ∧ ringAt t.dev ring = { ringAt s.dev ring with head := value })) ∧
  (∀ (s : State) (ring value : Nat) (refused : List Packet), s.plat.alive = true →
    (ringAt s.dev ring).enable = false ∨ (ringAt s.dev ring).size ≤ value →
    (ring ≤ 8 → ∃ t, exec (.tailDoorbell ring value refused) s = .next t ∧ Claims.onlyRing s t ring ∧
      ringAt t.dev ring = { ringAt s.dev ring with badDb := true, badDbAt := s.plat.cclk + 1 }) ∧
    (9 ≤ ring → ring ≤ 18 → ∃ t, exec (.headDoorbell ring value) s = .next t ∧ Claims.onlyRing s t ring ∧
      ringAt t.dev ring = { ringAt s.dev ring with badDb := true, badDbAt := s.plat.cclk + 1 })) ∧
  (∀ (s : State) (ring : Nat) (ctl : W64), s.plat.alive = true → ring ≤ 18 → (ringAt s.dev ring).enable = false → bit ctl 0 = true →
    ∃ t, exec (.ringEnable ring ctl) s = .next t ∧ Claims.onlyHost s t ∧ (ringAt t.dev ring).enable = true ∧
      (ringAt t.dev ring).head = 0 ∧ (ringAt t.dev ring).phase = true ∧ (ringAt t.dev ring).reserved = 0 ∧
      (ringAt t.dev ring).base = (ringAt s.dev ring).base ∧ (ringAt t.dev ring).intEn = bit ctl 1 ∧
      (ringAt t.dev ring).holdoff = BitVec.ofNat 8 (fld ctl 23 16) ∧
      (ringAt t.dev ring).log2n = (if 6 ≤ fld ctl 12 8 ∧ fld ctl 12 8 ≤ 16 then fld ctl 12 8 else 6) ∧
      (ring < 18 ∨ s.dev.host.dropped = 0 → Claims.onlyRing s t ring ∧ (ringAt t.dev ring).tail = 0) ∧
      (ring = 18 → s.dev.host.dropped ≠ 0 → t.dev.host.dropped = 0 ∧ (ringAt t.dev ring).tail = 1)) ∧
  (∀ (s : State) (ring : Nat) (ctl : W64), s.plat.alive = true → ring ≤ 18 → (ringAt s.dev ring).enable = true → bit ctl 0 = false →
    ∃ t, exec (.ringDisable ring ctl) s = .next t ∧ (ringAt t.dev ring).enable = false ∧
      (ringAt t.dev ring).log2n = (ringAt s.dev ring).log2n ∧ (ringAt t.dev ring).reserved = 0 ∧
      (∀ k, k ≠ ring → ringAt t.dev k = ringAt s.dev k) ∧
      (ring ≤ 8 ∨ ring = 18 → t.dev.host.taken = s.dev.host.taken) ∧
      (9 ≤ ring → ring < 18 → ∀ u, u ∈ t.dev.host.taken ↔ u ∈ s.dev.host.taken ∧ u.ring ≠ ring - 9) ∧
      t = { s with dev := { s.dev with host := { s.dev.host with rings := t.dev.host.rings, taken := t.dev.host.taken } } })

namespace Sys2Proof.Claims

/-- The DOE mailbox sent one message, and nothing but the negotiation, the count of free values and that message has changed. -/
def doeSent (s t : State) (m : List Byte) : Prop :=
  t.dev.out.doe = s.dev.out.doe ++ [m] ∧
    t = { s with dev := { s.dev with spdm := t.dev.spdm, freeCtr := t.dev.freeCtr, out := { s.dev.out with doe := t.dev.out.doe } } }

end Sys2Proof.Claims

/-- R260, R402, R405, R457: an aperture write to mapped memory joins class NORMAL at the channels it touches, at port 3, with its bytes,
which they store when they serve it; one outside every region is discarded and recorded; a failed fetch disables its ring and sets DMA_ERR; a failed read of a MOVE gives it BAD_PARAM as its end; the host link
leaves Detect for L0 once PERST# is high and no reset holds it. -/
def Obligations.ApertureWritesAndHostFailures : Prop :=
  ∀ (s : State), s.plat.alive = true →
    (∀ off data, s.plat.boot.selfRefresh = false → off + data.length ≤ 2 ^ 28 →
      (mapped s.dev (aperAddr s.dev off) data.length = false →
        exec (.apertureWrite off data) s = .next { s with dev := aerUnsupported s.dev }) ∧
      (∀ l, runsOf s.dev (aperAddr s.dev off) data.length = some l →
        ∃ t, exec (.apertureWrite off data) s = .next t ∧ t.dev.near.mem = s.dev.near.mem ∧ t.dev.host = s.dev.host ∧
          t.dev.tiles = s.dev.tiles ∧ t.dev.near.regions = s.dev.near.regions ∧ t.dev.out = s.dev.out ∧ t.plat = s.plat ∧
          (l ≠ [] → Claims.accessQueued s t 2 { who := .host s.dev.near.accSeq, kind := .write, addr := aperAddr s.dev off,
                                                len := data.length, data := data, left := l.length } l))) ∧
    (∀ ring addr, ring ≤ 8 → (ringAt s.dev ring).enable = true →
      ∃ t, exec (.hostReadFailed (.fetch ring addr)) s = .next t ∧
        ringAt t.dev ring = { ringAt s.dev ring with enable := false, dmaErr := true, dmaErrAt := s.plat.cclk + 1 } ∧
        t = { s with dev := { s.dev with host := t.dev.host, out := t.dev.out } }) ∧
    (∀ h i addr r, Claims.runs s h i r (fun w => dKind w == 3 && mvSrcSp w == 2) →
      ∃ t y, exec (.hostReadFailed (.move h i addr)) s = .next t ∧ taskOf t.dev h i = some y ∧ y.st = .running ∧
        y.work.fate = some ((taskAt r i).work.fate.getD (stBadParam, 0)) ∧
        t = { s with dev := { s.dev with host := t.dev.host, out := t.dev.out, runs := t.dev.runs } }) ∧
    (s.plat.boot.link = .detect → s.plat.boot.perst = false → linkHeld s.dev = false →
      exec .hostLinkTrained s = .next { s with
        plat := { s.plat with boot := { s.plat.boot with link := .trained } }, dev := hostOut (.linkState true) s.dev })

/-- R397, R457, R458, Table 15.11: a function-level reset with no long operation under way disables every ring, forgets the agreed version,
vectors and packets, ends the pairing and the DOE negotiation, aborts in silence every run whose last task has not ended, unloads every
graph without one, and keeps memory and region tables; while a MEM_RETRAIN is still training it waits (R287). PERST# in stage 5 also clears the region tables, the Oxbow policy and the attachments, and the link
goes down; before stage 5 only the pin changes. PERST# deasserted opens the way to Detect. -/
def Obligations.ResetsLeaveTheHostInterfaceClear : Prop :=
  ∀ (s : State),
    let clear (t : State) : Prop := t.dev.host.rings = [] ∧ t.dev.host.vec = [] ∧ t.dev.host.yenelVer = 0 ∧ t.dev.host.funcMask = false ∧
      t.dev.host.d3 = false ∧ t.dev.host.aperBase = 0 ∧ t.dev.host.taken = [] ∧ t.dev.host.longOp = none ∧ t.dev.spdm = {} ∧
      t.dev.obs.ls = {} ∧ t.dev.fw.staged = none ∧ (∀ r ∈ t.dev.runs, r.started = true ∧ r.silent = true) ∧
      (∀ h r, runOf t.dev h = some r → r.aborted = true ∨ runOver (graphAt t.dev h) r = true) ∧
      (∀ h, (∀ r ∈ t.dev.runs, r.handle ≠ h) → graphAt t.dev h = {})
    (s.plat.alive = true → s.dev.host.longOp = none →
      ∃ t, exec .functionLevelReset s = .next t ∧ clear t ∧ t.dev.near.regions = s.dev.near.regions ∧
        (anyRun s.dev = false → t.dev.near = s.dev.near) ∧ t.dev.links.far = s.dev.links.far ∧
        t.plat = s.plat ∧ t.pending = s.pending) ∧
    (∀ id l, s.plat.alive = true → s.dev.host.longOp = some (id, .memRetrain l) → (∃ g ∈ l, (chanAt s.dev g).retraining ≠ none) →
      exec .functionLevelReset s = .next { s with dev := { s.dev with host := { s.dev.host with flrWait := true } } }) ∧
    (s.plat.alive = true → s.plat.boot.perst = false → s.plat.boot.stage = 5#8 → s.dev.host.longOp = none →
      ∃ t, exec .perstAssert s = .next t ∧ clear t ∧ t.dev.near.regions = [] ∧
        (anyRun s.dev = false → t.dev.near.mem = s.dev.near.mem) ∧ t.dev.links.far = [] ∧
        t.dev.oxb.policy = none ∧ (∀ p, p < 48 → (portAt t.dev p).state ≠ .attached) ∧
        t.plat = { s.plat with boot := { s.plat.boot with perst := true, link := .down } }) ∧
    (s.plat.boot.perst = false → s.plat.boot.stage ≠ 5#8 →
      exec .perstAssert s = .next { s with plat := { s.plat with boot := { s.plat.boot with perst := true } } }) ∧
    (s.plat.alive = true → s.plat.boot.perst = true → s.plat.sup.state ≠ .powerFailed →
      exec .perstDeassert s = .next { s with plat := { s.plat with boot := { s.plat.boot with
        perst := false, link := if s.plat.boot.stage = 5#8 then .detect else s.plat.boot.link } } }) ∧
    (s.plat.alive = true → s.plat.boot.perst = true → s.plat.sup.state = .powerFailed → 40000 ≤ s.plat.sup.vin.toNat →
      ∃ t, exec .perstDeassert s = .next t ∧ t.plat.sup.state = .normal ∧ t.plat.boot.selfRefresh = false ∧ t.plat.boot.perst = false ∧
        t.dev = s.dev)

/-- R445, R446, R447: once the host link is up the DOE mailbox answers each SPDM request with one message: GET_VERSION begins a negotiation
that GET_CAPABILITIES and NEGOTIATE_ALGORITHMS carry on in that order; digests, certificate portions, challenges and measurements
come after it; out of order the answer is UnexpectedRequest, in a test state a request for a signature gets Unspecified, and any
other request UnsupportedRequest with its code. -/
def Obligations.DoeAnswersSpdmRequests : Prop :=
  ∀ (s : State), doeUp s.plat = true →
    let n := s.dev.spdm
    let err (c : Instr) (e data : Nat) : Prop :=
      ∃ t, exec c s = .next t ∧ Claims.doeSent s t (spdmMsg 0x7F e data []) ∧ t.dev.spdm = n
    (∃ t, exec .spdmGetVersion s = .next t ∧ Claims.doeSent s t ([0x10#8, 0x04#8, 0#8, 0#8, 0#8, 1#8] ++ natLe 2 0x1200) ∧
      t.dev.spdm.version = true ∧ t.dev.spdm.caps = false ∧ t.dev.spdm.algs = false) ∧
    (∀ req,
      (n.version = true → ∃ t, exec (.spdmGetCapabilities req) s = .next t ∧
        Claims.doeSent s t (spdmMsg 0x61 0 0 (Config.spdmBody 0)) ∧ t.dev.spdm.caps = true ∧ t.dev.spdm.algs = n.algs) ∧
      (n.version = false → err (.spdmGetCapabilities req) 4 0) ∧
      (n.caps = true → ∃ t, exec (.spdmNegotiateAlgorithms req) s = .next t ∧
        Claims.doeSent s t (spdmMsg 0x63 0 0 (Config.spdmBody 1)) ∧ t.dev.spdm.algs = true ∧ t.dev.spdm.caps = true) ∧
      (n.caps = false → err (.spdmNegotiateAlgorithms req) 4 0)) ∧
    (n.algs = true →
      (∃ t, exec .spdmGetDigests s = .next t ∧
        Claims.doeSent s t (spdmMsg 0x01 0 1 (natLe 32 (Config.sha256 Config.ownChain).toNat))) ∧
      (∀ off len, off < Config.ownChain.length →
        let part := (Config.ownChain.drop off).take len
        ∃ t, exec (.spdmGetCertificate 0 off len) s = .next t ∧ Claims.doeSent s t (spdmMsg 0x02 0 0
          (natLe 2 part.length ++ natLe 2 (Config.ownChain.length - off - part.length) ++ part))) ∧
      (∀ req, s.plat.boot.testMode = false →
        ∃ t m, exec (.spdmChallenge 0 req) s = .next t ∧ Claims.doeSent s t m ∧ m.take 4 = [0x12#8, 0x03#8, 0#8, 1#8] ∧
          (m.drop 4).take 32 = natLe 32 (Config.sha256 Config.ownChain).toNat) ∧
      (∀ req, s.plat.boot.testMode = true → err (.spdmChallenge 0 req) 5 0) ∧
      (∀ req signed i, i ≤ 10 → (signed = true → s.plat.boot.testMode = false) →
        ∃ t m, exec (.getMeasurements signed i req) s = .next t ∧ Claims.doeSent s t m ∧
          m.take 4 = [0x12#8, 0x60#8, if i = 0 then 10#8 else 0#8, 0#8] ∧
          (i ≠ 0 → (m.drop 4).take 1 = [1#8] ∧ ((m.drop 8).take (measBlock s.plat s.dev i).length) = measBlock s.plat s.dev i)) ∧
      (∀ req i, s.plat.boot.testMode = true → err (.getMeasurements true i req) 5 0)) ∧
    (n.algs = false → err .spdmGetDigests 4 0 ∧ (∀ off len, err (.spdmGetCertificate 0 off len) 4 0) ∧
      ∀ req, err (.spdmChallenge 0 req) 4 0 ∧ ∀ signed i, err (.getMeasurements signed i req) 4 0) ∧
    ∀ code : Byte, err (.spdmUnsupportedRequest code) 7 code.toNat

/-! ### The channel controllers -/

namespace Sys2Proof.Claims

/-- The request queues of a channel in the order of their classes: URGENT, LC, NORMAL, BULK. -/
def classes (c : Chan) : List (List ChanReq) := [c.urgent, c.lc, c.normal, c.bulk]

/-- The request may start: it arrived in an earlier MCLK cycle, its bank is available, and no earlier access of its requester to some of its
bytes waits (R257, R262, R281). -/
def mayStart (s : State) (c : Chan) (r : ChanReq) : Prop :=
  r.arrival < s.plat.mclk ∧ (∀ b ∈ c.bankBusy, b.1 ≠ (bankRow r.choff).1) ∧
    ∀ x ∈ c.urgent ++ c.lc ++ c.normal ++ c.bulk, x.who.same r.who = true → x.seq < r.seq → x.choff < r.choff + r.len →
      x.choff + x.len ≤ r.choff

/-- r is the request R260 starts: in its class it is the first that may start, and no higher class has one that may. -/
def isNext (s : State) (c : Chan) (cls : Nat) (r : ChanReq) (before after : List ChanReq) : Prop :=
  cls < 4 ∧ (classes c).getD cls [] = before ++ r :: after ∧ mayStart s c r ∧ (∀ q ∈ before, ¬ mayStart s c q) ∧
    ∀ j, j < cls → ∀ q ∈ (classes c).getD j [], ¬ mayStart s c q

/-- The channel is free to start a request and r is the one: no retrain, no refresh window, DRAM running, and outside segments of a
Still-mode run or in their untimed slot (R260, R263, R274, R276). -/
def starts (s : State) (g cls : Nat) (r : ChanReq) (before after : List ChanReq) : Prop :=
  s.plat.alive = true ∧ (chanAt s.dev g).retraining = none ∧ inRefresh s.plat (chanAt s.dev g) = false ∧
    s.plat.boot.selfRefresh = false ∧ untimedSlot s.plat s.dev = true ∧ isNext s (chanAt s.dev g) cls r before after

/-- A write of a request reaches the DRAM: its channel is in service, its page is not retired. -/
def writable (s : State) (g : Nat) (r : ChanReq) : Prop :=
  chanState s.dev g = .inService ∧ (chanAt s.dev g).retired.contains (r.choff / 65536) = false

/-- Nothing but one channel controller has changed. -/
def onlyChan (s t : State) (g : Nat) : Prop :=
  t = { s with dev := { s.dev with near := { s.dev.near with chans := t.dev.near.chans } } } ∧ otherChans s t g

end Sys2Proof.Claims

/-- R257, R260, R261, R263, R266, R402: a free channel, outside segments of a Still-mode run or in their untimed slot, starts the first
request of the highest class that has one which may start: it leaves its queue, and its run is served, a LOAD's bytes reaching SRAM, a
STORE's and an aperture write's the channel; one whose transfer is gone, or with more of its task's requests behind it, only leaves; with
the last run of an aperture read the host gets its bytes, poison where a beat was uncorrectable. The request that alone has waited longest beyond AGE_LIMIT joins the end of
URGENT and counts in TDC_NEAR, but not during a Still-mode run. -/
def Obligations.ChannelsServeTheirQueues : Prop :=
  ∀ (s : State) (g : Nat), s.plat.alive = true →
    let c := chanAt s.dev g
    (∀ cls r before after, Claims.starts s g cls r before after →
      let d := modChan g (unqueue cls r) s.dev
      let left (t : State) : Prop := Claims.classes (chanAt t.dev g) = (Claims.classes c).set cls (before ++ after)
      let bytes := readBytes s.dev.near.mem (chanKey g r.choff) r.len
      exec (.channelRequestStart g) s = .next { s with dev := serveReq s.plat g r d } ∧
      (∀ k n, r.who = .tile k n → (tileAt s.dev k).dma.find? (fun x => x.id == n) = none →
        ∃ t, exec (.channelRequestStart g) s = .next t ∧ Claims.onlyChan s t g ∧ left t) ∧
      (∀ h i w, r.who = .task h i w → waits d r.who = true →
        ∃ t, exec (.channelRequestStart g) s = .next t ∧ Claims.onlyChan s t g ∧ left t) ∧
      (∀ k n x, r.who = .tile k n → (tileAt s.dev k).dma.find? (fun x => x.id == n) = some x →
        (x.dir = 0 → badOf s.dev (r.piece g) = [] → (tileAt s.dev k).badWrite (x.laddr + r.off) r.len = false →
          ∃ t, exec (.channelRequestStart g) s = .next t ∧
            Claims.storedAt (tileAt s.dev k).sram (tileAt t.dev k).sram (x.laddr + r.off) bytes ∧
            (tileAt t.dev k).dma = (tileAt s.dev k).dma.map (fun y => if y.id = x.id then { y with left := y.left - 1 } else y) ∧
            (∀ j, j ≠ k → tileAt t.dev j = tileAt s.dev j) ∧ t.dev.near.mem = s.dev.near.mem ∧ t.dev.host = s.dev.host ∧ left t) ∧
        (x.dir = 1 → Claims.writable s g r →
          ∃ t, exec (.channelRequestStart g) s = .next t ∧
            Claims.storedAt s.dev.near.mem t.dev.near.mem (chanKey g r.choff) ((x.data.drop r.off).take r.len) ∧
            (tileAt t.dev k).dma = (tileAt s.dev k).dma.map (fun y => if y.id = x.id then { y with left := y.left - 1 } else y) ∧
            (∀ j, j ≠ k → tileAt t.dev j = tileAt s.dev j) ∧ t.dev.host = s.dev.host ∧ left t)) ∧
      (∀ n a, r.who = .host n → s.dev.near.accs.find? (fun a => a.who == r.who) = some a →
        (a.kind = .write → Claims.writable s g r →
          ∃ t, exec (.channelRequestStart g) s = .next t ∧
            Claims.storedAt s.dev.near.mem t.dev.near.mem (chanKey g r.choff) ((a.data.drop r.off).take r.len) ∧
            t.dev.tiles = s.dev.tiles ∧ t.dev.host = s.dev.host ∧ t.dev.out = s.dev.out ∧ left t) ∧
        (a.kind = .read → a.bad = [] → badOf s.dev (r.piece g) = [] →
          ∃ t, exec (.channelRequestStart g) s = .next t ∧
            t.dev.out.host = s.dev.out.host ++
              (if a.left ≤ 1 then [.read ((tins a.got r.off bytes).flatMap (·.2))] else []) ∧
            t.dev.near.mem = s.dev.near.mem ∧ t.dev.tiles = s.dev.tiles ∧ t.dev.host = s.dev.host ∧ left t) ∧
        (a.kind = .read → a.left ≤ 1 → a.bad ≠ [] ∨ badOf s.dev (r.piece g) ≠ [] →
          ∃ t, exec (.channelRequestStart g) s = .next t ∧ HostOut.poisoned a.len ∈ t.dev.out.host ∧
            t.dev.host.aerPoison = s.dev.host.aerPoison + 1 ∧ t.dev.near.mem = s.dev.near.mem))) ∧
    (∀ r ∈ c.lc ++ c.normal ++ c.bulk, r.arrival + s.dev.near.ageLimit.toNat < s.plat.mclk →
      (∀ q ∈ c.lc ++ c.normal ++ c.bulk, q ≠ r → r.arrival < q.arrival) →
      ∃ t, exec (.agePromotion g) s = .next t ∧
        chanAt t.dev g = { c with lc := c.lc.erase r, normal := c.normal.erase r, bulk := c.bulk.erase r, urgent := c.urgent ++ [r] } ∧
        Claims.otherChans s t g ∧
        t.dev.obs.tdcNear = (if stillRunning s.dev then s.dev.obs.tdcNear else satAdd 64 s.dev.obs.tdcNear 1) ∧
        t.dev.near.mem = s.dev.near.mem ∧ t.dev.tiles = s.dev.tiles ∧ t.dev.host = s.dev.host ∧ t.plat = s.plat ∧ t.pending = s.pending)

/-- R274, R275, R276, R279, R280, R281: a refresh due in Flow mode opens a window and, on a channel without a marked beat, scrub goes on by 2
granules; with 1,024 corrected errors of a lane the channel retrains, or is marked during a Still-mode run, and with fewer nothing happens; a
hard lane failure retrains it at once and pauses Still-mode runs; a retrain that steers at most 4 lanes ends with the channel in service
and its error counts zero, one that would steer more, or fails in another step, fails it, and with the last forced one every pause ends;
4 µs after its start a remap is over and the bank is available. -/
def Obligations.ChannelsRefreshRetrainAndRemap : Prop :=
  ∀ (s : State) (g : Nat), s.plat.alive = true →
    let c := chanAt s.dev g
    let hot := s.plat.therm.hotDram.toNat.testBit (g / 32)
    (s.plat.boot.selfRefresh = false → g ≤ 1023 → c.retraining = none → inRefresh s.plat c = false → stillRun s.dev = none →
      c.lastRefresh + (if hot then 195 else 390) ≤ s.plat.now → c.ce = [] → c.poison = [] → inService s.dev g = true →
      ∃ t, exec (.refreshDue g) s = .next t ∧ Claims.onlyChan s t g ∧
        chanAt t.dev g = (if c.scrubPos + 2 ≥ 2 ^ 19 then
          { c with lastRefresh := s.plat.now, refreshCyc := s.plat.cyc, scrubPos := 0, scrubMark := c.scrubNow, scrubNow := [] }
        else { c with lastRefresh := s.plat.now, refreshCyc := s.plat.cyc, scrubPos := c.scrubPos + 2 }) ∧
        (s.plat.cyc ≠ 0 → exec (.channelRequestStart g) t = .next t)) ∧
    (∀ lane, g ≤ 1023 → inService s.dev g = true → c.retraining = none →
      (lane ≤ 575 → c.retrainPend = false → 1024 ≤ tget 0 c.laneErr lane →
        ∃ t, exec (.autoRetrain g lane) s = .next t ∧
          chanAt t.dev g = (if stillRunning s.dev then { c with retrainPend := true } else { c with retraining := some .auto }) ∧
          Claims.otherChans s t g ∧ t.dev.runs = s.dev.runs ∧
          t.dev.tiles = s.dev.tiles ∧ t.dev.host = s.dev.host ∧ t.dev.near.mem = s.dev.near.mem) ∧
      (lane ≤ 575 → tget 0 c.laneErr lane < 1024 → exec (.autoRetrain g lane) s = .next s) ∧
      (lane ≤ 579 →
        ∃ t, exec (.hardLaneFailure g lane) s = .next t ∧ chanAt t.dev g = { c with retraining := some .hard } ∧ Claims.otherChans s t g ∧
          t.dev.runs = s.dev.runs.map (fun r =>
            if r.started && (graphAt s.dev r.handle).still && r.pausedAt.isNone then { r with pausedAt := some s.plat.cyc } else r) ∧
          t.dev.tiles = s.dev.tiles ∧ t.dev.host = s.dev.host ∧ t.dev.near.mem = s.dev.near.mem)) ∧
    (∀ why res, c.retraining = some why → why ≠ .powerUp → s.dev.host.flrWait = false →
      ∃ t, exec (.channelRetrainDone g res) s = .next t ∧ Claims.otherChans s t g ∧ t.dev.near.mem = s.dev.near.mem ∧
        (∀ bad, res = .passed bad → (steered c bad).length ≤ 4 → chanAt t.dev g =
          { c with retraining := none, laneErr := [], retrainPend := false, spares := steered c bad } ∧ t.dev.host = s.dev.host) ∧
        (res = .failed ∨ (∃ bad, res = .passed bad ∧ 4 < (steered c bad).length) → chanAt t.dev g =
          { c with retraining := none, laneErr := [], retrainPend := false, state := .failed }) ∧
        ((∀ e ∈ t.dev.near.chans, e.2.retraining ≠ some .hard) → ∀ r ∈ t.dev.runs, r.pausedAt = none)) ∧
    (∀ bank, ∃ t, exec (.rowRemapDone g bank) s = .next t ∧ Claims.onlyChan s t g ∧
      chanAt t.dev g = { c with bankBusy := c.bankBusy.filter (fun b => b.1 != bank || decide (s.plat.now < b.2.2 + 400)) })

/-! ### Ports and flits -/

namespace Sys2Proof.Claims

/-- Nothing but one port has changed. -/
def onlyPort (s t : State) (p : Nat) : Prop :=
  t = { s with dev := { s.dev with links := { s.dev.links with ports := t.dev.links.ports } } } ∧ ∀ q, q ≠ p → portAt t.dev q = portAt s.dev q

/-- Nothing but one port, and the flits that have gone out, has changed. -/
def onlyPortAndFlits (s t : State) (p : Nat) : Prop :=
  t = { s with dev := { s.dev with
    links := { s.dev.links with ports := t.dev.links.ports }, out := { s.dev.out with flits := t.dev.out.flits } } } ∧
  ∀ q, q ≠ p → portAt t.dev q = portAt s.dev q

/-- A port that has lost its link, FAILED or DARK: of the old one the light and the counts stay (R300, Table 12.4). -/
def lostPort (x : Port) (failed : Bool) (now : Nat) : Port :=
  { state := if failed then .failed else .dark, lightIn := x.lightIn, lightRx := x.lightRx, fecCor := x.fecCor, replays := x.replays,
    retrains := x.retrains, since := now }

/-- A port that begins to train (Table 12.5). -/
def trainingPort (x : Port) (now : Nat) : Port :=
  { state := .training, lightIn := true, lightRx := true, msgAckAt := x.msgAckAt, fecCor := x.fecCor, replays := x.replays,
    retrains := x.retrains, owed := [4096, 4096, 65536, 65536], since := now, helloSent := ownHello, txReq := [mgmtTxn 0x01 ownHello] }

/-- The port is in a state that has a link to lose. -/
def hasLink (x : Port) : Prop := x.state ≠ .dark ∧ x.state ≠ .failed

/-- The port has become y; memory, regions, tiles, graphs and the platform are as before. -/
def linkGone (s t : State) (p : Nat) (y : Port) : Prop :=
  portAt t.dev p = y ∧ t.dev.near.mem = s.dev.near.mem ∧ t.dev.near.regions = s.dev.near.regions ∧ t.dev.tiles = s.dev.tiles ∧
    t.dev.graphs = s.dev.graphs ∧ t.plat = s.plat ∧ t.pending = s.pending

/-- The port retrains in service: its stream and replay buffer are kept (R300). -/
def retrainingPort (x : Port) (now : Nat) : Port :=
  { x with retraining := true, helloWait := false, since := now, retrains := satAdd 16 x.retrains 1, helloGot := [], uncorr := [],
           replayRun := 0 }

/-- Nothing waits to be sent on the port. -/
def nothingWaits (x : Port) : Prop := x.txFlits = [] ∧ x.txReq = [] ∧ x.txRsp = [] ∧ x.txMsg = [] ∧ x.txColl = []

/-- The flits of a replay buffer go out again, in order, each with its SEQ, data and credits (R299, R301). -/
def resent (s t : State) (p : Nat) (x : Port) : Prop :=
  ∃ l, t.dev.out.flits = s.dev.out.flits ++ l ∧ l.length = x.replayBuf.length ∧
    ∀ i, i < l.length →
      let f := x.replayBuf.getD i { seq := 0, data := [], sent := 0, last := false }
      l.getD i (0, []) = (p, flitBytes 1 f.seq x.lastGood false f.cred.1 f.cred.2 f.data)

/-- How many codewords FEC has corrected, of those with these numbers of symbol errors (R295). -/
def corrected (errs : List Nat) : Nat := (errs.filter (fun e => decide (0 < e) && decide (e ≤ 15))).length

end Sys2Proof.Claims

/-- R290, R293, R294, R296, R297, R300, R309, R310: a powered port that is DARK shows the light it sees and, with laser input and receive
light, trains; steps 1 to 6 passed, a lane below margin is mapped out and the partner's HELLO decides version and profile and the port is
UP or INCOMPATIBLE; two lanes below margin, a failed or late training, loss of light or of the laser input, and a late retrain lose the
link; 100 ms after FAILED the port trains again with light and is DARK without. -/
def Obligations.PortsTrainAndLoseTheirLink : Prop :=
  ∀ (s : State) (p : Nat), s.plat.alive = true →
    let x := portAt s.dev p
    let now := s.plat.now
    let powered := s.plat.boot.engOn.toNat.testBit (p / 4) = true ∧ s.plat.therm.offOut.toNat.testBit (p / 4) = false
    let gone (c : Instr) (y : Port) : Prop := ∃ t, exec c s = .next t ∧ Claims.linkGone s t p y
    let dark := Claims.lostPort x false now
    let failed := Claims.lostPort x true now
    (x.state = .dark → powered → ∀ laser rx,
      ∃ t, exec (.lightDetect ⟨p, laser, rx⟩) s = .next t ∧ Claims.onlyPort s t p ∧
        portAt t.dev p = if laser && rx then Claims.trainingPort x now else { x with lightIn := laser, lightRx := rx }) ∧
    (x.state = .training →
      gone (.portTrainingDone p .noLaser) { dark with lightIn := false } ∧ gone (.portTrainingDone p .noLight) { dark with lightRx := false } ∧
      gone (.portTrainingDone p .failed) failed ∧
      (x.since + 2000000 ≤ now → gone (.trainingTimeout p) failed) ∧
      ∀ low tx,
        (laneMap low = none → gone (.portTrainingDone p (.passed low tx)) failed) ∧
        (∀ rx, laneMap low = some rx → x.helloGot = [] →
          ∃ t, exec (.portTrainingDone p (.passed low tx)) s = .next t ∧ Claims.onlyPort s t p ∧
            portAt t.dev p = { x with rxSpare := rx, txSpare := tx, helloWait := true }) ∧
        (∀ rx, laneMap low = some rx → x.helloGot ≠ [] →
          let h := x.helloGot
          let b (i : Nat) : Nat := (h.getD i 0#8).toNat
          let profile := if (h.drop 16).take 32 = natLe 32 Config.ownId.toNat then 3 else if b 2 = 1 ∨ b 2 = 2 then b 2 else 0
          let fits := decide (b 0 ≤ min 2 (b 1)) && profile != 0
          ∃ t, exec (.portTrainingDone p (.passed low tx)) s = .next t ∧
            (portAt t.dev p).state = (if fits then .up else .incompatible) ∧
            (portAt t.dev p).version = (if fits then some (min 2 (b 1)) else none) ∧ (portAt t.dev p).profile = profile ∧
            (portAt t.dev p).partner = (h.drop 16).take 32 ∧ (portAt t.dev p).rxSpare = rx ∧ (portAt t.dev p).txSpare = tx ∧
            (∀ q, q ≠ p → portAt t.dev q = portAt s.dev q) ∧
            t = { s with dev := { s.dev with
              host := t.dev.host, out := t.dev.out, links := { s.dev.links with ports := t.dev.links.ports } } })) ∧
    (x.state = .failed → x.since + 10000000 ≤ now → s.plat.therm.offOut.toNat.testBit (p / 4) = false →
      ∀ light, ∃ t, exec (.failedRetryTimer p light) s = .next t ∧ Claims.onlyPort s t p ∧
        portAt t.dev p = if light then Claims.trainingPort x now else { x with state := .dark, lightRx := false }) ∧
    (Claims.hasLink x → gone (.lightLoss p) { dark with lightRx := false }) ∧
    (Claims.hasLink x → x.retraining = true → x.since + 1000000 ≤ now → gone (.retrainTimeout p) failed) ∧
    (p < 48 → (Claims.hasLink x → gone (.laserInputLow p) { dark with lightIn := false }) ∧
      (¬ Claims.hasLink x → gone (.laserInputLow p) { x with lightIn := false, state := .dark }))

/-- R297, R300: a lane in use that loses lock starts a retrain in service that keeps stream and replay buffer, the idle lane or one that is
mapped out does not; a retrain that fails, or needs a second spare in a direction, loses the link; one that passes waits with its own HELLO for the partner's, and with it an UP port whose
partner still fits goes on. -/
def Obligations.PortsRetrainInService : Prop :=
  ∀ (s : State) (p : Nat), s.plat.alive = true →
    let x := portAt s.dev p
    (∀ lane, laneInUse x.rxSpare lane = false → exec (.laneLockLoss p lane) s = .next s) ∧
    (∀ lane, laneInUse x.rxSpare lane = true → x.retraining = false → x.state = .up ∨ x.state = .attached ∨ x.state = .incompatible →
      ∃ t, exec (.laneLockLoss p lane) s = .next t ∧ portAt t.dev p = Claims.retrainingPort x s.plat.now ∧
        (∀ q, q ≠ p → portAt t.dev q = portAt s.dev q) ∧
        t = { s with dev := { s.dev with links := { s.dev.links with ports := t.dev.links.ports },
                                         obs := { s.dev.obs with trace := t.dev.obs.trace } } }) ∧
    (x.retraining = true → x.helloWait = false → Claims.hasLink x →
      let gone (res : TrainResult) (y : Port) : Prop := ∃ t, exec (.portRetrainDone p res) s = .next t ∧ Claims.linkGone s t p y
      let dark := Claims.lostPort x false s.plat.now
      let failed := Claims.lostPort x true s.plat.now
      gone .noLaser { dark with lightIn := false } ∧ gone .noLight { dark with lightRx := false } ∧ gone .failed failed ∧
      (∀ low tx, laneMap low = none → gone (.passed low tx) failed) ∧
      ∀ low rx tx, laneMap low = some rx →
        let clash := spareClash x.rxSpare rx || spareClash x.txSpare tx
        (clash = true → gone (.passed low tx) failed) ∧
        (clash = false → x.helloGot = [] →
          ∃ t, exec (.portRetrainDone p (.passed low tx)) s = .next t ∧ (portAt t.dev p).rxSpare = rx ∧ (portAt t.dev p).txSpare = tx ∧
            (portAt t.dev p).helloWait = true ∧ (portAt t.dev p).helloSent = ownHello ∧ (portAt t.dev p).retraining = true ∧
            (portAt t.dev p).state = x.state ∧ (∀ q, q ≠ p → portAt t.dev q = portAt s.dev q) ∧ t.dev.near = s.dev.near ∧
            t.dev.runs = s.dev.runs ∧ t.plat = s.plat) ∧
        (clash = false → x.helloGot ≠ [] → x.state = .up → x.attachWait = [] → (negotiate x.helloGot).isSome = true →
          ∃ t, exec (.portRetrainDone p (.passed low tx)) s = .next t ∧ (portAt t.dev p).retraining = false ∧
            (portAt t.dev p).helloWait = false ∧ (portAt t.dev p).state = .up ∧ (portAt t.dev p).expSeq = x.expSeq ∧
            (portAt t.dev p).stream = x.stream ∧ (∀ q, q ≠ p → portAt t.dev q = portAt s.dev q) ∧ t.dev.near = s.dev.near ∧
            t.dev.runs = s.dev.runs ∧ t.plat = s.plat))

/-- R293, R295, R298, R299, R300: a flit with a codeword of more than 15 symbol errors, or whose CRC fails, is discarded and NAKed once; a
DATA flit in order joins the stream, whose whole transactions are sorted into their classes (on a port that is not ATTACHED only
management ones), a duplicate is dropped and acknowledged, one behind a gap is discarded whole and NAKed; an acknowledgement frees the
replay buffer up to its SEQ and returns credits; a timeout or a NAK resends the replay buffer, and the eighth replay of one SEQ
starts a retrain; the acknowledgement timer sends what is to be acknowledged. -/
def Obligations.FlitsArriveInOrderOrAreReplayed : Prop :=
  ∀ (s : State) (p : Nat), s.plat.alive = true → linkAlive (portAt s.dev p) = true →
    let x := portAt s.dev p
    let c := creditReturn x.owed
    let ackFlit (nak : Bool) : List Byte := flitBytes 0 0 x.lastGood nak c.1 c.2 []
    (∀ flit b errs, flit.length = 256 → (∃ e ∈ b :: errs, 15 < e) →
      ∃ t, exec (.flitReceive p flit b errs) s = .next t ∧ (∀ q, q ≠ p → portAt t.dev q = portAt s.dev q) ∧
        t.dev.out.flits = s.dev.out.flits ++ (if x.nakSent then [] else [(p, ackFlit true)]) ∧
        (portAt t.dev p).nakSent = true ∧ (portAt t.dev p).expSeq = x.expSeq ∧ (portAt t.dev p).stream = x.stream ∧
        (portAt t.dev p).credits = x.credits ∧ (portAt t.dev p).fecCor = satAdd 32 x.fecCor (Claims.corrected errs) ∧
        t.dev.near = s.dev.near ∧ t.dev.runs = s.dev.runs ∧ t.dev.host = s.dev.host ∧ t.plat = s.plat) ∧
    (∀ flit b errs, flit.length = 256 → (∀ e ∈ b :: errs, e ≤ 15) → leNat ((flit.drop 248).take 8) ≠ crc64 (flit.take 248) →
      ∃ t, exec (.flitReceive p flit b errs) s = .next t ∧ Claims.onlyPortAndFlits s t p ∧
        t.dev.out.flits = s.dev.out.flits ++ (if x.nakSent then [] else [(p, ackFlit true)]) ∧
        (portAt t.dev p).nakSent = true ∧ (portAt t.dev p).expSeq = x.expSeq ∧ (portAt t.dev p).stream = x.stream ∧
        (portAt t.dev p).credits = x.credits ∧ (portAt t.dev p).fecCor = satAdd 32 x.fecCor (Claims.corrected errs)) ∧
    (∀ seq ack cls credits data b errs, (∀ e ∈ b :: errs, e ≤ 15) → seq < 4096 → (∀ k, ack = some k → k < 4096) → cls < 4 →
      credits < 256 → data.length ≤ 242 →
      let flit := flitBytes 1 seq ack false cls credits data
      (seq = x.expSeq →
        ∃ t, exec (.flitReceive p flit b errs) s = .next t ∧ Claims.onlyPortAndFlits s t p ∧
          (portAt t.dev p).expSeq = (seq + 1) % 4096 ∧ (portAt t.dev p).lastGood = some seq ∧ (portAt t.dev p).nakSent = false ∧
          (parseTxn (x.stream ++ data) = none → (portAt t.dev p).stream = x.stream ++ data ∧ (portAt t.dev p).req = x.req) ∧
          (∀ y rest, parseTxn (x.stream ++ data) = some (y, rest) → parseTxn rest = none → (portAt t.dev p).stream = rest ∧
            let new (c : Nat) : List Txn := if (x.state = .attached ∨ y.ttype = 0x05) ∧ classOf y.ttype = some c then [y] else []
            (portAt t.dev p).req = x.req ++ new 0 ∧ (portAt t.dev p).rsp = x.rsp ++ new 1 ∧
              (portAt t.dev p).msg = x.msg ++ new 2 ∧ (portAt t.dev p).coll = x.coll ++ new 3)) ∧
      (seq ≠ x.expSeq →
        ∃ t, exec (.flitReceive p flit b errs) s = .next t ∧ Claims.onlyPortAndFlits s t p ∧ (portAt t.dev p).expSeq = x.expSeq ∧
          (portAt t.dev p).stream = x.stream ∧ (portAt t.dev p).req = x.req ∧
          ((x.expSeq + 4096 - seq) % 4096 ≤ 2048 → (p, ackFlit false) ∈ t.dev.out.flits) ∧
          (2048 < (x.expSeq + 4096 - seq) % 4096 → (portAt t.dev p).nakSent = true ∧
            (portAt t.dev p).credits = x.credits ∧ (portAt t.dev p).replayBuf = x.replayBuf ∧
            (x.nakSent = false → (p, ackFlit true) ∈ t.dev.out.flits)))) ∧
    (∀ (a b : List TxFlit) f cls credits e0 errs, (∀ e ∈ e0 :: errs, e ≤ 15) → x.replayBuf = a ++ f :: b → (∀ g ∈ a, g.seq ≠ f.seq) →
      f.seq < 4096 → cls < 4 → credits < 256 → Claims.nothingWaits x → ∃ t, exec (.flitReceive p (flitBytes 0 0 (some f.seq) false cls credits []) e0 errs) s = .next t ∧
        Claims.onlyPort s t p ∧ portAt t.dev p = { x with
          fecCor := satAdd 32 x.fecCor (Claims.corrected errs), replayBuf := b, replaySeq := none, replayRun := 0, credits := addAt x.credits cls credits,
          msgAcked := x.msgAcked + ((a ++ [f]).filter (·.last)).length,
          msgAckAt := if ((a ++ [f]).filter (·.last)).length = 0 then x.msgAckAt else s.plat.cyc }) ∧
    (x.lastAck + 100 ≤ s.plat.now → (x.sinceAck ≠ 0 ∨ ∃ k ∈ x.owed, k ≠ 0) →
      ∃ t, exec (.ackTimer p) s = .next t ∧ Claims.onlyPortAndFlits s t p ∧ t.dev.out.flits = s.dev.out.flits ++ [(p, ackFlit false)] ∧
        portAt t.dev p = { x with owed := subAt x.owed c.1 c.2, sinceAck := 0, lastAck := s.plat.now }) ∧
    (∀ f rest, x.replayBuf = f :: rest → x.retraining = false → (∃ g ∈ x.replayBuf, g.sent + 2000 ≤ s.plat.now) →
      let again := if x.replaySeq = some f.seq then x.replayRun + 1 else 1
      ∃ t, exec (.replayTimeout p) s = .next t ∧ Claims.resent s t p x ∧ (portAt t.dev p).replays = satAdd 16 x.replays x.replayBuf.length ∧
        (portAt t.dev p).replayBuf = x.replayBuf.map (fun g => { g with sent := s.plat.now }) ∧ (portAt t.dev p).replaySeq = some f.seq ∧
        (again < 8 → (portAt t.dev p).retraining = false ∧ (portAt t.dev p).replayRun = again) ∧
        (8 ≤ again → x.state ≠ .training → (portAt t.dev p).retraining = true) ∧ (∀ q, q ≠ p → portAt t.dev q = portAt s.dev q) ∧
        t.dev.near = s.dev.near ∧ t.dev.runs = s.dev.runs ∧ t.dev.host = s.dev.host ∧ t.plat = s.plat)

/-! ### Transactions -/

namespace Sys2Proof.Claims

/-- The transaction at the head of the port's REQ class, those behind it. -/
def headReq (s : State) (p : Nat) (y : Txn) (rest : List Txn) : Prop := s.plat.alive = true ∧ (portAt s.dev p).req = y :: rest

/-- The port after that transaction has been taken: its credits are owed (R301). -/
def popped (y : Txn) (rest : List Txn) (x : Port) : Port := { x with req := rest, owed := addAt x.owed 0 (txnCost y) }

/-- The answer to a transaction: its TAG, a STATUS and a payload (R303, R306). -/
def answer (y : Txn) (ttype status : Nat) (payload : List Byte) : Txn :=
  { ttype := ttype, status := status, tag := y.tag, len := payload.length, payload := payload }

/-- The port can send transactions of a class at once: nothing waits, no retrain, credits for all, room in the replay buffer. -/
def sendable (x : Port) (cls : Nat) (l : List Txn) : Prop :=
  nothingWaits x ∧ x.retraining = false ∧ (l.map txnCost).sum ≤ x.credits.getD cls 0 ∧
    x.replayBuf.length + (l.flatMap txnFlits).length ≤ 2048 ∧ x.nextSeq < 4096

/-- The port was handed transactions of a class (R298, R301): when it can send at once they leave in DATA flits, in order, with the next
SEQs; with nothing before it and too few credits a single one waits. -/
def hands (s t : State) (p cls : Nat) (l : List Txn) : Prop :=
  let x := portAt s.dev p
  let fs := l.flatMap txnFlits
  (sendable x cls l → ∃ out, t.dev.out.flits = s.dev.out.flits ++ out ∧ out.length = fs.length ∧
    ∀ i, i < fs.length → ∃ c credits, out.getD i (0, []) =
      (p, flitBytes 1 ((x.nextSeq + i) % 4096) x.lastGood false c credits (fs.getD i ([], false)).1)) ∧
  ∀ y, l = [y] → nothingWaits x → x.credits.getD cls 0 < txnCost y → (portAt t.dev p).tx cls = [y]

/-- The other ports, and what no request of a partner reaches, are as before. -/
def apart (s t : State) (p : Nat) : Prop :=
  (∀ q, q ≠ p → portAt t.dev q = portAt s.dev q) ∧ t.dev.tiles = s.dev.tiles ∧ t.dev.graphs = s.dev.graphs ∧
    t.dev.near.regions = s.dev.near.regions ∧ t.dev.links.far = s.dev.links.far ∧ t.plat = s.plat ∧ t.pending = s.pending

/-- A HELLO fits: a version in common, and the profile PEER or MEMORY or the part's own identifier (R309, R310). -/
def fits (h : List Byte) : Bool :=
  let b (i : Nat) : Nat := (h.getD i 0#8).toNat
  decide (b 0 ≤ min 2 (b 1)) && ((h.drop 16).take 32 == natLe 32 Config.ownId.toNat || b 2 == 1 || b 2 == 2)

/-- The packet of a number, if outstanding with its completion ring enabled, has completed with a status and DETAIL 0. -/
def packetEnds (s t : State) (id st : Nat) : Prop :=
  ∀ y, s.dev.host.taken.find? (fun u => u.id == id) = some y → (ringAt s.dev (y.ring + 9)).enable = true →
    (∃ addr ph, HostOut.write addr (completionBytes y.seq st y.ring 0 s.plat.now y.tag ph) ∈ t.dev.out.host) ∧
      ∀ u ∈ t.dev.host.taken, u.id ≠ id

end Sys2Proof.Claims

/-- R260, R303, R306, R307, R309: an inbound READ, WRITE or REDWRITE within the port's window joins class BULK at the channels it touches, at
port 3; with its last run a READ is answered with its bytes, or POISONED without data, a WRITE has stored its bytes and is
acknowledged, a REDWRITE has added its elements by the memory-side adders. Outside the window the answer is UNMAPPED, for a type, size,
alignment or version not served UNSUPPORTED, and PERSIST is always UNSUPPORTED; what is answered with an error writes nothing. -/
def Obligations.InboundAccessesAreServed : Prop :=
  (∀ (s : State) (p : Nat) (y : Txn) (rest : List Txn), Claims.headReq s p y rest →
    let a := y.addr.toNat
    let n := y.payload.length
    let quiet (t : State) : Prop := (portAt t.dev p).req = rest ∧ Claims.apart s t p ∧ t.dev.near.mem = s.dev.near.mem ∧
      t.dev.host = s.dev.host
    let refused (c : Instr) (ttype status : Nat) : Prop :=
      ∃ t, exec c s = .next t ∧ Claims.hands s t p 1 [Claims.answer y ttype status []] ∧ quiet t ∧ t.dev.runs = s.dev.runs
    let opens (c : Instr) (kind : AccKind) (len : Nat) (data : List Byte) (ttype : Nat) : Prop :=
      (inbound s.dev p a len = false → refused c ttype 1) ∧
      (inbound s.dev p a len = true → ∀ l, runsOf s.dev a len = some l →
        (l = [] → refused c ttype 0) ∧
        (l ≠ [] → ∃ t, exec c s = .next t ∧ quiet t ∧ t.dev.out = s.dev.out ∧
          Claims.accessQueued s t 3 { who := .partner p s.dev.near.accSeq, kind := kind, addr := a, len := len, data := data,
                                      left := l.length, txn := some y } l))
    (y.ttype = 0x01 → opens (.tlRead p) .read y.len [] 0x10) ∧
    (y.ttype = 0x02 → opens (.tlWrite p) .write n y.payload 0x11) ∧
    (y.ttype = 0x03 →
      let z := redSize y.rtype
      let served := z ≠ 0 ∧ (∃ v, (portAt s.dev p).version = some v ∧ 1 ≤ v) ∧ a % z = 0 ∧ n % z = 0
      (¬ served → refused (.redwrite p) 0x11 3) ∧ (served → opens (.redwrite p) (.reduce y.rtype) n y.payload 0x11)) ∧
    (y.ttype = 0x04 → refused (.tlPersist p) 0x11 3)) ∧
  ∀ (s : State) (g cls : Nat) (r : ChanReq) (before after : List ChanReq) (p n : Nat) (a : NearAcc) (y : Txn),
    Claims.starts s g cls r before after → r.who = .partner p n → s.dev.near.accs.find? (fun a => a.who == r.who) = some a →
    a.txn = some y → a.left ≤ 1 →
    let part := (a.data.drop r.off).take r.len
    let answered (status ttype : Nat) (data : List Byte) (more : State → Prop) : Prop :=
      ∃ t, exec (.channelRequestStart g) s = .next t ∧ Claims.hands s t p 1 [Claims.answer y ttype status data] ∧
        (∀ x ∈ t.dev.near.accs, x.who ≠ r.who) ∧ t.dev.tiles = s.dev.tiles ∧ more t
    (a.kind = .read → a.bad = [] → badOf s.dev (r.piece g) = [] →
      answered 0 0x10 ((tins a.got r.off (runBytes s.dev (r.piece g))).flatMap (·.2)) (fun t => t.dev.near.mem = s.dev.near.mem)) ∧
    (a.kind = .read → a.bad ≠ [] ∨ badOf s.dev (r.piece g) ≠ [] →
      answered 2 0x10 [] (fun t => t.dev.near.mem = s.dev.near.mem)) ∧
    (a.kind = .write → a.bad = [] → Claims.writable s g r →
      answered 0 0x11 [] (fun t => Claims.storedAt s.dev.near.mem t.dev.near.mem (chanKey g r.choff) part)) ∧
    (∀ rt, a.kind = .reduce rt →
      let z := reduceRun s.plat 6 0 rt false none (r.piece g) part (modChan g (unqueue cls r) s.dev)
      answered (if a.bad = [] ∧ z.2.bad = [] then 0 else 2) 0x11 [] (fun t => t.dev.near.mem = z.1.near.mem))

/-- R308, R309, R312, R314, R444, R447: HELLO is kept during a training and then decides UP or INCOMPATIBLE; a CHALLENGE is answered with the
part's chain and a signature, in a test state not at all; CERT parts join at their offset; SIGNED attaches the port with role, window
and anchor when chain, identity and signature hold, else, as after 100 ms, LINK_ATTACH ends with AUTH_FAIL and a re-attested port
returns to UP; DETACH returns the port to UP and gives the tasks with traffic outstanding on it PARTNER_LOST as their end. -/
def Obligations.PartnersSayHelloAttestAndDetach : Prop :=
  ∀ (s : State) (p : Nat),
    let x := portAt s.dev p
    (∀ y rest, Claims.headReq s p y rest →
      let x1 := Claims.popped y rest x
      (mgmtSub y = 0x01 →
        (x.state ≠ .training → x.retraining = false →
          ∃ t, exec (.mgmtHello p) s = .next t ∧ Claims.onlyPort s t p ∧ portAt t.dev p = x1) ∧
        (x.state = .training ∨ x.retraining = true → x.helloWait = false →
          ∃ t, exec (.mgmtHello p) s = .next t ∧ Claims.onlyPort s t p ∧ portAt t.dev p = { x1 with helloGot := y.payload }) ∧
        (x.state = .training → x.helloWait = true →
          ∃ t, exec (.mgmtHello p) s = .next t ∧ (portAt t.dev p).state = (if Claims.fits y.payload then .up else .incompatible) ∧
            (portAt t.dev p).partner = (y.payload.drop 16).take 32 ∧ (portAt t.dev p).helloWait = false ∧ Claims.apart s t p ∧
            t.dev.near = s.dev.near ∧ t.dev.runs = s.dev.runs)) ∧
      (mgmtSub y = 0x02 →
        (x.state = .up ∨ x.state = .attached → s.plat.boot.testMode = false →
          ∃ t, exec (.mgmtChallenge p) s = .next t ∧ Claims.onlyPortAndFlits s t p ∧ (portAt t.dev p).req = rest ∧
            Claims.hands s t p 0 (certParts (Config.ownChain.length / 4096 + 1) 0 Config.ownChain ++
              [mgmtTxn 0x04 (Config.sign (x.helloSent ++ x.helloGot ++ y.payload.take 32))])) ∧
        (s.plat.boot.testMode = true → ∃ t, exec (.mgmtChallenge p) s = .next t ∧ Claims.onlyPort s t p ∧ portAt t.dev p = x1)) ∧
      (mgmtSub y = 0x03 → ∃ t, exec (.cert p) s = .next t ∧ Claims.onlyPort s t p ∧
        portAt t.dev p = { x1 with attest := x.attest.map (fun a => { a with chain := a.chain.take y.addr.toNat ++ y.payload }) }) ∧
      (mgmtSub y = 0x04 → ∀ a, x.attest = some a → x.attachWait = [] →
        let ok := Config.chainLeaf a.chain (if a.anchor = 0 then s.dev.fw.rootHash else a.anchor) == some a.expect &&
          Config.verifyLeaf a.chain (x.helloGot ++ x.helloSent ++ natLe 32 a.nonce.toNat) y.payload
        ∃ t, exec (.signed p) s = .next t ∧ (portAt t.dev p).attest = none ∧ (portAt t.dev p).req = rest ∧
          (∀ id, a.pkt = some id → x.state = .up → Claims.packetEnds s t id (if ok then stOk else stAuth) ∧ Claims.apart s t p ∧
            t.dev.near = s.dev.near ∧ t.dev.runs = s.dev.runs ∧
            (ok = true → (portAt t.dev p).state = .attached ∧ (portAt t.dev p).role = a.role ∧ (portAt t.dev p).wbase = a.wbase ∧
              (portAt t.dev p).wsize = a.wsize ∧ (portAt t.dev p).anchor = a.anchor) ∧
            (ok = false → (portAt t.dev p).state = .up)) ∧
          (a.pkt = none → x.state = .attached → (portAt t.dev p).state = if ok then .attached else .up)) ∧
      (mgmtSub y = 0x05 → x.state = .attached → x.attachWait = [] →
        ∃ t, exec (.detach p) s = .next t ∧ (portAt t.dev p).state = .up ∧ (portAt t.dev p).role = 0 ∧ (portAt t.dev p).wsize = 0 ∧
          (portAt t.dev p).pending = [] ∧ t.dev.near.mem = s.dev.near.mem ∧ t.dev.near.regions = s.dev.near.regions ∧
          t.dev.tiles = s.dev.tiles ∧ t.plat = s.plat ∧
          ∀ h i r, Claims.runs s h i r (fun _ => true) →
            hasTraffic x h i (descOf (graphAt s.dev h) i) (taskAt r i).work p = true → ∃ z, taskOf t.dev h i = some z ∧ z.st = .running ∧
              z.work.fate = some ((taskAt r i).work.fate.getD (stPartner, farDetail p 0)))) ∧
    (∀ a, s.plat.alive = true → x.attest = some a → x.attachWait = [] → a.since + 10000000 ≤ s.plat.now →
      ∃ t, exec (.attestTimeout p) s = .next t ∧ (portAt t.dev p).attest = none ∧
        (∀ id, a.pkt = some id → Claims.packetEnds s t id stAuth ∧ (portAt t.dev p).state = x.state ∧ Claims.apart s t p ∧
          t.dev.near = s.dev.near ∧ t.dev.runs = s.dev.runs) ∧
        (a.pkt = none → (portAt t.dev p).state = .up ∧ t.dev.near.mem = s.dev.near.mem ∧ t.dev.tiles = s.dev.tiles))

namespace Sys2Proof.Claims

/-- The transaction at the head of the port's RSP class, those behind it. -/
def headRsp (s : State) (p : Nat) (y : Txn) (rest : List Txn) : Prop := s.plat.alive = true ∧ (portAt s.dev p).rsp = y :: rest

/-- No snapshot, no restore and no peer's image waits for a port. -/
def oxbowIdle (s : State) : Prop := s.dev.oxb.snap = none ∧ s.dev.oxb.peerQ = [] ∧ ∀ id r, s.dev.host.longOp ≠ some (id, .restore r)

/-- The running task has an end: the one it had, or else this one (R224, R306); a MOVE that an abort is stopping stops with it (R226). -/
def fated (s t : State) (h i st detail : Nat) : Prop :=
  ∀ r, runOf s.dev h = some r → (taskAt r i).st = .running →
    ∃ z, taskOf t.dev h i = some z ∧ (z.st = .running ∨ ((taskAt r i).work.halting = true ∧ z.st = .stopped)) ∧
      z.work.fate = some ((taskAt r i).work.fate.getD (st, detail))

/-- FAR_ERROR reaches an event ring that has room (R306, Table 15.13). -/
def farErrorPosted (s t : State) (p status far : Nat) : Prop :=
  eventRoom s.dev = true → s.dev.host.dropped = 0 → ∃ addr ph, HostOut.write addr (eventBytes 0x0036 s.dev.host.eseq s.plat.now
    (natLe 1 p ++ natLe 1 status ++ List.replicate 6 0#8 ++ natLe 8 far) ph) ∈ t.dev.out.host

/-- The runs of a handle change in their lock-step progress alone (R347 to R350). -/
def lockedRuns (s t : State) (h : Nat) (f : Lock → Lock) : Prop :=
  t.dev.runs = s.dev.runs.map (fun z => if z.started && z.handle == h then { z with lock := z.lock.map f } else z)

end Sys2Proof.Claims

/-- R301, R304, R306, R321, R325, R328, R368: a response frees its request; one whose TAG waits for nothing is dropped; a READRSP's bytes go
to the offset they were asked for, and the MOVEs go on; a bad STATUS, as 50 ms without an answer, gives the task its end; the answers
to a peer's fetch and far writes are passed on to it. A MESSAGE part goes to its MOVE, one without a receiver waits when it is a
first part and is discarded otherwise; a COLLSEG goes to the running COLL of its COLL_ID or waits, and one in an encoding the agreed
version lacks is discarded (the model's choice, LOG 123); COLL_CANCEL gives that COLL
PARTNER_LOST as its end, or discards what is held for it. -/
def Obligations.ResponsesMessagesAndSegmentsArrive : Prop :=
  ∀ (s : State) (p : Nat), s.plat.alive = true →
    let x := portAt s.dev p
    (∀ y rest, Claims.headRsp s p y rest →
      let d1 := dropReq p y.tag (popRsp p y s.dev)
      (∀ c, (y.ttype = 0x10 ∧ c = Instr.readrsp p) ∨ (y.ttype = 0x11 ∧ c = Instr.tlAck p) →
        (reqOf x y.tag = none → ∃ t, exec c s = .next t ∧ Claims.onlyPort s t p ∧
          portAt t.dev p = { x with rsp := rest, owed := addAt x.owed 1 (txnCost y) }) ∧
        (∀ q h i, reqOf x y.tag = some q → y.status ≠ 0 → q.who = .task h i →
          ∃ t, exec c s = .next t ∧ (portAt t.dev p).rsp = rest ∧ Claims.fated s t h i (respStatus y.status) (farDetail p y.status) ∧
            Claims.farErrorPosted s t p y.status q.far)) ∧
      (∀ q h i, reqOf x y.tag = some q → y.status = 0 → q.who = .task h i →
        (y.ttype = 0x10 → exec (.readrsp p) s = .next { s with
          dev := pumpAll s.plat (modWork h i (fun w => { w with held := tins w.held q.off y.payload }) d1) }) ∧
        (y.ttype = 0x11 → exec (.tlAck p) s = .next { s with dev := pumpAll s.plat (touchWork s.plat h i d1) })) ∧
      (∀ q k, reqOf x y.tag = some q → y.status = 0 → s.dev.runs = [] → Claims.oxbowIdle s →
        (y.ttype = 0x10 → q.who = .fetch k →
          ∃ t, exec (.readrsp p) s = .next t ∧ Claims.hands s t k 0 [mgmtTxn 0x20 y.payload q.off] ∧ t.dev.near = s.dev.near ∧
            t.dev.host = s.dev.host) ∧
        (∀ tag, y.ttype = 0x11 → q.who = .peer k tag →
          ((∀ e ∈ d1.links.ports, ∀ u ∈ e.2.pending, u.who ≠ q.who) →
            ∃ t, exec (.tlAck p) s = .next t ∧ Claims.hands s t k 1 [{ ttype := 0x11, tag := tag }] ∧ t.dev.near = s.dev.near) ∧
          ((∃ e ∈ d1.links.ports, ∃ u ∈ e.2.pending, u.who = q.who) → exec (.tlAck p) s = .next { s with dev := d1 })))) ∧
    (∀ tag q h i, reqOf x tag = some q → x.state = .attached → q.since + 5000000 ≤ s.plat.now → q.who = .task h i →
      ∃ t, exec (.responseTimeout p tag) s = .next t ∧ Claims.fated s t h i stPartner (farDetail p 0) ∧ t.dev.graphs = s.dev.graphs ∧
        t.plat = s.plat ∧ Claims.farErrorPosted s t p 0 q.far) ∧
    (∀ y rest, x.msg = y :: rest →
      (receiverOf s.dev p (y.attr.testBit 0) = none →
        (y.attr.testBit 0 = true → exec (.message p) s = .next s) ∧
        (y.attr.testBit 0 = false → ∃ t, exec (.message p) s = .next t ∧ Claims.onlyPort s t p ∧
          portAt t.dev p = { x with msg := rest, owed := addAt x.owed 2 (txnCost y) })) ∧
      (∀ h i r, receiverOf s.dev p (y.attr.testBit 0) = some (h, i) → runOf s.dev h = some r →
        let b := y.payload.take (mvLen (descOf (graphAt s.dev h) i) - y.addr.toNat)
        ∃ t d1, exec (.message p) s = .next t ∧ t = { s with dev := movePump s.plat h i d1 } ∧
          portAt d1 p = { x with msg := rest, owed := addAt x.owed 2 (txnCost y) } ∧
          (∀ w, w = (taskAt r i).work → (taskOf d1 h i).map (·.work) = some { w with
            held := if b.isEmpty then w.held else tins w.held y.addr.toNat b, msgLen := y.addr.toNat + y.payload.length,
            msgDone := y.attr.testBit 1 }) ∧
          d1 = { s.dev with links := { s.dev.links with ports := d1.links.ports }, runs := d1.runs })) ∧
    (∀ y rest, x.coll = y :: rest →
      let known := y.rtype < 2 ∨ ∃ v, x.version = some v ∧ 2 ≤ v
      (¬ known → ∃ t, exec (.collseg p) s = .next t ∧ Claims.onlyPort s t p ∧
        portAt t.dev p = { x with coll := rest, owed := addAt x.owed 3 (txnCost y) }) ∧
      (known → collOn s.dev p (segId y) = none → exec (.collseg p) s = .next s) ∧
      (known → ∀ h i r, collOn s.dev p (segId y) = some (h, i) → runOf s.dev h = some r →
        let desc := descOf (graphAt s.dev h) i
        ∃ t d1, exec (.collseg p) s = .next t ∧ t = { s with dev := collPump s.plat h i d1 } ∧
          portAt d1 p = { x with coll := rest, owed := addAt x.owed 3 (txnCost y) } ∧
          (∀ w, w = (taskAt r i).work → (taskOf d1 h i).map (·.work) = some { w with recv := w.recv ++
            [{ phase := if clArith desc then y.status % 2 else 1, fromPrev := (clPrev desc).contains p,
               first := y.addr.toNat % 2 ^ 40, vals := readElems desc y.rtype y.attr y.payload }] }) ∧
          d1 = { s.dev with links := { s.dev.links with ports := d1.links.ports }, runs := d1.runs })) ∧
    (∀ y rest, Claims.headReq s p y rest → mgmtSub y = 0x06 →
      let id := leNat (y.payload.take 3)
      let running := (runningColls s.dev).find? (fun e => clId (descOf (graphAt s.dev e.1) e.2) == id)
      (∀ h i, running = some (h, i) → ∃ t, exec (.collCancel p) s = .next t ∧ Claims.fated s t h i stPartner (farDetail p 0) ∧
        portAt t.dev p = Claims.popped y rest x ∧ (∀ q, q ≠ p → portAt t.dev q = portAt s.dev q) ∧ t.dev.near = s.dev.near) ∧
      (running = none → ∃ t, exec (.collCancel p) s = .next t ∧ (portAt t.dev p).req = rest ∧
        (∀ q, (portAt t.dev q).coll = (portAt s.dev q).coll.filter (fun u => segId u != id)) ∧
        t = { s with dev := { s.dev with links := { s.dev.links with ports := t.dev.links.ports } } }))

/-- R347, R348, R349, R350: LS_START from the partner is kept while its values agree, and ends the waiting GRAPH_RUN with BAD_PARAM when they
do not, as 1 s without it does with PARTNER_LOST; LS_DIGEST entries, LS_TILES digests and LS_END counts are kept; an entry equal to
the own task's is compared, one that differs freezes the run and sends LS_FREEZE, as LS_FREEZE itself does; 1 s of silence in the
wait, or loss of the link, stops the run and dissolves the pairing. -/
def Obligations.LockstepComparesAndFreezes : Prop :=
  ∀ (s : State) (p : Nat), s.plat.alive = true →
    let ls := s.dev.obs.ls
    let x := portAt s.dev p
    (∀ y rest, Claims.headReq s p y rest → mgmtSub y = 0x11 →
      let got := (leNat (y.payload.take 8), leNat ((y.payload.drop 8).take 4))
      let kept : Prop := ∃ t, exec (.lsStart p) s = .next t ∧ t.dev.obs.ls = { ls with gotStart := some got } ∧
        portAt t.dev p = Claims.popped y rest x ∧ t.dev.runs = s.dev.runs ∧ t.dev.host = s.dev.host
      (isPaired s.dev = true → ls.port = p →
        (startingRun s.dev = none → kept) ∧
        ∀ r, startingRun s.dev = some r →
          (got = ((graphAt s.dev r.handle).imageCrc.toNat, ls.runSeq.toNat) → kept) ∧
          (got ≠ ((graphAt s.dev r.handle).imageCrc.toNat, ls.runSeq.toNat) → ∀ id, r.pkt = some id →
            ∃ t, exec (.lsStart p) s = .next t ∧ Claims.packetEnds s t id stBadParam ∧ t.dev.obs.ls = ls ∧
              t.dev.runs = s.dev.runs.filter (fun z => !(z == r)) ∧ (ringAt t.dev r.ring).blocked = false)) ∧
      (isPaired s.dev = false ∨ ls.port ≠ p →
        ∃ t, exec (.lsStart p) s = .next t ∧ Claims.onlyPort s t p ∧ portAt t.dev p = Claims.popped y rest x)) ∧
    (∀ r id, startingRun s.dev = some r → r.pkt = some id → ls.gotStart = none → r.lsSince + oneSecond ≤ s.plat.now →
      ∃ t, exec (.lsStartTimeout r.handle) s = .next t ∧ Claims.packetEnds s t id stPartner ∧
        t.dev.runs = s.dev.runs.filter (fun z => !(z == r)) ∧ (ringAt t.dev r.ring).blocked = false) ∧
    (∀ y rest r l, Claims.headReq s p y rest → lockRun s.dev = some r → r.lock = some l → ls.port = p →
      runOf s.dev r.handle = some r →
      let h := r.handle
      let plain (c : Instr) (f : Lock → Lock) : Prop := ∃ t, exec c s = .next t ∧ Claims.lockedRuns s t h f ∧
        portAt t.dev p = Claims.popped y rest x ∧
        t = { s with dev := { s.dev with links := { s.dev.links with ports := t.dev.links.ports }, runs := t.dev.runs } }
      let frozen (c : Instr) (v : Nat) : Prop := ∃ t z, exec c s = .next t ∧ t.dev.obs.ls = { ls with state := .frozen } ∧
        runOf t.dev h = some z ∧ z.stopped = true ∧ (z.lock.map (·.frozen)) = some true ∧
        Claims.hands s t p 0 [mgmtTxn 0x14 (natLe 4 v)] ∧ t.dev.near = s.dev.near ∧ t.dev.tiles = s.dev.tiles
      (mgmtSub y = 0x12 → ∀ e, entriesOf y.payload = [e] → l.partner = [] → l.compared = [] →
        let mark : Prop := (taskAt r e.1).status = stDiverge ∨ e.2.1 = stDiverge
        ((taskAt r e.1).st ≠ .ended → plain (.lsDigest p) (fun l => { l with heard := s.plat.now, partner := l.partner ++ [e] })) ∧
        ((taskAt r e.1).st = .ended → mark ∨ ((taskAt r e.1).status = e.2.1 ∧ (taskAt r e.1).digest.toNat = e.2.2) →
          plain (.lsDigest p) (fun l => { l with heard := s.plat.now, partner := l.partner ++ [e], compared := l.compared ++ [e.1] })) ∧
        ((taskAt r e.1).st = .ended → ¬ mark → (taskAt r e.1).status ≠ e.2.1 ∨ (taskAt r e.1).digest.toNat ≠ e.2.2 → l.frozen = false →
          dKind (descOf (graphAt s.dev h) e.1) ≠ 1 → frozen (.lsDigest p) e.1)) ∧
      (mgmtSub y = 0x13 → plain (.lsTiles p) (fun l => { l with heard := s.plat.now, tiles := l.tiles ++
        [(leNat (y.payload.take 4), leNat ((y.payload.drop 4).take 4),
          (List.range ((y.payload.length - 8) / 8)).map (fun i => leNat ((y.payload.drop (8 + 8 * i)).take 8)))] })) ∧
      (mgmtSub y = 0x14 →
        let v := leNat (y.payload.take 4)
        (l.frozen = false → frozen (.lsFreeze p) v) ∧
        (l.frozen = true → plain (.lsFreeze p) (fun l => { l with heard := s.plat.now, freezeGot := some v }))) ∧
      (mgmtSub y = 0x15 → plain (.lsEnd p) (fun l => { l with heard := s.plat.now, endGot := some (leNat (y.payload.take 4)) }))) ∧
    (∀ h r l, runOf s.dev h = some r → r.lock = some l → lockWaits r (graphAt s.dev h) = true →
      l.heard + oneSecond ≤ s.plat.now ∨ lockPort s.dev ls.port = false →
      ∃ t z, exec (.lockstepTimeout h) s = .next t ∧ t.dev.obs.ls = {} ∧ runOf t.dev h = some z ∧ z.stopped = true ∧
        (z.lock.map (·.lost)) = some true ∧ t.dev.near.mem = s.dev.near.mem ∧ t.plat = s.plat)

/-- R364, R366, R367, R368: a peer's BUDDY_DATA and BUDDY_COMMIT go to the far region kept for it as far writes that answer them when
acknowledged, and a BUDDY_FETCH reads it; any other gets UNSUPPORTED; a BUDDY_DATA that answers a fetch of the part's own restore
is kept by it. An NVMe completion takes the oldest command of its port; when the stage's commands are all complete the next stage is
sent, and the last of the commit makes the snapshot the committed one; an error status, as 8 s without completion of any command,
fails the port. -/
def Obligations.BuddyImagesAndSnapshotStages : Prop :=
  ∀ (s : State) (p : Nat), s.plat.alive = true →
    let x := portAt s.dev p
    (∀ y rest, Claims.headReq s p y rest →
      let no (c : Instr) : Prop := ∃ t, exec c s = .next t ∧ Claims.onlyPortAndFlits s t p ∧ (portAt t.dev p).req = rest ∧
        Claims.hands s t p 1 [Claims.answer y 0x11 3 []]
      let goes (c : Instr) (who : Requester) (l : List QReq) : Prop := ∃ t, exec c s = .next t ∧
        t = { s with dev := askPeer s.plat.now who l (popReq p y s.dev) } ∧
        ∀ q, l = [q] → q.port ≠ p → s.dev.oxb.peerQ = [] → canIssue (portAt s.dev q.port) q.len = true →
          let z := portAt s.dev q.port
          let tag := freeTag z.pending.length z.nextTag z.pending
          (portAt t.dev q.port).pending = z.pending ++ [⟨tag, who, q.off, q.len, q.far, s.plat.now⟩] ∧
            Claims.hands s t q.port 0 [{ q.txn with tag := tag }]
      (∀ c, (mgmtSub y = 0x20 ∧ fetchOf s.dev p y = none ∧ c = Instr.buddyData p) ∨ (mgmtSub y = 0x21 ∧ c = Instr.buddyCommit p) →
        (buddyRegion s.dev p = none → no c) ∧
        ∀ r, buddyRegion s.dev p = some r →
          (r.size < y.addr.toNat + y.payload.length → no c) ∧
          (y.addr.toNat + y.payload.length ≤ r.size → goes c (.peer p y.tag) (farWrites r (r.base + y.addr.toNat) y.payload none))) ∧
      (mgmtSub y = 0x20 → ∀ id r q, fetchOf s.dev p y = some (id, r, q) → 1 < r.acks →
        ∃ t r', exec (.buddyData p) s = .next t ∧ t.dev.host.longOp = some (id, .restore r') ∧
          r'.got = tset [] r.got y.addr.toNat y.payload ∧ r'.acks = r.acks - 1 ∧ r'.fetch = r.fetch ∧ t.dev.near = s.dev.near) ∧
      (mgmtSub y = 0x22 →
        let off := leNat ((y.payload.drop 32).take 8)
        let n := leNat ((y.payload.drop 40).take 8)
        (s.dev.oxb.policy = none → no (.buddyFetch p)) ∧
        ∀ q, s.dev.oxb.policy = some q →
          let r := farAt s.dev q.buddyFreg
          let served := x.state = .attached ∧ x.role = 0 ∧ x.profile = 1 ∧ q.buddyFreg ≤ 1023 ∧ r.valid = true ∧
            y.payload.take 32 = q.buddyFor ∧ off + n ≤ r.size
          (¬ served → no (.buddyFetch p)) ∧ (served → goes (.buddyFetch p) (.fetch p) (farReads r (r.base + off) n off)))) ∧
    (∀ k, nvmeBusy s.dev k = true →
      let left := s.dev.oxb.nvme.eraseP (fun c => c.port == k)
      exec (.nvmeCompletion k true) s = .next { s with
        dev := snapAdvance s.plat.now (pumpNvme s.plat.now (takeNvme k s.dev)) } ∧
      ∀ n, s.dev.oxb.snap = some n → n.nvmeQ = [] →
        let done := n.acks = 0 ∧ ∀ c ∈ left, c.drain = false
        (¬ done → exec (.nvmeCompletion k true) s = .next { s with dev := { s.dev with oxb := { s.dev.oxb with nvme := left } } }) ∧
        (done → n.stage = 3 → n.onBuddy = false → n.committed = false → n.txQ = [] → n.ports ≠ [] →
          s.dev.oxb.nvme.length + n.ports.length ≤ 255 →
          ∃ t, exec (.nvmeCompletion k true) s = .next t ∧ t.dev.oxb.snap = some { n with stage := 4 } ∧
            t.dev.out.nvme = s.dev.out.nvme ++ n.ports.zipIdx.flatMap (fun e => stageWrites s.dev { n with stage := 4 } e.2 e.1) ∧
            t.dev.oxb.commitSeq = s.dev.oxb.commitSeq ∧ t.dev.near = s.dev.near) ∧
        (done → n.stage = 4 → n.committed = false →
          ∃ t, exec (.nvmeCompletion k true) s = .next t ∧ t.dev.oxb.commitSeq = n.seq ∧ t.dev.oxb.commitStep = n.step ∧
            t.dev.oxb.hasCommit = true ∧ t.dev.oxb.nextSeq = n.seq + 1#64 ∧ t.dev.near.mem = s.dev.near.mem ∧
            t.dev.runs = s.dev.runs ∧
            t.dev.oxb.snap = some { n with committed := true, pkt := none, stage := if n.noVerify then 6 else n.stage } ∧
            ∀ id, n.pkt = some id → Claims.packetEnds s t id stOk)) ∧
    (∀ k c, (c = Instr.nvmeCompletion k false ∧ nvmeBusy s.dev k = true) ∨
        (c = Instr.nvmeTimeout k ∧ ∃ a ∈ s.dev.oxb.nvme, a.port = k ∧ a.since + 800000000 ≤ s.plat.now) →
      ∃ t, exec c s = .next t ∧ t.dev.near.mem = s.dev.near.mem ∧ t.dev.tiles = s.dev.tiles ∧ t.dev.runs = s.dev.runs ∧
        t.plat = s.plat ∧ (k < 4 → t.dev.oxb.failed.toNat.testBit k = true))

/-! ### The platform -/

namespace Sys2Proof.Claims

/-- Readings of VIN_SAMPLE act on a running part whose power-up has finished (R409, R415). -/
def supplied (s : State) : Prop :=
  staggerDone s.plat = true ∧ tripped s.plat = false ∧ s.plat.mgmt.dumped = false

/-- The part has gone through the power-fail sequence (R412, R398, R370); how much of its writes an engine still made is open
(LOG 121). -/
def hasFailed (s t : State) : Prop :=
  t.plat.sup.state = .powerFailed ∧ t.plat.clk.div = 24 ∧ t.plat.clk.cause.getLsbD 6 = true ∧ t.plat.boot.engOn = 0 ∧
    t.plat.boot.selfRefresh = true ∧ t.dev.runs = [] ∧ t.dev.host.taken = [] ∧
    ((∀ r ∈ s.dev.runs, ∀ e ∈ r.tasks, e.2.work.puts = []) → t.dev.near.mem = s.dev.near.mem) ∧
    (∀ p, p < 48 → linkAlive (portAt t.dev p) = false) ∧ t.pending = s.pending

/-- Nothing but the input supply of the platform, and what the host is told, has changed. -/
def supplyOnly (s t : State) : Prop :=
  t = { s with plat := { s.plat with sup := t.plat.sup }, dev := { s.dev with host := t.dev.host, out := t.dev.out } }

/-- The shutdown of a trip or a loss of ROOT lock (R421, R425). -/
def shut (t : State) : Prop :=
  t.plat.clk.running = false ∧ t.plat.sup.phase = .off ∧ t.plat.boot.rails = 0 ∧ t.plat.boot.engOn = 0 ∧
    t.plat.boot.snPerst = 0xF#4 ∧ t.plat.boot.link = .down

/-- One action of Table 16.5 on a die: it starts at or above one temperature, in 1/16 °C, and ends below another. -/
def acts (old : Bool) (t : Int) (rise clear : Int) : Bool := decide (16 * rise ≤ t) || (old && decide (16 * clear ≤ t))

end Sys2Proof.Claims

/-- R409, R411, R412, R415: above 80 V nothing is promised; below 30 V all but fuses and firmware is lost; from 36 V to below 40 V the part
rides through and 40 V ends it; above 60 V OV is set; a second sample in a row below 36 V, 10 ms of ride-through, or PWR_WARN# held for
1 µs starts the power-fail sequence; before power-up has finished a fault switches everything off with FAIL 3. -/
def Obligations.SupplySamplesAndPowerFailure : Prop :=
  ∀ (s : State) (mv : Nat) (warn : Bool),
    let run (c : Instr) (q : State → Prop) : Prop := ∃ t, exec c s = .next t ∧ q t
    let off (t : State) : Prop := t.plat.sup.phase = .off ∧ t.plat.boot.fail = 3#8 ∧ t.plat.boot.rails = 0 ∧ t.plat.boot.engOn = 0 ∧
      t.plat.boot.snPerst = 0xF#4 ∧ t.plat.boot.link = .down ∧ t.dev.runs = [] ∧ t.dev.near.mem = []
    (80000 < mv → exec (.vinSample mv warn) s = .fault .beyondAbsoluteMaximum) ∧
    (mv < 30000 → run (.vinSample mv warn) (fun t =>
      t.plat = { sup := { phase := .off, vin := BitVec.ofNat 32 mv, warn := warn }, boot := { stage := 0#8, perst := s.plat.boot.perst } } ∧
      t.dev.fw.comp = s.dev.fw.comp ∧ t.dev.fw.nid = s.dev.fw.nid ∧ t.dev.geom.retired = s.dev.geom.retired ∧
      t.dev.geom.byp = s.dev.geom.byp ∧ t.dev.near.mem = [] ∧ t.dev.tiles = [] ∧ t.dev.graphs = [] ∧ t.dev.runs = [] ∧
      t.dev.host.rings = [] ∧ t.dev.host.taken = [] ∧ t.pending = s.pending)) ∧
    (30000 ≤ mv → mv ≤ 80000 → Claims.supplied s → s.plat.sup.state ≠ .powerFailed →
      (36000 ≤ mv → run (.vinSample mv warn) (fun t => Claims.supplyOnly s t ∧ t.plat.sup.vin = BitVec.ofNat 32 mv ∧
        t.plat.sup.warn = warn ∧ t.plat.sup.ov = decide (60000 < mv) ∧ t.plat.sup.low = 0 ∧
        (mv < 40000 → t.plat.sup.state = .rideThrough ∧
          t.plat.sup.rideSince = if s.plat.sup.state = .normal then s.plat.now else s.plat.sup.rideSince) ∧
        (40000 ≤ mv → t.plat.sup.state = .normal))) ∧
      (mv < 36000 → s.plat.sup.low = 0 → run (.vinSample mv warn) (fun t => Claims.supplyOnly s t ∧ t.plat.sup.low = 1 ∧
        t.plat.sup.state = .rideThrough)) ∧
      (mv < 36000 → 1 ≤ s.plat.sup.low → run (.vinSample mv warn) (Claims.hasFailed s))) ∧
    (s.plat.sup.phase ≠ .off → tripped s.plat = false → s.plat.mgmt.dumped = false → staggerDone s.plat = false →
      (30000 ≤ mv → mv ≤ 80000 → mv < 36000 ∨ warn = true → run (.vinSample mv warn) off) ∧ run .pwrWarnAssert off) ∧
    (s.plat.alive = true → s.plat.sup.state = .rideThrough → s.plat.sup.rideSince + 1000000 ≤ s.plat.now →
      run .rideThroughExpiry (Claims.hasFailed s)) ∧
    (Claims.supplied s → s.plat.sup.state ≠ .powerFailed → run .pwrWarnAssert (Claims.hasFailed s))

/-- R414, R415, R455, R456, R457, R458, Table 16.2, Table 18.4: VIN above 40 V starts the converters; ROOT locked, the counters start from
zero in stage 1 with TEST_MODE sampled, and without REFCLK FAIL is 2; stages 2 to 5 follow in order, each from its time on: a failed
hub 0 stops the part, stage 4 makes failed hubs and dies unavailable, stage 5 releases SNq_PERST# and, with PERST# high, the link;
dies and engines power up one after another. -/
def Obligations.PowerUpAndBringup : Prop :=
  ∀ (s : State),
    let p := s.plat
    let b := p.boot
    (p.sup.phase = .off → 40000 ≤ p.sup.vin.toNat → tripped p = false → p.mgmt.dumped = false →
      (b.fail = 3#8 → 10000 ≤ p.sup.okSamples) →
      exec .powerUp s = .next { s with plat := { p with
        sup := { p.sup with phase := .starting }, clk := {}, boot := { b with stage := 0#8, fail := 0#8 } } }) ∧
    (∀ test, p.sup.phase = .starting →
      exec (.powerGood test true) s = .next { s with plat := { p with
        sup := { p.sup with phase := .up }, clk := {}, boot := { b with stage := 1#8, fail := 0#8, testMode := test } } } ∧
      exec (.powerGood test false) s = .next { s with plat := { p with boot := { b with fail := 2#8 } } }) ∧
    (∀ n res, p.alive = true → 2 ≤ n → n ≤ 5 → b.stage.toNat + 1 = n → stageAt n ≤ p.now → b.fail ≠ 1#8 → (n = 4 → diesDone (p, s.dev) = true) →
      ∃ t, exec (.bringupStage n res) s = .next t ∧ t.plat.boot.stage.toNat = n ∧ t.dev.near.mem = s.dev.near.mem ∧
        (n = 2 → t.plat.boot.hubFail = res.hubFail ∧
          t.plat.boot.fail = (if res.hubFail.getLsbD 0 then 1#8 else if t.dev.fw.recovery then 4#8 else b.fail)) ∧
        (n = 3 → t = { s with plat := { p with boot := { b with stage := 3#8 } } }) ∧
        (n = 4 → (∀ q, q < 4 → t.dev.geom.quadAvail.getLsbD q = !b.hubFail.getLsbD q) ∧
          (∀ d, d < 16 → t.dev.geom.dieAvail.getLsbD d = !(b.dieFail.getLsbD d || res.dieFail.getLsbD d || b.hubFail.getLsbD (d / 4))) ∧
          (∀ q, q < 4 → b.hubFail.getLsbD q = true → (quadAt t.dev q).state = .unavailable) ∧ t.dev.geom.repairs = []) ∧
        (n = 5 → t = { s with plat := { p with boot := { b with
          stage := 5#8, snPerst := 0#4, link := if b.perst then b.link else .detect } } })) ∧
    (∀ die, p.alive = true → die < 16 → 200000 * die ≤ p.now → diesBelow p die = true →
      (b.rails ||| b.dieFail).getLsbD die = false →
      (∃ t, exec (.powerUpStagger (.reach die true)) s = .next t ∧
        t.plat = { p with boot := { b with rails := b.rails ||| BitVec.ofNat 16 (2 ^ die) } } ∧
        (∀ g, 64 * die ≤ g → g < 64 * die + 64 → chanAt t.dev g = if (chanAt s.dev g).state = .mappedOut then chanAt s.dev g
          else { chanAt s.dev g with retraining := some .powerUp }) ∧
        (∀ g, g < 64 * die ∨ 64 * die + 64 ≤ g → chanAt t.dev g = chanAt s.dev g)) ∧
      exec (.powerUpStagger (.reach die false)) s = .next { s with plat := { p with boot := { b with
        dieFail := b.dieFail ||| BitVec.ofNat 16 (2 ^ die) } } }) ∧
    (∀ e, p.serving = true → e < 12 → 3400000 + 100000 * e ≤ p.now → b.engOn.getLsbD e = false → engineReady (p, s.dev) e = true →
      exec (.powerUpStagger (.engine e)) s = .next { s with plat := { p with boot := { b with
        engOn := b.engOn ||| BitVec.ofNat 12 (2 ^ e) } } })

/-- R455: TEST_MODE is what the strap says at power-good, and no command changes it from then on while the part stays up. -/
def Obligations.TestModeIsSampledAtPowerGood : Prop :=
  (∀ (s : State) (test : Bool), s.plat.sup.phase = .starting →
    ∃ t, exec (.powerGood test true) s = .next t ∧ t.plat.sup.phase = .up ∧ t.plat.boot.testMode = test) ∧
  ∀ (c : Instr) (s t : State), s.plat.sup.phase = .up → exec c s = .next t → t.plat.sup.phase = .up →
    t.plat.boot.testMode = s.plat.boot.testMode

/-- R420, R421, R423, R424, R425, Tables 11.11 and 16.5: once in an ELAPSED tick CLK_STAT.CAUSE shows the causes that hold and D follows
them: 24 after a power failure, one more at once for a droop, after 10 µs for current or power, after 100 µs for heat, at most 24, and one
less, at least 6, after 1 ms without a cause and without a change down; a reading starts and ends each die's actions; a trip, or loss
of ROOT lock, shuts the part down. -/
def Obligations.ClockDividerFollowsItsCauses : Prop :=
  ∀ (s : State), s.plat.alive = true →
    let k := s.plat.clk
    let now := s.plat.now
    let th := s.plat.therm
    (∀ m : PowerMeas, k.updAt ≠ some now →
      ∃ t, exec (.clockDividerUpdate m) s = .next t ∧
        let c := t.plat.clk.cause
        c.getLsbD 0 = decide (th.stretchReach ≠ 0 ∨ th.stretchHub ≠ 0) ∧ c.getLsbD 1 = decide (th.stretchDram ≠ 0) ∧
        c.getLsbD 2 = decide (8500000 < m.p1ms) ∧ c.getLsbD 3 = decide (s.plat.sup.pwrLimit.toNat * 1000 < m.p1s) ∧
        c.getLsbD 4 = decide (212000 < m.iin) ∧ c.getLsbD 5 = decide (m.vbus < 5700) ∧
        c.getLsbD 6 = decide (s.plat.sup.state = .powerFailed) ∧
        t.plat.clk.div = (if c.getLsbD 6 then 24
          else if c.getLsbD 5 then min (k.div + 1) 24
          else if c.getLsbD 2 || c.getLsbD 3 || c.getLsbD 4 then (if k.lastElec + 1000 ≤ now then min (k.div + 1) 24 else k.div)
          else if c.getLsbD 0 || c.getLsbD 1 then (if k.lastTherm + 10000 ≤ now then min (k.div + 1) 24 else k.div)
          else if k.lastCause + 100000 ≤ now ∧ k.lastLower + 100000 ≤ now ∧ 6 < k.div then k.div - 1 else k.div) ∧
        t.plat.clk.updAt = some now ∧ t.plat.clk.root = k.root ∧ t.plat.clk.cycle = k.cycle ∧
        (wantGate s.dev = [] → t.dev.tiles = s.dev.tiles) ∧ t.dev.near = s.dev.near ∧ t.dev.runs = s.dev.runs) ∧
    (∀ r : SensorReadings, th.sampledAt = 0 ∨ th.sampledAt + 1000 ≤ now →
      ∃ t, exec (.sensorSample r) s = .next t ∧
        (∀ i, i < 16 → t.plat.therm.stretchReach.getLsbD i = Claims.acts (th.stretchReach.getLsbD i) (r.reach.getD i 0) 100 97 ∧
          t.plat.therm.alertReach.getLsbD i = Claims.acts (th.alertReach.getLsbD i) (r.reach.getD i 0) 105 102) ∧
        (∀ i, i < 4 → t.plat.therm.stretchHub.getLsbD i = Claims.acts (th.stretchHub.getLsbD i) (r.hub.getD i 0) 100 97 ∧
          t.plat.therm.alertHub.getLsbD i = Claims.acts (th.alertHub.getLsbD i) (r.hub.getD i 0) 105 102) ∧
        (∀ i, i < 32 → t.plat.therm.hotDram.getLsbD i = Claims.acts (th.hotDram.getLsbD i) (r.dram.getD i 0) 85 82 ∧
          t.plat.therm.stretchDram.getLsbD i = Claims.acts (th.stretchDram.getLsbD i) (r.dram.getD i 0) 92 89 ∧
          t.plat.therm.alertDram.getLsbD i = Claims.acts (th.alertDram.getLsbD i) (r.dram.getD i 0) 97 94) ∧
        (∀ i, i < 12 → t.plat.therm.alertOut.getLsbD i = Claims.acts (th.alertOut.getLsbD i) (r.outfall.getD i 0) 80 77 ∧
          t.plat.therm.offOut.getLsbD i = Claims.acts (th.offOut.getLsbD i) (r.outfall.getD i 0) 90 85) ∧
        (tripReading r = false → t.plat.therm.trip = th.trip ∧ t.plat.clk = k ∧ t.plat.sup = s.plat.sup ∧ t.plat.boot = s.plat.boot) ∧
        (tripReading r = true → t.plat.therm.trip = true ∧ Claims.shut t) ∧ t.dev.near.mem = s.dev.near.mem ∧ t.dev.tiles = s.dev.tiles) ∧
    (∃ t, exec .rootLockLoss s = .next t ∧ t.plat.therm = { th with alertRoot := true } ∧ Claims.shut t ∧ t.dev.near = s.dev.near ∧
      t.dev.tiles = s.dev.tiles ∧ t.dev.runs = s.dev.runs)

/-! ### The management and test ports -/

namespace Sys2Proof.Claims

/-- The JTAG port answers with an instruction register loaded; of the platform nothing but the management port changes, and of the device
nothing but what TDO has shifted out and the count of free values. -/
def scanned (s t : State) (code : Byte) : Prop :=
  t.plat.mgmt.ir = code ∧ t = { s with
    plat := { s.plat with mgmt := t.plat.mgmt },
    dev := { s.dev with freeCtr := t.dev.freeCtr, out := { s.dev.out with jtag := t.dev.out.jtag } } }

/-- TDO has shifted out these bits. -/
def shifted (s t : State) (l : List Bool) : Prop := t.dev.out.jtag = s.dev.out.jtag ++ l

end Sys2Proof.Claims

/-- R454, R461, R462, Table 18.3: two bytes written over I3C set the window offset, n bytes read come from it and move it on, a dynamic
address is assigned by SETDASA to 0x3A or by ENTDAA when there is none. IDCODE shifts out 0x1D6409C5, boundary-scan instructions take
new cells and shift out as many bits, CLAMP, HIGHZ and every other code are one bypass bit. -/
def Obligations.ManagementAndBoundaryScan : Prop :=
  ∀ (s : State),
    let m := s.plat.mgmt
    let off' (q : Mgmt) : State := { s with plat := { s.plat with mgmt := q } }
    (i3cUp s.plat = true →
      (∀ data : List Byte, (data.length = 2 → exec (.i3cPrivateWrite data) s = .next (off' { m with off := leNat data })) ∧
        (data.length ≠ 2 → exec (.i3cPrivateWrite data) s = .next s)) ∧
      (∀ n, ∃ t, exec (.i3cPrivateRead n) s = .next t ∧ t.plat = { s.plat with mgmt := { m with off := (m.off + n) % 65536 } } ∧
        t.dev = { s.dev with out := { s.dev.out with i3c := t.dev.out.i3c } } ∧
        t.dev.out.i3c = s.dev.out.i3c ++ (List.range n).map (fun i => (windowBytes s.plat s.dev).getD ((m.off + i) % 65536) 0#8)) ∧
      (∀ dyn, dyn < 128 →
        exec (.i3cAddressAssign (.setdasa 0x3A dyn)) s = .next (off' { m with dyn := some dyn }) ∧
        (∀ a, a ≠ 0x3A → exec (.i3cAddressAssign (.setdasa a dyn)) s = .next s) ∧
        (m.dyn = none → exec (.i3cAddressAssign (.entdaa dyn)) s = .next (off' { m with dyn := some dyn })) ∧
        (m.dyn ≠ none → exec (.i3cAddressAssign (.entdaa dyn)) s = .next s))) ∧
    (jtagUp s.plat = true →
      (∃ t, exec .idcode s = .next t ∧ Claims.scanned s t 0x02#8 ∧
        Claims.shifted s t ((List.range 32).map (fun i => (0x1D6409C5#32).getLsbD i)) ∧ t.plat.mgmt = { m with ir := 0x02#8 }) ∧
      (∀ cells c code, (c = Instr.extest cells ∧ code = 0x00#8) ∨ (c = Instr.samplePreload cells ∧ code = 0x01#8) →
        ∃ t l, exec c s = .next t ∧ Claims.scanned s t code ∧ Claims.shifted s t l ∧ l.length = cells.length ∧
          t.plat.mgmt = { m with ir := code, cells := cells }) ∧
      (∀ c code, (c = Instr.clamp ∧ code = 0x03#8) ∨ (c = Instr.highz ∧ code = 0x04#8) ∨
          (∃ k : Byte, c = Instr.bypass k ∧ code = k ∧ 4 < k.toNat ∧ (k.toNat < 0x40 ∨ 0x43 < k.toNat ∨ s.plat.boot.testMode = false)) →
        ∃ t, exec c s = .next t ∧ Claims.scanned s t code ∧ Claims.shifted s t [false] ∧ t.plat.mgmt = { m with ir := code }))

/-- R288, R462: MEMREP, TBIST, SCANDUMP and FUSEPROG are BYPASS outside a test state. In one, a repair of a channel, a test of tiles or a
burn in a quadrant that is not drained shifts out 1 and changes nothing; in a drained one it shifts out 0: a row within the limits is
remapped, a page retired, a lane below 4 in use steered, a tile failed or burned becomes a pending repair; SCANDUMP stops the domain
clocks and ends every run. -/
def Obligations.PrivateTestInstructions : Prop :=
  ∀ (s : State), jtagUp s.plat = true →
    let d := s.dev
    let none' (c : Instr) (code : Byte) (b : Bool) : Prop :=
      ∃ t, exec c s = .next t ∧ Claims.scanned s t code ∧ Claims.shifted s t [b]
    let does (c : Instr) (q : Dev → Prop) : Prop :=
      ∃ t, exec c s = .next t ∧ Claims.shifted s t [false] ∧ q t.dev ∧ t.dev.near.mem = d.near.mem ∧ t.dev.tiles = d.tiles ∧
        t.dev.runs = d.runs
    (∀ bits op tiles failing tgt, s.plat.boot.testMode = false →
      none' (.memrep op) 0x40#8 false ∧ none' (.tbist tiles failing) 0x41#8 false ∧ none' (.scandump bits) 0x42#8 false ∧
        none' (.fuseprog tgt) 0x43#8 false) ∧
    (s.plat.boot.testMode = true →
      (∀ op, quadDrained d (quadOfChan (memRepChan op)) = false → none' (.memrep op) 0x40#8 true) ∧
      (∀ tgt, quadDrained d (fuseQuad tgt) = false → none' (.fuseprog tgt) 0x43#8 true) ∧
      (∀ tiles failing, (∃ x ∈ tiles, quadDrained d (quadOfDie x.1) = false) → none' (.tbist tiles failing) 0x41#8 true) ∧
      (∀ g, quadDrained d (quadOfChan g) = true →
        (∀ bank row, bank < 16 → row < 4096 →
          (canRemap (chanAt d g) bank row = true → ∀ c, c = Instr.memrep (.rowRemap g bank row) ∨ c = Instr.fuseprog (.rowRemap g bank row) →
            does c (fun e => e = { startRemap s.plat.now g bank row d with out := e.out, freeCtr := e.freeCtr })) ∧
          (∀ c, c = Instr.memrep (.rowRetire g bank row) ∨ c = Instr.fuseprog (.pageRetire g bank row) →
            does c (fun e => (chanAt e g).retired.contains (row / 2) = true))) ∧
        (∀ lane, lane < 576 → (chanAt d g).spares.length < 4 →
          does (.memrep (.laneSpare g lane)) (fun e => lane ∈ (chanAt e g).spares ∧ ∀ k, k ≠ g → chanAt e k = chanAt d k)) ∧
        (∀ lane, chanState d g = .failed → regionUses d g = false →
          does (.memrep (.laneMapout g lane)) (fun e => (chanAt e g).state = .mappedOut ∧ e.near.memmapGen = d.near.memmapGen + 1#32))) ∧
      (∀ x : Nat × Nat × Nat, quadDrained d (quadOfDie x.1) = true → sound d x = true →
        does (.tbist [x] [x]) (fun e => x ∈ e.geom.repairs ∧ physNum x.1 x.2.1 x.2.2 ∈ e.geom.failed) ∧
        does (.tbist [x] []) (fun e => e = { d with out := e.out }) ∧
        does (.fuseprog (.tile x.1 x.2.1 x.2.2)) (fun e => e.geom = { d.geom with repairs := d.geom.repairs ++ [x] })) ∧
      (∀ n, ∃ t l, exec (.scandump n) s = .next t ∧ Claims.shifted s t l ∧ l.length = n ∧ t.dev.runs = [] ∧
        t.plat = { s.plat with clk := { s.plat.clk with running := false }, mgmt := { s.plat.mgmt with ir := 0x42#8, dumped := true } } ∧
        t.dev.near = d.near ∧ t.dev.tiles = d.tiles))
end

