-- ==== Sys2Proof/Laws/Table.lean ====
section
/-! SUPPORT. Tables and memories: read after write, and the canonical form that every write keeps. -/

namespace Sys2Proof.Machine

variable {α : Type}

/-! ### Reading -/

@[simp] theorem tget_nil (d : α) (n : Nat) : tget d ([] : Table α) n = d := rfl

theorem tget_tdel (d : α) (t : Table α) (k n : Nat) : tget d (tdel t k) n = if n = k then d else tget d t n := by
  induction t with
  | nil => simp [tdel, tget]
  | cons c t ih =>
    obtain ⟨a, v⟩ := c
    by_cases h : a = k
    · subst h
      by_cases hn : n = a
      · subst hn; simpa [tdel] using ih
      · simp [tdel, ih, tget, hn, Ne.symm hn]
    · by_cases hn : a = n
      · subst hn; simp [tdel, h, tget]
      · simp [tdel, h, tget, hn, ih]

/-- Below every listed number a sorted table lists nothing. -/
theorem tget_below (d : α) (t : Table α) (n : Nat) (h : ∀ c ∈ t, n < c.1) : tget d t n = d := by
  induction t with
  | nil => rfl
  | cons c t ih =>
    obtain ⟨a, v⟩ := c
    have ha : n < a := h (a, v) (by simp)
    have hne : a ≠ n := by omega
    simp only [tget, if_neg hne]
    exact ih (fun c hc => h c (by simp [hc]))

theorem tget_tins (d : α) (t : Table α) (k n : Nat) (v : α) :
    tget d (tins t k v) n = if n = k then v else tget d t n := by
  induction t with
  | nil => simp only [tins, tget]; by_cases h : k = n <;> simp [h, eq_comm]
  | cons c t ih =>
    obtain ⟨a, w⟩ := c
    by_cases h1 : k < a
    · simp only [tins, if_pos h1, tget]
      by_cases h : n = k
      · simp [h]
      · simp [h, Ne.symm h]
    · by_cases h2 : a = k
      · subst h2
        by_cases h : n = a
        · simp [tins, tget, h]
        · simp [tins, tget, h, Ne.symm h]
      · simp only [tins, if_neg h1, if_neg h2, tget, ih]
        by_cases h : n = k
        · subst h; simp [h2]
        · simp [h]

/-- Read after write. -/
theorem tget_tset [DecidableEq α] (d : α) (t : Table α) (k n : Nat) (v : α) :
    tget d (tset d t k v) n = if n = k then v else tget d t n := by
  unfold tset
  split
  · rename_i h; rw [tget_tdel]; simp [h]
  · rw [tget_tins]

@[simp] theorem tget_tset_same [DecidableEq α] (d : α) (t : Table α) (k : Nat) (v : α) : tget d (tset d t k v) k = v := by
  simp [tget_tset]

theorem tget_tset_other [DecidableEq α] (d : α) (t : Table α) {k n : Nat} (h : n ≠ k) (v : α) :
    tget d (tset d t k v) n = tget d t n := by simp [tget_tset, h]

theorem tget_tmod [DecidableEq α] (d : α) (t : Table α) (k n : Nat) (f : α → α) :
    tget d (tmod d t k f) n = if n = k then f (tget d t k) else tget d t n := by
  simp [tmod, tget_tset]

@[simp] theorem tget_tmod_same [DecidableEq α] (d : α) (t : Table α) (k : Nat) (f : α → α) :
    tget d (tmod d t k f) k = f (tget d t k) := by simp [tmod]

theorem tget_tmod_other [DecidableEq α] (d : α) (t : Table α) {k n : Nat} (h : n ≠ k) (f : α → α) :
    tget d (tmod d t k f) n = tget d t n := by simp [tget_tmod, h]

/-! ### The canonical form -/

/-- Strictly rising, said by the head. -/
theorem tsorted_cons (c : Nat × α) (t : Table α) :
    tsorted (c :: t) = true ↔ (∀ x ∈ t, c.1 < x.1) ∧ tsorted t = true := by
  induction t generalizing c with
  | nil => simp [tsorted]
  | cons e t ih =>
    obtain ⟨a, v⟩ := c
    obtain ⟨b, w⟩ := e
    simp only [tsorted, Bool.and_eq_true, decide_eq_true_eq]
    constructor
    · rintro ⟨h, hs⟩
      refine ⟨?_, hs⟩
      intro x hx
      rcases List.mem_cons.mp hx with rfl | hx
      · exact h
      · exact Nat.lt_trans h ((ih (b, w)).mp hs |>.1 x hx)
    · rintro ⟨h, hs⟩
      exact ⟨h (b, w) (by simp), hs⟩

theorem mem_tdel {t : Table α} {k : Nat} {x : Nat × α} (h : x ∈ tdel t k) : x ∈ t := by
  induction t with
  | nil => exact h
  | cons c t ih =>
    obtain ⟨a, v⟩ := c
    simp only [tdel] at h
    split at h
    · exact List.mem_cons_of_mem _ (ih h)
    · rcases List.mem_cons.mp h with rfl | h
      · simp
      · exact List.mem_cons_of_mem _ (ih h)

theorem tsorted_tdel {t : Table α} (h : tsorted t = true) (k : Nat) : tsorted (tdel t k) = true := by
  induction t with
  | nil => exact h
  | cons c t ih =>
    obtain ⟨a, v⟩ := c
    have h' := (tsorted_cons _ _).mp h
    simp only [tdel]
    split
    · exact ih h'.2
    · exact (tsorted_cons _ _).mpr ⟨fun x hx => h'.1 x (mem_tdel hx), ih h'.2⟩

theorem mem_tins {t : Table α} {k : Nat} {v : α} {x : Nat × α} (h : x ∈ tins t k v) : x = (k, v) ∨ x ∈ t := by
  induction t with
  | nil => simp only [tins, List.mem_singleton] at h; exact .inl h
  | cons c t ih =>
    obtain ⟨a, w⟩ := c
    simp only [tins] at h
    split at h
    · rcases List.mem_cons.mp h with h | h
      · exact .inl h
      · exact .inr h
    · split at h
      · rcases List.mem_cons.mp h with h | h
        · exact .inl h
        · exact .inr (List.mem_cons_of_mem _ h)
      · rcases List.mem_cons.mp h with h | h
        · exact .inr (h ▸ List.mem_cons_self)
        · rcases ih h with h | h
          · exact .inl h
          · exact .inr (List.mem_cons_of_mem _ h)

theorem tsorted_tins {t : Table α} (h : tsorted t = true) (k : Nat) (v : α) : tsorted (tins t k v) = true := by
  induction t with
  | nil => rfl
  | cons c t ih =>
    obtain ⟨a, w⟩ := c
    have h' := (tsorted_cons _ _).mp h
    simp only [tins]
    split
    · rename_i hk
      refine (tsorted_cons _ _).mpr ⟨?_, h⟩
      intro x hx
      rcases List.mem_cons.mp hx with rfl | hx
      · exact hk
      · exact Nat.lt_trans hk (h'.1 x hx)
    · split
      · rename_i hk
        exact (tsorted_cons _ _).mpr ⟨fun x hx => hk ▸ h'.1 x hx, h'.2⟩
      · rename_i h1 h2
        refine (tsorted_cons _ _).mpr ⟨?_, ih h'.2⟩
        intro x hx
        rcases mem_tins hx with rfl | hx
        · show a < k
          omega
        · exact h'.1 x hx

/-- A write keeps the canonical form. -/
theorem twf_tset [DecidableEq α] {d : α} {t : Table α} (h : twf d t = true) (k : Nat) (v : α) :
    twf d (tset d t k v) = true := by
  simp only [twf, Bool.and_eq_true, List.all_eq_true, decide_eq_true_eq] at *
  unfold tset
  split
  · exact ⟨tsorted_tdel h.1 k, fun x hx => h.2 x (mem_tdel hx)⟩
  · rename_i hv
    refine ⟨tsorted_tins h.1 k v, fun x hx => ?_⟩
    rcases mem_tins hx with rfl | hx
    · exact hv
    · exact h.2 x hx

/-- A change keeps the canonical form. -/
theorem twf_tmod [DecidableEq α] {d : α} {t : Table α} (h : twf d t = true) (k : Nat) (f : α → α) :
    twf d (tmod d t k f) = true := twf_tset h k _

/-! ### Memories -/

theorem readByte_writeByte (m : Mem) (a b : Nat) (v : Byte) :
    readByte (writeByte m a v) b = if b = a then v else readByte m b := tget_tset _ _ _ _ _

theorem wf_writeByte {m : Mem} (h : Memory.wf m = true) (a : Nat) (v : Byte) : Memory.wf (writeByte m a v) = true :=
  twf_tset h a v

/-- Writing a run of bytes keeps the canonical form. -/
theorem wf_writeBytes {m : Mem} (h : Memory.wf m = true) (a : Nat) (bs : List Byte) : Memory.wf (writeBytes m a bs) = true := by
  induction bs generalizing m a with
  | nil => exact h
  | cons b bs ih => exact ih (wf_writeByte h a b) (a + 1)

/-- What a byte reads after a run of bytes was written. -/
theorem readByte_writeBytes (m : Mem) (a b : Nat) (bs : List Byte) :
    readByte (writeBytes m a bs) b = if a ≤ b ∧ b < a + bs.length then bs.getD (b - a) 0#8 else readByte m b := by
  induction bs generalizing m a with
  | nil => simp only [writeBytes, List.length_nil]; rw [if_neg (by omega)]
  | cons c bs ih =>
    rw [writeBytes, ih, readByte_writeByte, List.length_cons]
    by_cases h1 : a + 1 ≤ b ∧ b < a + 1 + bs.length
    · rw [if_pos h1, if_pos (by omega), show b - a = (b - (a + 1)) + 1 by omega, List.getD_cons_succ]
    · rw [if_neg h1]
      by_cases h2 : b = a
      · subst h2; simp
      · rw [if_neg h2, if_neg (by omega)]

@[simp] theorem readBytes_length (m : Mem) (a n : Nat) : (readBytes m a n).length = n := by
  induction n generalizing a with
  | zero => rfl
  | succ n ih => simp [readBytes, ih]

theorem readBytes_getD (m : Mem) (a n i : Nat) (h : i < n) : (readBytes m a n).getD i 0#8 = readByte m (a + i) := by
  induction n generalizing a i with
  | zero => omega
  | succ n ih =>
    cases i with
    | zero => simp [readBytes]
    | succ i => rw [readBytes, List.getD_cons_succ, ih _ _ (by omega), show a + 1 + i = a + (i + 1) by omega]

/-! ### Little-endian numbers -/

@[simp] theorem natLe_length (n v : Nat) : (natLe n v).length = n := by
  induction n generalizing v with
  | zero => rfl
  | succ n ih => simp [natLe, ih]

/-- The number n little-endian bytes of v encode. -/
theorem leNat_natLe (n v : Nat) : leNat (natLe n v) = v % 256 ^ n := by
  induction n generalizing v with
  | zero => simp [natLe, leNat, Nat.mod_one]
  | succ n ih =>
    simp only [natLe, leNat, ih, BitVec.toNat_ofNat]
    rw [show 256 ^ (n + 1) = 256 * 256 ^ n by rw [Nat.pow_succ, Nat.mul_comm], Nat.mod_mul]

theorem leNat_lt (l : List Byte) : leNat l < 256 ^ l.length := by
  induction l with
  | nil => simp [leNat]
  | cons b l ih =>
    have hb := b.isLt
    simp only [leNat, List.length_cons, Nat.pow_succ]
    have : leNat l + 1 ≤ 256 ^ l.length := ih
    omega

end Sys2Proof.Machine
end

