-- ==== Sys2Proof/Laws/State.lean ====
section
/-! SUPPORT. Projections of the named updates of the state: one lemma per field of the device per update, each by rfl, so that no proof
unfolds a record update; and what the shared forms of a meaning answer. -/

namespace Sys2Proof.Machine

variable (d : Dev)

@[simp] theorem hostOut_geom (o : HostOut) : (hostOut o d).geom = d.geom := rfl
@[simp] theorem hostOut_fw (o : HostOut) : (hostOut o d).fw = d.fw := rfl
@[simp] theorem hostOut_spdm (o : HostOut) : (hostOut o d).spdm = d.spdm := rfl
@[simp] theorem hostOut_host (o : HostOut) : (hostOut o d).host = d.host := rfl
@[simp] theorem hostOut_graphs (o : HostOut) : (hostOut o d).graphs = d.graphs := rfl
@[simp] theorem hostOut_runs (o : HostOut) : (hostOut o d).runs = d.runs := rfl
@[simp] theorem hostOut_quads (o : HostOut) : (hostOut o d).quads = d.quads := rfl
@[simp] theorem hostOut_tiles (o : HostOut) : (hostOut o d).tiles = d.tiles := rfl
@[simp] theorem hostOut_near (o : HostOut) : (hostOut o d).near = d.near := rfl
@[simp] theorem hostOut_rng (o : HostOut) : (hostOut o d).rng = d.rng := rfl
@[simp] theorem hostOut_links (o : HostOut) : (hostOut o d).links = d.links := rfl
@[simp] theorem hostOut_obs (o : HostOut) : (hostOut o d).obs = d.obs := rfl
@[simp] theorem hostOut_oxb (o : HostOut) : (hostOut o d).oxb = d.oxb := rfl
@[simp] theorem hostOut_freeCtr (o : HostOut) : (hostOut o d).freeCtr = d.freeCtr := rfl
@[simp] theorem hostOut_out (o : HostOut) : (hostOut o d).out = { d.out with host := d.out.host ++ [o] } := rfl

@[simp] theorem onHost_geom (f : HostIf → HostIf) : (onHost f d).geom = d.geom := rfl
@[simp] theorem onHost_fw (f : HostIf → HostIf) : (onHost f d).fw = d.fw := rfl
@[simp] theorem onHost_spdm (f : HostIf → HostIf) : (onHost f d).spdm = d.spdm := rfl
@[simp] theorem onHost_host (f : HostIf → HostIf) : (onHost f d).host = f d.host := rfl
@[simp] theorem onHost_graphs (f : HostIf → HostIf) : (onHost f d).graphs = d.graphs := rfl
@[simp] theorem onHost_runs (f : HostIf → HostIf) : (onHost f d).runs = d.runs := rfl
@[simp] theorem onHost_quads (f : HostIf → HostIf) : (onHost f d).quads = d.quads := rfl
@[simp] theorem onHost_tiles (f : HostIf → HostIf) : (onHost f d).tiles = d.tiles := rfl
@[simp] theorem onHost_near (f : HostIf → HostIf) : (onHost f d).near = d.near := rfl
@[simp] theorem onHost_rng (f : HostIf → HostIf) : (onHost f d).rng = d.rng := rfl
@[simp] theorem onHost_links (f : HostIf → HostIf) : (onHost f d).links = d.links := rfl
@[simp] theorem onHost_obs (f : HostIf → HostIf) : (onHost f d).obs = d.obs := rfl
@[simp] theorem onHost_oxb (f : HostIf → HostIf) : (onHost f d).oxb = d.oxb := rfl
@[simp] theorem onHost_freeCtr (f : HostIf → HostIf) : (onHost f d).freeCtr = d.freeCtr := rfl
@[simp] theorem onHost_out (f : HostIf → HostIf) : (onHost f d).out = d.out := rfl

@[simp] theorem modRing_geom (r : Nat) (f : Ring → Ring) : (modRing r f d).geom = d.geom := rfl
@[simp] theorem modRing_fw (r : Nat) (f : Ring → Ring) : (modRing r f d).fw = d.fw := rfl
@[simp] theorem modRing_spdm (r : Nat) (f : Ring → Ring) : (modRing r f d).spdm = d.spdm := rfl
@[simp] theorem modRing_host (r : Nat) (f : Ring → Ring) : (modRing r f d).host = { d.host with rings := tmod {} d.host.rings r f } := rfl
@[simp] theorem modRing_graphs (r : Nat) (f : Ring → Ring) : (modRing r f d).graphs = d.graphs := rfl
@[simp] theorem modRing_runs (r : Nat) (f : Ring → Ring) : (modRing r f d).runs = d.runs := rfl
@[simp] theorem modRing_quads (r : Nat) (f : Ring → Ring) : (modRing r f d).quads = d.quads := rfl
@[simp] theorem modRing_tiles (r : Nat) (f : Ring → Ring) : (modRing r f d).tiles = d.tiles := rfl
@[simp] theorem modRing_near (r : Nat) (f : Ring → Ring) : (modRing r f d).near = d.near := rfl
@[simp] theorem modRing_rng (r : Nat) (f : Ring → Ring) : (modRing r f d).rng = d.rng := rfl
@[simp] theorem modRing_links (r : Nat) (f : Ring → Ring) : (modRing r f d).links = d.links := rfl
@[simp] theorem modRing_obs (r : Nat) (f : Ring → Ring) : (modRing r f d).obs = d.obs := rfl
@[simp] theorem modRing_oxb (r : Nat) (f : Ring → Ring) : (modRing r f d).oxb = d.oxb := rfl
@[simp] theorem modRing_freeCtr (r : Nat) (f : Ring → Ring) : (modRing r f d).freeCtr = d.freeCtr := rfl
@[simp] theorem modRing_out (r : Nat) (f : Ring → Ring) : (modRing r f d).out = d.out := rfl

@[simp] theorem modVec_geom (v : Nat) (f : Vector → Vector) : (modVec v f d).geom = d.geom := rfl
@[simp] theorem modVec_fw (v : Nat) (f : Vector → Vector) : (modVec v f d).fw = d.fw := rfl
@[simp] theorem modVec_spdm (v : Nat) (f : Vector → Vector) : (modVec v f d).spdm = d.spdm := rfl
@[simp] theorem modVec_host (v : Nat) (f : Vector → Vector) : (modVec v f d).host = { d.host with vec := tmod {} d.host.vec v f } := rfl
@[simp] theorem modVec_graphs (v : Nat) (f : Vector → Vector) : (modVec v f d).graphs = d.graphs := rfl
@[simp] theorem modVec_runs (v : Nat) (f : Vector → Vector) : (modVec v f d).runs = d.runs := rfl
@[simp] theorem modVec_quads (v : Nat) (f : Vector → Vector) : (modVec v f d).quads = d.quads := rfl
@[simp] theorem modVec_tiles (v : Nat) (f : Vector → Vector) : (modVec v f d).tiles = d.tiles := rfl
@[simp] theorem modVec_near (v : Nat) (f : Vector → Vector) : (modVec v f d).near = d.near := rfl
@[simp] theorem modVec_rng (v : Nat) (f : Vector → Vector) : (modVec v f d).rng = d.rng := rfl
@[simp] theorem modVec_links (v : Nat) (f : Vector → Vector) : (modVec v f d).links = d.links := rfl
@[simp] theorem modVec_obs (v : Nat) (f : Vector → Vector) : (modVec v f d).obs = d.obs := rfl
@[simp] theorem modVec_oxb (v : Nat) (f : Vector → Vector) : (modVec v f d).oxb = d.oxb := rfl
@[simp] theorem modVec_freeCtr (v : Nat) (f : Vector → Vector) : (modVec v f d).freeCtr = d.freeCtr := rfl
@[simp] theorem modVec_out (v : Nat) (f : Vector → Vector) : (modVec v f d).out = d.out := rfl

@[simp] theorem onFw_geom (f : Fw → Fw) : (onFw f d).geom = d.geom := rfl
@[simp] theorem onFw_fw (f : Fw → Fw) : (onFw f d).fw = f d.fw := rfl
@[simp] theorem onFw_spdm (f : Fw → Fw) : (onFw f d).spdm = d.spdm := rfl
@[simp] theorem onFw_host (f : Fw → Fw) : (onFw f d).host = d.host := rfl
@[simp] theorem onFw_graphs (f : Fw → Fw) : (onFw f d).graphs = d.graphs := rfl
@[simp] theorem onFw_runs (f : Fw → Fw) : (onFw f d).runs = d.runs := rfl
@[simp] theorem onFw_quads (f : Fw → Fw) : (onFw f d).quads = d.quads := rfl
@[simp] theorem onFw_tiles (f : Fw → Fw) : (onFw f d).tiles = d.tiles := rfl
@[simp] theorem onFw_near (f : Fw → Fw) : (onFw f d).near = d.near := rfl
@[simp] theorem onFw_rng (f : Fw → Fw) : (onFw f d).rng = d.rng := rfl
@[simp] theorem onFw_links (f : Fw → Fw) : (onFw f d).links = d.links := rfl
@[simp] theorem onFw_obs (f : Fw → Fw) : (onFw f d).obs = d.obs := rfl
@[simp] theorem onFw_oxb (f : Fw → Fw) : (onFw f d).oxb = d.oxb := rfl
@[simp] theorem onFw_freeCtr (f : Fw → Fw) : (onFw f d).freeCtr = d.freeCtr := rfl
@[simp] theorem onFw_out (f : Fw → Fw) : (onFw f d).out = d.out := rfl

@[simp] theorem onNear_geom (f : Near → Near) : (onNear f d).geom = d.geom := rfl
@[simp] theorem onNear_fw (f : Near → Near) : (onNear f d).fw = d.fw := rfl
@[simp] theorem onNear_spdm (f : Near → Near) : (onNear f d).spdm = d.spdm := rfl
@[simp] theorem onNear_host (f : Near → Near) : (onNear f d).host = d.host := rfl
@[simp] theorem onNear_graphs (f : Near → Near) : (onNear f d).graphs = d.graphs := rfl
@[simp] theorem onNear_runs (f : Near → Near) : (onNear f d).runs = d.runs := rfl
@[simp] theorem onNear_quads (f : Near → Near) : (onNear f d).quads = d.quads := rfl
@[simp] theorem onNear_tiles (f : Near → Near) : (onNear f d).tiles = d.tiles := rfl
@[simp] theorem onNear_near (f : Near → Near) : (onNear f d).near = f d.near := rfl
@[simp] theorem onNear_rng (f : Near → Near) : (onNear f d).rng = d.rng := rfl
@[simp] theorem onNear_links (f : Near → Near) : (onNear f d).links = d.links := rfl
@[simp] theorem onNear_obs (f : Near → Near) : (onNear f d).obs = d.obs := rfl
@[simp] theorem onNear_oxb (f : Near → Near) : (onNear f d).oxb = d.oxb := rfl
@[simp] theorem onNear_freeCtr (f : Near → Near) : (onNear f d).freeCtr = d.freeCtr := rfl
@[simp] theorem onNear_out (f : Near → Near) : (onNear f d).out = d.out := rfl

@[simp] theorem modChan_geom (g : Nat) (f : Chan → Chan) : (modChan g f d).geom = d.geom := rfl
@[simp] theorem modChan_fw (g : Nat) (f : Chan → Chan) : (modChan g f d).fw = d.fw := rfl
@[simp] theorem modChan_spdm (g : Nat) (f : Chan → Chan) : (modChan g f d).spdm = d.spdm := rfl
@[simp] theorem modChan_host (g : Nat) (f : Chan → Chan) : (modChan g f d).host = d.host := rfl
@[simp] theorem modChan_graphs (g : Nat) (f : Chan → Chan) : (modChan g f d).graphs = d.graphs := rfl
@[simp] theorem modChan_runs (g : Nat) (f : Chan → Chan) : (modChan g f d).runs = d.runs := rfl
@[simp] theorem modChan_quads (g : Nat) (f : Chan → Chan) : (modChan g f d).quads = d.quads := rfl
@[simp] theorem modChan_tiles (g : Nat) (f : Chan → Chan) : (modChan g f d).tiles = d.tiles := rfl
@[simp] theorem modChan_rng (g : Nat) (f : Chan → Chan) : (modChan g f d).rng = d.rng := rfl
@[simp] theorem modChan_links (g : Nat) (f : Chan → Chan) : (modChan g f d).links = d.links := rfl
@[simp] theorem modChan_obs (g : Nat) (f : Chan → Chan) : (modChan g f d).obs = d.obs := rfl
@[simp] theorem modChan_oxb (g : Nat) (f : Chan → Chan) : (modChan g f d).oxb = d.oxb := rfl
@[simp] theorem modChan_freeCtr (g : Nat) (f : Chan → Chan) : (modChan g f d).freeCtr = d.freeCtr := rfl
@[simp] theorem modChan_out (g : Nat) (f : Chan → Chan) : (modChan g f d).out = d.out := rfl

@[simp] theorem modQuad_geom (q : Nat) (f : Quad → Quad) : (modQuad q f d).geom = d.geom := rfl
@[simp] theorem modQuad_fw (q : Nat) (f : Quad → Quad) : (modQuad q f d).fw = d.fw := rfl
@[simp] theorem modQuad_spdm (q : Nat) (f : Quad → Quad) : (modQuad q f d).spdm = d.spdm := rfl
@[simp] theorem modQuad_host (q : Nat) (f : Quad → Quad) : (modQuad q f d).host = d.host := rfl
@[simp] theorem modQuad_graphs (q : Nat) (f : Quad → Quad) : (modQuad q f d).graphs = d.graphs := rfl
@[simp] theorem modQuad_runs (q : Nat) (f : Quad → Quad) : (modQuad q f d).runs = d.runs := rfl
@[simp] theorem modQuad_quads (q : Nat) (f : Quad → Quad) : (modQuad q f d).quads = tmod {} d.quads q f := rfl
@[simp] theorem modQuad_tiles (q : Nat) (f : Quad → Quad) : (modQuad q f d).tiles = d.tiles := rfl
@[simp] theorem modQuad_near (q : Nat) (f : Quad → Quad) : (modQuad q f d).near = d.near := rfl
@[simp] theorem modQuad_rng (q : Nat) (f : Quad → Quad) : (modQuad q f d).rng = d.rng := rfl
@[simp] theorem modQuad_links (q : Nat) (f : Quad → Quad) : (modQuad q f d).links = d.links := rfl
@[simp] theorem modQuad_obs (q : Nat) (f : Quad → Quad) : (modQuad q f d).obs = d.obs := rfl
@[simp] theorem modQuad_oxb (q : Nat) (f : Quad → Quad) : (modQuad q f d).oxb = d.oxb := rfl
@[simp] theorem modQuad_freeCtr (q : Nat) (f : Quad → Quad) : (modQuad q f d).freeCtr = d.freeCtr := rfl
@[simp] theorem modQuad_out (q : Nat) (f : Quad → Quad) : (modQuad q f d).out = d.out := rfl

@[simp] theorem modGraph_geom (h : Nat) (f : Graph → Graph) : (modGraph h f d).geom = d.geom := rfl
@[simp] theorem modGraph_fw (h : Nat) (f : Graph → Graph) : (modGraph h f d).fw = d.fw := rfl
@[simp] theorem modGraph_spdm (h : Nat) (f : Graph → Graph) : (modGraph h f d).spdm = d.spdm := rfl
@[simp] theorem modGraph_host (h : Nat) (f : Graph → Graph) : (modGraph h f d).host = d.host := rfl
@[simp] theorem modGraph_graphs (h : Nat) (f : Graph → Graph) : (modGraph h f d).graphs = tmod {} d.graphs h f := rfl
@[simp] theorem modGraph_runs (h : Nat) (f : Graph → Graph) : (modGraph h f d).runs = d.runs := rfl
@[simp] theorem modGraph_quads (h : Nat) (f : Graph → Graph) : (modGraph h f d).quads = d.quads := rfl
@[simp] theorem modGraph_tiles (h : Nat) (f : Graph → Graph) : (modGraph h f d).tiles = d.tiles := rfl
@[simp] theorem modGraph_near (h : Nat) (f : Graph → Graph) : (modGraph h f d).near = d.near := rfl
@[simp] theorem modGraph_rng (h : Nat) (f : Graph → Graph) : (modGraph h f d).rng = d.rng := rfl
@[simp] theorem modGraph_links (h : Nat) (f : Graph → Graph) : (modGraph h f d).links = d.links := rfl
@[simp] theorem modGraph_obs (h : Nat) (f : Graph → Graph) : (modGraph h f d).obs = d.obs := rfl
@[simp] theorem modGraph_oxb (h : Nat) (f : Graph → Graph) : (modGraph h f d).oxb = d.oxb := rfl
@[simp] theorem modGraph_freeCtr (h : Nat) (f : Graph → Graph) : (modGraph h f d).freeCtr = d.freeCtr := rfl
@[simp] theorem modGraph_out (h : Nat) (f : Graph → Graph) : (modGraph h f d).out = d.out := rfl

@[simp] theorem modRun_geom (h : Nat) (f : Run → Run) : (modRun h f d).geom = d.geom := rfl
@[simp] theorem modRun_fw (h : Nat) (f : Run → Run) : (modRun h f d).fw = d.fw := rfl
@[simp] theorem modRun_spdm (h : Nat) (f : Run → Run) : (modRun h f d).spdm = d.spdm := rfl
@[simp] theorem modRun_host (h : Nat) (f : Run → Run) : (modRun h f d).host = d.host := rfl
@[simp] theorem modRun_graphs (h : Nat) (f : Run → Run) : (modRun h f d).graphs = d.graphs := rfl
@[simp] theorem modRun_runs (h : Nat) (f : Run → Run) : (modRun h f d).runs = d.runs.map (fun r => if r.started && r.handle == h then f r else r) := rfl
@[simp] theorem modRun_quads (h : Nat) (f : Run → Run) : (modRun h f d).quads = d.quads := rfl
@[simp] theorem modRun_tiles (h : Nat) (f : Run → Run) : (modRun h f d).tiles = d.tiles := rfl
@[simp] theorem modRun_near (h : Nat) (f : Run → Run) : (modRun h f d).near = d.near := rfl
@[simp] theorem modRun_rng (h : Nat) (f : Run → Run) : (modRun h f d).rng = d.rng := rfl
@[simp] theorem modRun_links (h : Nat) (f : Run → Run) : (modRun h f d).links = d.links := rfl
@[simp] theorem modRun_obs (h : Nat) (f : Run → Run) : (modRun h f d).obs = d.obs := rfl
@[simp] theorem modRun_oxb (h : Nat) (f : Run → Run) : (modRun h f d).oxb = d.oxb := rfl
@[simp] theorem modRun_freeCtr (h : Nat) (f : Run → Run) : (modRun h f d).freeCtr = d.freeCtr := rfl
@[simp] theorem modRun_out (h : Nat) (f : Run → Run) : (modRun h f d).out = d.out := rfl

@[simp] theorem modTask_geom (h t : Nat) (f : TaskRun → TaskRun) : (modTask h t f d).geom = d.geom := rfl
@[simp] theorem modTask_fw (h t : Nat) (f : TaskRun → TaskRun) : (modTask h t f d).fw = d.fw := rfl
@[simp] theorem modTask_spdm (h t : Nat) (f : TaskRun → TaskRun) : (modTask h t f d).spdm = d.spdm := rfl
@[simp] theorem modTask_host (h t : Nat) (f : TaskRun → TaskRun) : (modTask h t f d).host = d.host := rfl
@[simp] theorem modTask_graphs (h t : Nat) (f : TaskRun → TaskRun) : (modTask h t f d).graphs = d.graphs := rfl
@[simp] theorem modTask_quads (h t : Nat) (f : TaskRun → TaskRun) : (modTask h t f d).quads = d.quads := rfl
@[simp] theorem modTask_tiles (h t : Nat) (f : TaskRun → TaskRun) : (modTask h t f d).tiles = d.tiles := rfl
@[simp] theorem modTask_near (h t : Nat) (f : TaskRun → TaskRun) : (modTask h t f d).near = d.near := rfl
@[simp] theorem modTask_rng (h t : Nat) (f : TaskRun → TaskRun) : (modTask h t f d).rng = d.rng := rfl
@[simp] theorem modTask_links (h t : Nat) (f : TaskRun → TaskRun) : (modTask h t f d).links = d.links := rfl
@[simp] theorem modTask_obs (h t : Nat) (f : TaskRun → TaskRun) : (modTask h t f d).obs = d.obs := rfl
@[simp] theorem modTask_oxb (h t : Nat) (f : TaskRun → TaskRun) : (modTask h t f d).oxb = d.oxb := rfl
@[simp] theorem modTask_freeCtr (h t : Nat) (f : TaskRun → TaskRun) : (modTask h t f d).freeCtr = d.freeCtr := rfl
@[simp] theorem modTask_out (h t : Nat) (f : TaskRun → TaskRun) : (modTask h t f d).out = d.out := rfl

@[simp] theorem modWork_geom (h t : Nat) (f : Work → Work) : (modWork h t f d).geom = d.geom := rfl
@[simp] theorem modWork_fw (h t : Nat) (f : Work → Work) : (modWork h t f d).fw = d.fw := rfl
@[simp] theorem modWork_spdm (h t : Nat) (f : Work → Work) : (modWork h t f d).spdm = d.spdm := rfl
@[simp] theorem modWork_host (h t : Nat) (f : Work → Work) : (modWork h t f d).host = d.host := rfl
@[simp] theorem modWork_graphs (h t : Nat) (f : Work → Work) : (modWork h t f d).graphs = d.graphs := rfl
@[simp] theorem modWork_quads (h t : Nat) (f : Work → Work) : (modWork h t f d).quads = d.quads := rfl
@[simp] theorem modWork_tiles (h t : Nat) (f : Work → Work) : (modWork h t f d).tiles = d.tiles := rfl
@[simp] theorem modWork_near (h t : Nat) (f : Work → Work) : (modWork h t f d).near = d.near := rfl
@[simp] theorem modWork_rng (h t : Nat) (f : Work → Work) : (modWork h t f d).rng = d.rng := rfl
@[simp] theorem modWork_links (h t : Nat) (f : Work → Work) : (modWork h t f d).links = d.links := rfl
@[simp] theorem modWork_obs (h t : Nat) (f : Work → Work) : (modWork h t f d).obs = d.obs := rfl
@[simp] theorem modWork_oxb (h t : Nat) (f : Work → Work) : (modWork h t f d).oxb = d.oxb := rfl
@[simp] theorem modWork_freeCtr (h t : Nat) (f : Work → Work) : (modWork h t f d).freeCtr = d.freeCtr := rfl
@[simp] theorem modWork_out (h t : Nat) (f : Work → Work) : (modWork h t f d).out = d.out := rfl

@[simp] theorem modLock_geom (h : Nat) (f : Lock → Lock) : (modLock h f d).geom = d.geom := rfl
@[simp] theorem modLock_fw (h : Nat) (f : Lock → Lock) : (modLock h f d).fw = d.fw := rfl
@[simp] theorem modLock_spdm (h : Nat) (f : Lock → Lock) : (modLock h f d).spdm = d.spdm := rfl
@[simp] theorem modLock_host (h : Nat) (f : Lock → Lock) : (modLock h f d).host = d.host := rfl
@[simp] theorem modLock_graphs (h : Nat) (f : Lock → Lock) : (modLock h f d).graphs = d.graphs := rfl
@[simp] theorem modLock_quads (h : Nat) (f : Lock → Lock) : (modLock h f d).quads = d.quads := rfl
@[simp] theorem modLock_tiles (h : Nat) (f : Lock → Lock) : (modLock h f d).tiles = d.tiles := rfl
@[simp] theorem modLock_near (h : Nat) (f : Lock → Lock) : (modLock h f d).near = d.near := rfl
@[simp] theorem modLock_rng (h : Nat) (f : Lock → Lock) : (modLock h f d).rng = d.rng := rfl
@[simp] theorem modLock_links (h : Nat) (f : Lock → Lock) : (modLock h f d).links = d.links := rfl
@[simp] theorem modLock_obs (h : Nat) (f : Lock → Lock) : (modLock h f d).obs = d.obs := rfl
@[simp] theorem modLock_oxb (h : Nat) (f : Lock → Lock) : (modLock h f d).oxb = d.oxb := rfl
@[simp] theorem modLock_freeCtr (h : Nat) (f : Lock → Lock) : (modLock h f d).freeCtr = d.freeCtr := rfl
@[simp] theorem modLock_out (h : Nat) (f : Lock → Lock) : (modLock h f d).out = d.out := rfl

@[simp] theorem modTile_geom (k : Nat) (f : Tile → Tile) : (modTile k f d).geom = d.geom := rfl
@[simp] theorem modTile_fw (k : Nat) (f : Tile → Tile) : (modTile k f d).fw = d.fw := rfl
@[simp] theorem modTile_spdm (k : Nat) (f : Tile → Tile) : (modTile k f d).spdm = d.spdm := rfl
@[simp] theorem modTile_host (k : Nat) (f : Tile → Tile) : (modTile k f d).host = d.host := rfl
@[simp] theorem modTile_graphs (k : Nat) (f : Tile → Tile) : (modTile k f d).graphs = d.graphs := rfl
@[simp] theorem modTile_runs (k : Nat) (f : Tile → Tile) : (modTile k f d).runs = d.runs := rfl
@[simp] theorem modTile_quads (k : Nat) (f : Tile → Tile) : (modTile k f d).quads = d.quads := rfl
@[simp] theorem modTile_tiles (k : Nat) (f : Tile → Tile) : (modTile k f d).tiles = tmod {} d.tiles k f := rfl
@[simp] theorem modTile_near (k : Nat) (f : Tile → Tile) : (modTile k f d).near = d.near := rfl
@[simp] theorem modTile_rng (k : Nat) (f : Tile → Tile) : (modTile k f d).rng = d.rng := rfl
@[simp] theorem modTile_links (k : Nat) (f : Tile → Tile) : (modTile k f d).links = d.links := rfl
@[simp] theorem modTile_obs (k : Nat) (f : Tile → Tile) : (modTile k f d).obs = d.obs := rfl
@[simp] theorem modTile_oxb (k : Nat) (f : Tile → Tile) : (modTile k f d).oxb = d.oxb := rfl
@[simp] theorem modTile_freeCtr (k : Nat) (f : Tile → Tile) : (modTile k f d).freeCtr = d.freeCtr := rfl
@[simp] theorem modTile_out (k : Nat) (f : Tile → Tile) : (modTile k f d).out = d.out := rfl

@[simp] theorem modPort_geom (p : Nat) (f : Port → Port) : (modPort p f d).geom = d.geom := rfl
@[simp] theorem modPort_fw (p : Nat) (f : Port → Port) : (modPort p f d).fw = d.fw := rfl
@[simp] theorem modPort_spdm (p : Nat) (f : Port → Port) : (modPort p f d).spdm = d.spdm := rfl
@[simp] theorem modPort_host (p : Nat) (f : Port → Port) : (modPort p f d).host = d.host := rfl
@[simp] theorem modPort_graphs (p : Nat) (f : Port → Port) : (modPort p f d).graphs = d.graphs := rfl
@[simp] theorem modPort_runs (p : Nat) (f : Port → Port) : (modPort p f d).runs = d.runs := rfl
@[simp] theorem modPort_quads (p : Nat) (f : Port → Port) : (modPort p f d).quads = d.quads := rfl
@[simp] theorem modPort_tiles (p : Nat) (f : Port → Port) : (modPort p f d).tiles = d.tiles := rfl
@[simp] theorem modPort_near (p : Nat) (f : Port → Port) : (modPort p f d).near = d.near := rfl
@[simp] theorem modPort_rng (p : Nat) (f : Port → Port) : (modPort p f d).rng = d.rng := rfl
@[simp] theorem modPort_links (p : Nat) (f : Port → Port) : (modPort p f d).links = { d.links with ports := tmod {} d.links.ports p f } := rfl
@[simp] theorem modPort_obs (p : Nat) (f : Port → Port) : (modPort p f d).obs = d.obs := rfl
@[simp] theorem modPort_oxb (p : Nat) (f : Port → Port) : (modPort p f d).oxb = d.oxb := rfl
@[simp] theorem modPort_freeCtr (p : Nat) (f : Port → Port) : (modPort p f d).freeCtr = d.freeCtr := rfl
@[simp] theorem modPort_out (p : Nat) (f : Port → Port) : (modPort p f d).out = d.out := rfl

@[simp] theorem onOxb_geom (f : Oxb → Oxb) : (onOxb f d).geom = d.geom := rfl
@[simp] theorem onOxb_fw (f : Oxb → Oxb) : (onOxb f d).fw = d.fw := rfl
@[simp] theorem onOxb_spdm (f : Oxb → Oxb) : (onOxb f d).spdm = d.spdm := rfl
@[simp] theorem onOxb_host (f : Oxb → Oxb) : (onOxb f d).host = d.host := rfl
@[simp] theorem onOxb_graphs (f : Oxb → Oxb) : (onOxb f d).graphs = d.graphs := rfl
@[simp] theorem onOxb_runs (f : Oxb → Oxb) : (onOxb f d).runs = d.runs := rfl
@[simp] theorem onOxb_quads (f : Oxb → Oxb) : (onOxb f d).quads = d.quads := rfl
@[simp] theorem onOxb_tiles (f : Oxb → Oxb) : (onOxb f d).tiles = d.tiles := rfl
@[simp] theorem onOxb_near (f : Oxb → Oxb) : (onOxb f d).near = d.near := rfl
@[simp] theorem onOxb_rng (f : Oxb → Oxb) : (onOxb f d).rng = d.rng := rfl
@[simp] theorem onOxb_links (f : Oxb → Oxb) : (onOxb f d).links = d.links := rfl
@[simp] theorem onOxb_obs (f : Oxb → Oxb) : (onOxb f d).obs = d.obs := rfl
@[simp] theorem onOxb_oxb (f : Oxb → Oxb) : (onOxb f d).oxb = f d.oxb := rfl
@[simp] theorem onOxb_freeCtr (f : Oxb → Oxb) : (onOxb f d).freeCtr = d.freeCtr := rfl
@[simp] theorem onOxb_out (f : Oxb → Oxb) : (onOxb f d).out = d.out := rfl

@[simp] theorem modSnap_geom (f : Snap → Snap) : (modSnap f d).geom = d.geom := rfl
@[simp] theorem modSnap_fw (f : Snap → Snap) : (modSnap f d).fw = d.fw := rfl
@[simp] theorem modSnap_spdm (f : Snap → Snap) : (modSnap f d).spdm = d.spdm := rfl
@[simp] theorem modSnap_host (f : Snap → Snap) : (modSnap f d).host = d.host := rfl
@[simp] theorem modSnap_graphs (f : Snap → Snap) : (modSnap f d).graphs = d.graphs := rfl
@[simp] theorem modSnap_runs (f : Snap → Snap) : (modSnap f d).runs = d.runs := rfl
@[simp] theorem modSnap_quads (f : Snap → Snap) : (modSnap f d).quads = d.quads := rfl
@[simp] theorem modSnap_tiles (f : Snap → Snap) : (modSnap f d).tiles = d.tiles := rfl
@[simp] theorem modSnap_near (f : Snap → Snap) : (modSnap f d).near = d.near := rfl
@[simp] theorem modSnap_rng (f : Snap → Snap) : (modSnap f d).rng = d.rng := rfl
@[simp] theorem modSnap_links (f : Snap → Snap) : (modSnap f d).links = d.links := rfl
@[simp] theorem modSnap_obs (f : Snap → Snap) : (modSnap f d).obs = d.obs := rfl
@[simp] theorem modSnap_freeCtr (f : Snap → Snap) : (modSnap f d).freeCtr = d.freeCtr := rfl
@[simp] theorem modSnap_out (f : Snap → Snap) : (modSnap f d).out = d.out := rfl

@[simp] theorem onLs_geom (f : Ls → Ls) : (onLs f d).geom = d.geom := rfl
@[simp] theorem onLs_fw (f : Ls → Ls) : (onLs f d).fw = d.fw := rfl
@[simp] theorem onLs_spdm (f : Ls → Ls) : (onLs f d).spdm = d.spdm := rfl
@[simp] theorem onLs_host (f : Ls → Ls) : (onLs f d).host = d.host := rfl
@[simp] theorem onLs_graphs (f : Ls → Ls) : (onLs f d).graphs = d.graphs := rfl
@[simp] theorem onLs_runs (f : Ls → Ls) : (onLs f d).runs = d.runs := rfl
@[simp] theorem onLs_quads (f : Ls → Ls) : (onLs f d).quads = d.quads := rfl
@[simp] theorem onLs_tiles (f : Ls → Ls) : (onLs f d).tiles = d.tiles := rfl
@[simp] theorem onLs_near (f : Ls → Ls) : (onLs f d).near = d.near := rfl
@[simp] theorem onLs_rng (f : Ls → Ls) : (onLs f d).rng = d.rng := rfl
@[simp] theorem onLs_links (f : Ls → Ls) : (onLs f d).links = d.links := rfl
@[simp] theorem onLs_obs (f : Ls → Ls) : (onLs f d).obs = { d.obs with ls := f d.obs.ls } := rfl
@[simp] theorem onLs_oxb (f : Ls → Ls) : (onLs f d).oxb = d.oxb := rfl
@[simp] theorem onLs_freeCtr (f : Ls → Ls) : (onLs f d).freeCtr = d.freeCtr := rfl
@[simp] theorem onLs_out (f : Ls → Ls) : (onLs f d).out = d.out := rfl

@[simp] theorem doeOut_geom (m : List Byte) : (doeOut m d).geom = d.geom := rfl
@[simp] theorem doeOut_fw (m : List Byte) : (doeOut m d).fw = d.fw := rfl
@[simp] theorem doeOut_spdm (m : List Byte) : (doeOut m d).spdm = d.spdm := rfl
@[simp] theorem doeOut_host (m : List Byte) : (doeOut m d).host = d.host := rfl
@[simp] theorem doeOut_graphs (m : List Byte) : (doeOut m d).graphs = d.graphs := rfl
@[simp] theorem doeOut_runs (m : List Byte) : (doeOut m d).runs = d.runs := rfl
@[simp] theorem doeOut_quads (m : List Byte) : (doeOut m d).quads = d.quads := rfl
@[simp] theorem doeOut_tiles (m : List Byte) : (doeOut m d).tiles = d.tiles := rfl
@[simp] theorem doeOut_near (m : List Byte) : (doeOut m d).near = d.near := rfl
@[simp] theorem doeOut_rng (m : List Byte) : (doeOut m d).rng = d.rng := rfl
@[simp] theorem doeOut_links (m : List Byte) : (doeOut m d).links = d.links := rfl
@[simp] theorem doeOut_obs (m : List Byte) : (doeOut m d).obs = d.obs := rfl
@[simp] theorem doeOut_oxb (m : List Byte) : (doeOut m d).oxb = d.oxb := rfl
@[simp] theorem doeOut_freeCtr (m : List Byte) : (doeOut m d).freeCtr = d.freeCtr := rfl
@[simp] theorem doeOut_out (m : List Byte) : (doeOut m d).out = { d.out with doe := d.out.doe ++ [m] } := rfl

@[simp] theorem nvmeOut_geom (x : NvmeOut) : (nvmeOut x d).geom = d.geom := rfl
@[simp] theorem nvmeOut_fw (x : NvmeOut) : (nvmeOut x d).fw = d.fw := rfl
@[simp] theorem nvmeOut_spdm (x : NvmeOut) : (nvmeOut x d).spdm = d.spdm := rfl
@[simp] theorem nvmeOut_host (x : NvmeOut) : (nvmeOut x d).host = d.host := rfl
@[simp] theorem nvmeOut_graphs (x : NvmeOut) : (nvmeOut x d).graphs = d.graphs := rfl
@[simp] theorem nvmeOut_runs (x : NvmeOut) : (nvmeOut x d).runs = d.runs := rfl
@[simp] theorem nvmeOut_quads (x : NvmeOut) : (nvmeOut x d).quads = d.quads := rfl
@[simp] theorem nvmeOut_tiles (x : NvmeOut) : (nvmeOut x d).tiles = d.tiles := rfl
@[simp] theorem nvmeOut_near (x : NvmeOut) : (nvmeOut x d).near = d.near := rfl
@[simp] theorem nvmeOut_rng (x : NvmeOut) : (nvmeOut x d).rng = d.rng := rfl
@[simp] theorem nvmeOut_links (x : NvmeOut) : (nvmeOut x d).links = d.links := rfl
@[simp] theorem nvmeOut_obs (x : NvmeOut) : (nvmeOut x d).obs = d.obs := rfl
@[simp] theorem nvmeOut_oxb (x : NvmeOut) : (nvmeOut x d).oxb = d.oxb := rfl
@[simp] theorem nvmeOut_freeCtr (x : NvmeOut) : (nvmeOut x d).freeCtr = d.freeCtr := rfl
@[simp] theorem nvmeOut_out (x : NvmeOut) : (nvmeOut x d).out = { d.out with nvme := d.out.nvme ++ [x] } := rfl

@[simp] theorem tdo_geom (l : List Bool) : (tdo l d).geom = d.geom := rfl
@[simp] theorem tdo_fw (l : List Bool) : (tdo l d).fw = d.fw := rfl
@[simp] theorem tdo_spdm (l : List Bool) : (tdo l d).spdm = d.spdm := rfl
@[simp] theorem tdo_host (l : List Bool) : (tdo l d).host = d.host := rfl
@[simp] theorem tdo_graphs (l : List Bool) : (tdo l d).graphs = d.graphs := rfl
@[simp] theorem tdo_runs (l : List Bool) : (tdo l d).runs = d.runs := rfl
@[simp] theorem tdo_quads (l : List Bool) : (tdo l d).quads = d.quads := rfl
@[simp] theorem tdo_tiles (l : List Bool) : (tdo l d).tiles = d.tiles := rfl
@[simp] theorem tdo_near (l : List Bool) : (tdo l d).near = d.near := rfl
@[simp] theorem tdo_rng (l : List Bool) : (tdo l d).rng = d.rng := rfl
@[simp] theorem tdo_links (l : List Bool) : (tdo l d).links = d.links := rfl
@[simp] theorem tdo_obs (l : List Bool) : (tdo l d).obs = d.obs := rfl
@[simp] theorem tdo_oxb (l : List Bool) : (tdo l d).oxb = d.oxb := rfl
@[simp] theorem tdo_freeCtr (l : List Bool) : (tdo l d).freeCtr = d.freeCtr := rfl
@[simp] theorem tdo_out (l : List Bool) : (tdo l d).out = { d.out with jtag := d.out.jtag ++ l } := rfl

@[simp] theorem mgmt_onMgmt (p : Plat) (f : Mgmt → Mgmt) : (onMgmt f p).mgmt = f p.mgmt := rfl
@[simp] theorem clk_onMgmt (p : Plat) (f : Mgmt → Mgmt) : (onMgmt f p).clk = p.clk := rfl
@[simp] theorem sup_onMgmt (p : Plat) (f : Mgmt → Mgmt) : (onMgmt f p).sup = p.sup := rfl
@[simp] theorem therm_onMgmt (p : Plat) (f : Mgmt → Mgmt) : (onMgmt f p).therm = p.therm := rfl
@[simp] theorem boot_onMgmt (p : Plat) (f : Mgmt → Mgmt) : (onMgmt f p).boot = p.boot := rfl

/-! ### What a meaning answers -/

/-- A command on the device answers a next state that differs in the device alone. -/
theorem onDev_eq (s : State) (f : Plat → Dev → Dev) : onDev s f = .next { s with dev := f s.plat s.dev } := rfl

/-- A command on the platform answers a next state that differs in the platform alone. -/
theorem onPlat_eq (s : State) (f : Plat → Plat) : onPlat s f = .next { s with plat := f s.plat } := rfl

/-- A command on both answers a next state with the same queue. -/
theorem onBoth_eq (s : State) (f : Plat × Dev → Plat × Dev) :
    onBoth s f = .next { s with plat := (f (s.plat, s.dev)).1, dev := (f (s.plat, s.dev)).2 } := rfl

/-! ### Reading back through the accessors -/

@[simp] theorem tileAt_modTile_same (k : Nat) (f : Tile → Tile) : tileAt (modTile k f d) k = f (tileAt d k) := by
  simp [tileAt]

theorem tileAt_modTile_other {k j : Nat} (h : j ≠ k) (f : Tile → Tile) : tileAt (modTile k f d) j = tileAt d j := by
  simp [tileAt, tget_tmod_other _ _ h]

@[simp] theorem ringAt_modRing_same (r : Nat) (f : Ring → Ring) : ringAt (modRing r f d) r = f (ringAt d r) := by
  simp [ringAt]

theorem ringAt_modRing_other {r q : Nat} (h : q ≠ r) (f : Ring → Ring) : ringAt (modRing r f d) q = ringAt d q := by
  simp [ringAt, tget_tmod_other _ _ h]

@[simp] theorem vecAt_modVec_same (v : Nat) (f : Vector → Vector) : vecAt (modVec v f d) v = f (vecAt d v) := by
  simp [vecAt]

@[simp] theorem ringAt_modVec (v r : Nat) (f : Vector → Vector) : ringAt (modVec v f d) r = ringAt d r := rfl
@[simp] theorem ringAt_hostOut (o : HostOut) (r : Nat) : ringAt (hostOut o d) r = ringAt d r := rfl
@[simp] theorem vecAt_hostOut (o : HostOut) (v : Nat) : vecAt (hostOut o d) v = vecAt d v := rfl
@[simp] theorem vecAt_modRing (r v : Nat) (f : Ring → Ring) : vecAt (modRing r f d) v = vecAt d v := rfl

@[simp] theorem graphAt_modGraph_same (h : Nat) (f : Graph → Graph) : graphAt (modGraph h f d) h = f (graphAt d h) := by
  simp [graphAt]

@[simp] theorem quadAt_modQuad_same (q : Nat) (f : Quad → Quad) : quadAt (modQuad q f d) q = f (quadAt d q) := by
  simp [quadAt]

@[simp] theorem portAt_modPort_same (p : Nat) (f : Port → Port) : portAt (modPort p f d) p = f (portAt d p) := by
  simp [portAt]

theorem portAt_modPort_other {p q : Nat} (h : q ≠ p) (f : Port → Port) : portAt (modPort p f d) q = portAt d q := by
  simp [portAt, tget_tmod_other _ _ h]

@[simp] theorem chanAt_modChan_same (g : Nat) (f : Chan → Chan) : chanAt (modChan g f d) g = f (chanAt d g) := by
  simp [chanAt, modChan]

theorem chanAt_modChan_other {g k : Nat} (h : k ≠ g) (f : Chan → Chan) : chanAt (modChan g f d) k = chanAt d k := by
  simp [chanAt, modChan, tget_tmod_other _ _ h]

end Sys2Proof.Machine
end

