-- ==== Sys2Proof/Laws/Tile.lean ====
section
/-! SUPPORT. What issuing a tile instruction does, said once: which fields of the tile the sequencer and the interlocks change, and what a
write to local SRAM leaves. -/

namespace Sys2Proof.Machine

/-! ### Fields that issue changes -/

/-- Recording when slots are final changes nothing else of a tile. -/
theorem onSlots_eq (arr slot n : Nat) (f : SlotTime → SlotTime) (t : Tile) :
    t.onSlots arr slot n f = { t with slotTimes := (t.onSlots arr slot n f).slotTimes } := rfl

theorem foldl_onSlots_eq (slot k : Nat) (f : SlotTime → SlotTime) (l : List Nat) (t : Tile) :
    l.foldl (fun t a => t.onSlots a slot k f) t =
      { t with slotTimes := (l.foldl (fun t a => t.onSlots a slot k f) t).slotTimes } := by
  induction l generalizing t with
  | nil => rfl
  | cons a l ih => rw [List.foldl_cons, ih]; rfl

theorem slotsIssue_eq (cyc : Nat) (ws : List W64) (t : Tile) :
    slotsIssue cyc ws t = { t with slotTimes := (slotsIssue cyc ws t).slotTimes } := by
  unfold slotsIssue
  simp only
  repeat' split
  all_goals first
    | rfl
    | exact foldl_onSlots_eq _ _ _ _ _

/-- What an instruction asks the banks for changes the jobs alone. -/
theorem addJob_eq (j : Job) (t : Tile) : t.addJob j = { t with jobs := (t.addJob j).jobs } := by
  unfold Tile.addJob
  split <;> rfl

/-- Occupying units and ranges changes the tile's time-keeping alone. -/
theorem occupy_eq (cyc : Nat) (ws : List W64) (l : List Access) (t : Tile) :
    occupy cyc ws l t = { t with
      unitFree := (occupy cyc ws l t).unitFree, flights := (occupy cyc ws l t).flights, jobs := (occupy cyc ws l t).jobs,
      slotTimes := (occupy cyc ws l t).slotTimes } := by
  unfold occupy
  simp only
  rw [slotsIssue_eq, addJob_eq]
  split <;> rfl

/-- Counting corrected words changes the counter alone. -/
theorem countRead_eq (a n : Nat) (t : Tile) : t.countRead a n = { t with corrected := (t.countRead a n).corrected } := by
  unfold Tile.countRead
  split <;> rfl

theorem countFetch_eq (n : Nat) (t : Tile) : t.countFetch n = { t with corrected := (t.countFetch n).corrected } := by
  unfold Tile.countFetch
  split <;> rfl

theorem foldl_countRead_eq (l : List Access) (t : Tile) :
    l.foldl (fun t a => if a.wr then t else t.countRead a.addr a.len) t =
      { t with corrected := (l.foldl (fun t a => if a.wr then t else t.countRead a.addr a.len) t).corrected } := by
  induction l generalizing t with
  | nil => rfl
  | cons a l ih =>
    rw [List.foldl_cons, ih]
    split
    · rfl
    · rw [countRead_eq]

/-- The sequencer's part of an issue. -/
theorem issued_eq (cyc len : Nat) (t : Tile) :
    issued cyc len t = { t with
      pc := (issued cyc len t).pc, loops := (issued cyc len t).loops, notBefore := (issued cyc len t).notBefore,
      lastIssue := (issued cyc len t).lastIssue, cnt := (issued cyc len t).cnt } := rfl

/-- Issue changes the sequencer, the tile's time-keeping and its counters, and nothing else. -/
theorem afterIssue_eq (cyc : Nat) (t : Tile) :
    afterIssue cyc t = { t with
      pc := (afterIssue cyc t).pc, loops := (afterIssue cyc t).loops, notBefore := (afterIssue cyc t).notBefore,
      lastIssue := (afterIssue cyc t).lastIssue, cnt := (afterIssue cyc t).cnt, unitFree := (afterIssue cyc t).unitFree,
      flights := (afterIssue cyc t).flights, jobs := (afterIssue cyc t).jobs, slotTimes := (afterIssue cyc t).slotTimes,
      corrected := (afterIssue cyc t).corrected } := by
  have h4 := countFetch_eq ((opWords (opOf (wd t.cur 0))).getD 1) t
  have h2 := foldl_countRead_eq (pieces t.n t.regs t.cur) (t.countFetch ((opWords (opOf (wd t.cur 0))).getD 1))
  have h3 := issued_eq cyc ((opWords (opOf (wd t.cur 0))).getD 1)
    ((pieces t.n t.regs t.cur).foldl (fun t a => if a.wr then t else t.countRead a.addr a.len)
      (t.countFetch ((opWords (opOf (wd t.cur 0))).getD 1)))
  have h1 := occupy_eq cyc t.word (accesses t.n t.regs t.cur) (issued cyc ((opWords (opOf (wd t.cur 0))).getD 1)
    ((pieces t.n t.regs t.cur).foldl (fun t a => if a.wr then t else t.countRead a.addr a.len)
      (t.countFetch ((opWords (opOf (wd t.cur 0))).getD 1))))
  unfold afterIssue
  simp only
  generalize occupy cyc t.word (accesses t.n t.regs t.cur) _ = z at h1 ⊢
  generalize issued cyc _ _ = y at h1 h3
  generalize (pieces t.n t.regs t.cur).foldl _ _ = x at h2 h3
  generalize t.countFetch _ = v at h2 h4
  rw [h1, h3, h2, h4]

@[simp] theorem afterIssue_handle (cyc : Nat) (t : Tile) : (afterIssue cyc t).handle = t.handle := by rw [afterIssue_eq]
@[simp] theorem afterIssue_task (cyc : Nat) (t : Tile) : (afterIssue cyc t).task = t.task := by rw [afterIssue_eq]
@[simp] theorem afterIssue_index (cyc : Nat) (t : Tile) : (afterIssue cyc t).index = t.index := by rw [afterIssue_eq]
@[simp] theorem afterIssue_number (cyc : Nat) (t : Tile) : (afterIssue cyc t).number = t.number := by rw [afterIssue_eq]
@[simp] theorem afterIssue_phase (cyc : Nat) (t : Tile) : (afterIssue cyc t).phase = t.phase := by rw [afterIssue_eq]
@[simp] theorem afterIssue_store (cyc : Nat) (t : Tile) : (afterIssue cyc t).store = t.store := by rw [afterIssue_eq]
@[simp] theorem afterIssue_regs (cyc : Nat) (t : Tile) : (afterIssue cyc t).regs = t.regs := by rw [afterIssue_eq]
@[simp] theorem afterIssue_ncw (cyc : Nat) (t : Tile) : (afterIssue cyc t).ncw = t.ncw := by rw [afterIssue_eq]
@[simp] theorem afterIssue_sram (cyc : Nat) (t : Tile) : (afterIssue cyc t).sram = t.sram := by rw [afterIssue_eq]
@[simp] theorem afterIssue_acc (cyc : Nat) (t : Tile) : (afterIssue cyc t).acc = t.acc := by rw [afterIssue_eq]
@[simp] theorem afterIssue_anchor (cyc : Nat) (t : Tile) : (afterIssue cyc t).anchor = t.anchor := by rw [afterIssue_eq]
@[simp] theorem afterIssue_factA (cyc : Nat) (t : Tile) : (afterIssue cyc t).factA = t.factA := by rw [afterIssue_eq]
@[simp] theorem afterIssue_factB (cyc : Nat) (t : Tile) : (afterIssue cyc t).factB = t.factB := by rw [afterIssue_eq]
@[simp] theorem afterIssue_longCnt (cyc : Nat) (t : Tile) : (afterIssue cyc t).longCnt = t.longCnt := by rw [afterIssue_eq]
@[simp] theorem afterIssue_chunk (cyc : Nat) (t : Tile) : (afterIssue cyc t).chunk = t.chunk := by rw [afterIssue_eq]
@[simp] theorem afterIssue_feed (cyc : Nat) (t : Tile) : (afterIssue cyc t).feed = t.feed := by rw [afterIssue_eq]
@[simp] theorem afterIssue_passA (cyc : Nat) (t : Tile) : (afterIssue cyc t).passA = t.passA := by rw [afterIssue_eq]
@[simp] theorem afterIssue_passB (cyc : Nat) (t : Tile) : (afterIssue cyc t).passB = t.passB := by rw [afterIssue_eq]
@[simp] theorem afterIssue_lutA (cyc : Nat) (t : Tile) : (afterIssue cyc t).lutA = t.lutA := by rw [afterIssue_eq]
@[simp] theorem afterIssue_lutB (cyc : Nat) (t : Tile) : (afterIssue cyc t).lutB = t.lutB := by rw [afterIssue_eq]
@[simp] theorem afterIssue_gated (cyc : Nat) (t : Tile) : (afterIssue cyc t).gated = t.gated := by rw [afterIssue_eq]
@[simp] theorem afterIssue_tflags (cyc : Nat) (t : Tile) : (afterIssue cyc t).tflags = t.tflags := by rw [afterIssue_eq]
@[simp] theorem afterIssue_vflags (cyc : Nat) (t : Tile) : (afterIssue cyc t).vflags = t.vflags := by rw [afterIssue_eq]
@[simp] theorem afterIssue_rmax (cyc : Nat) (t : Tile) : (afterIssue cyc t).rmax = t.rmax := by rw [afterIssue_eq]
@[simp] theorem afterIssue_hist (cyc : Nat) (t : Tile) : (afterIssue cyc t).hist = t.hist := by rw [afterIssue_eq]
@[simp] theorem afterIssue_smiss (cyc : Nat) (t : Tile) : (afterIssue cyc t).smiss = t.smiss := by rw [afterIssue_eq]
@[simp] theorem afterIssue_drains (cyc : Nat) (t : Tile) : (afterIssue cyc t).drains = t.drains := by rw [afterIssue_eq]
@[simp] theorem afterIssue_held (cyc : Nat) (t : Tile) : (afterIssue cyc t).held = t.held := by rw [afterIssue_eq]
@[simp] theorem afterIssue_tok (cyc : Nat) (t : Tile) : (afterIssue cyc t).tok = t.tok := by rw [afterIssue_eq]
@[simp] theorem afterIssue_arriving (cyc : Nat) (t : Tile) : (afterIssue cyc t).arriving = t.arriving := by rw [afterIssue_eq]
@[simp] theorem afterIssue_dma (cyc : Nat) (t : Tile) : (afterIssue cyc t).dma = t.dma := by rw [afterIssue_eq]
@[simp] theorem afterIssue_nextXfer (cyc : Nat) (t : Tile) : (afterIssue cyc t).nextXfer = t.nextXfer := by rw [afterIssue_eq]
@[simp] theorem afterIssue_rows (cyc : Nat) (t : Tile) : (afterIssue cyc t).rows = t.rows := by rw [afterIssue_eq]
@[simp] theorem afterIssue_cntAt (cyc : Nat) (t : Tile) : (afterIssue cyc t).cntAt = t.cntAt := by rw [afterIssue_eq]
@[simp] theorem afterIssue_haltRun (cyc : Nat) (t : Tile) : (afterIssue cyc t).haltRun = t.haltRun := by rw [afterIssue_eq]
@[simp] theorem afterIssue_crc (cyc : Nat) (t : Tile) : (afterIssue cyc t).crc = t.crc := by rw [afterIssue_eq]
@[simp] theorem afterIssue_dispatched (cyc : Nat) (t : Tile) : (afterIssue cyc t).dispatched = t.dispatched := by rw [afterIssue_eq]
@[simp] theorem afterIssue_endCycle (cyc : Nat) (t : Tile) : (afterIssue cyc t).endCycle = t.endCycle := by rw [afterIssue_eq]
@[simp] theorem afterIssue_sram1 (cyc : Nat) (t : Tile) : (afterIssue cyc t).sram1 = t.sram1 := by rw [afterIssue_eq]
@[simp] theorem afterIssue_sram2 (cyc : Nat) (t : Tile) : (afterIssue cyc t).sram2 = t.sram2 := by rw [afterIssue_eq]
@[simp] theorem afterIssue_acc1 (cyc : Nat) (t : Tile) : (afterIssue cyc t).acc1 = t.acc1 := by rw [afterIssue_eq]
@[simp] theorem afterIssue_store1 (cyc : Nat) (t : Tile) : (afterIssue cyc t).store1 = t.store1 := by rw [afterIssue_eq]
@[simp] theorem afterIssue_first (cyc : Nat) (t : Tile) : (afterIssue cyc t).first = t.first := by rw [afterIssue_eq]
@[simp] theorem afterIssue_bankAge (cyc : Nat) (t : Tile) : (afterIssue cyc t).bankAge = t.bankAge := by rw [afterIssue_eq]
@[simp] theorem afterIssue_traced (cyc : Nat) (t : Tile) : (afterIssue cyc t).traced = t.traced := by rw [afterIssue_eq]
@[simp] theorem afterIssue_acc2 (cyc : Nat) (t : Tile) : (afterIssue cyc t).acc2 = t.acc2 := by rw [afterIssue_eq]
@[simp] theorem afterIssue_lut2 (cyc : Nat) (t : Tile) : (afterIssue cyc t).lut2 = t.lut2 := by rw [afterIssue_eq]
@[simp] theorem afterIssue_store2 (cyc : Nat) (t : Tile) : (afterIssue cyc t).store2 = t.store2 := by rw [afterIssue_eq]
@[simp] theorem afterIssue_nearErr (cyc : Nat) (t : Tile) : (afterIssue cyc t).nearErr = t.nearErr := by rw [afterIssue_eq]
@[simp] theorem afterIssue_lastRan (cyc : Nat) (t : Tile) : (afterIssue cyc t).lastRan = t.lastRan := by rw [afterIssue_eq]
@[simp] theorem afterIssue_n (cyc : Nat) (t : Tile) : (afterIssue cyc t).n = t.n := by rw [afterIssue_eq]; rfl

/-! ### Issue -/

/-- An instruction that may issue has its effect on the device after the sequencer moved on. -/
theorem issueDev_eq {s : State} {tile k : Nat} {mine : List W64 → Bool} {clear : Nat → Dev → Tile → List W64 → Bool}
    (f : Plat → Nat → List W64 → Dev → Dev) (h : issuesNow s tile k mine clear) :
    issueDev tile mine clear f s.plat s.dev =
      f s.plat k (tileAt s.dev k).word (modTile k (afterIssue s.plat.cyc) s.dev) := by
  obtain ⟨h1, h2, h3, h4, h5, h6, h7, h8, h9⟩ := h
  have h3' : ¬ issueCycle s.plat.cyc (tileAt s.dev k) (tileAt s.dev k).cur < (tileAt s.dev k).notBefore := by omega
  unfold issueDev
  simp only [h1, h2, h4, h5, h6, h7, h8, h9, h3', decide_false, Bool.not_true, Bool.or_self, Bool.false_eq_true, if_false]

/-- An instruction whose effect is on its own tile alone. -/
theorem issueTile_eq {s : State} {tile k : Nat} {mine : List W64 → Bool} {clear : Nat → Tile → List W64 → Bool}
    (f : Plat → List W64 → Tile → Tile) (h : issuesNow s tile k mine (fun c _ t ws => clear c t ws)) :
    issueTile tile mine clear f s = .next { s with
      dev := modTile k (f s.plat (tileAt s.dev k).word)
        (modTile k (afterIssue s.plat.cyc) s.dev) } := by
  rw [issueTile, onDev_eq, issueDev_eq _ h]

/-! ### Writes to local SRAM (R103) -/

theorem writeBytes_foldl (m : Mem) (a : Nat) (bs : List Byte) :
    (List.range bs.length).foldl (fun m i => writeByte m (a + i) (bs.getD i 0#8)) m = writeBytes m a bs := by
  induction bs generalizing m a with
  | nil => rfl
  | cons b bs ih =>
    rw [List.length_cons, List.range_succ_eq_map, List.foldl_cons, List.foldl_map, writeBytes, ← ih]
    simp only [List.getD_cons_zero, List.getD_cons_succ, Nat.add_zero]
    congr 1
    funext m i
    rw [show a + i.succ = a + 1 + i by omega]

theorem foldl_congr_mem {α β : Type} (f g : β → α → β) (l : List α) (b : β) (h : ∀ b, ∀ a ∈ l, f b a = g b a) :
    l.foldl f b = l.foldl g b := by
  induction l generalizing b with
  | nil => rfl
  | cons a l ih =>
    rw [List.foldl_cons, List.foldl_cons, h b a (by simp), ih _ (fun b x hx => h b x (by simp [hx]))]

/-- A write that meets no uncorrectable word it would only merge into stores its bytes. -/
theorem wr_sram (t : Tile) (a : Nat) (bs : List Byte) (h : t.badWrite a bs.length = false) :
    (t.wr a bs).sram = writeBytes t.sram a bs := by
  unfold Tile.wr
  split
  · rfl
  · rename_i hne
    simp only
    rw [← writeBytes_foldl]
    apply foldl_congr_mem
    intro m i hi
    have hi' : i < bs.length := List.mem_range.mp hi
    rw [if_neg]
    intro hk
    simp only [Bool.and_eq_true] at hk
    have hmem : (a + i) / 8 ∈ wordsOf a bs.length := by
      unfold wordsOf upFrom
      rw [if_neg (by omega)]
      refine List.mem_map.mpr ⟨(a + i) / 8 - a / 8, List.mem_range.mpr ?_, ?_⟩ <;> omega
    have hs : t.sram2.isEmpty = false := by
      cases hs : t.sram2 with
      | nil => simp [hs] at hk
      | cons _ _ => rfl
    unfold Tile.badWrite at h
    simp [hs] at h hk
    have := h _ hmem hk.1
    omega

/-- A write changes the bytes, the error marks and the count of corrected errors, and nothing else. -/
theorem wr_eq (t : Tile) (a : Nat) (bs : List Byte) :
    t.wr a bs = { t with sram := (t.wr a bs).sram, corrected := (t.wr a bs).corrected, sram1 := (t.wr a bs).sram1,
                         sram2 := (t.wr a bs).sram2 } := by
  unfold Tile.wr
  split <;> rfl

@[simp] theorem wr_handle (t : Tile) (a : Nat) (bs : List Byte) : (t.wr a bs).handle = t.handle := by rw [wr_eq]
@[simp] theorem wr_task (t : Tile) (a : Nat) (bs : List Byte) : (t.wr a bs).task = t.task := by rw [wr_eq]
@[simp] theorem wr_index (t : Tile) (a : Nat) (bs : List Byte) : (t.wr a bs).index = t.index := by rw [wr_eq]
@[simp] theorem wr_number (t : Tile) (a : Nat) (bs : List Byte) : (t.wr a bs).number = t.number := by rw [wr_eq]
@[simp] theorem wr_phase (t : Tile) (a : Nat) (bs : List Byte) : (t.wr a bs).phase = t.phase := by rw [wr_eq]
@[simp] theorem wr_store (t : Tile) (a : Nat) (bs : List Byte) : (t.wr a bs).store = t.store := by rw [wr_eq]
@[simp] theorem wr_pc (t : Tile) (a : Nat) (bs : List Byte) : (t.wr a bs).pc = t.pc := by rw [wr_eq]
@[simp] theorem wr_loops (t : Tile) (a : Nat) (bs : List Byte) : (t.wr a bs).loops = t.loops := by rw [wr_eq]
@[simp] theorem wr_notBefore (t : Tile) (a : Nat) (bs : List Byte) : (t.wr a bs).notBefore = t.notBefore := by rw [wr_eq]
@[simp] theorem wr_regs (t : Tile) (a : Nat) (bs : List Byte) : (t.wr a bs).regs = t.regs := by rw [wr_eq]
@[simp] theorem wr_ncw (t : Tile) (a : Nat) (bs : List Byte) : (t.wr a bs).ncw = t.ncw := by rw [wr_eq]
@[simp] theorem wr_acc (t : Tile) (a : Nat) (bs : List Byte) : (t.wr a bs).acc = t.acc := by rw [wr_eq]
@[simp] theorem wr_anchor (t : Tile) (a : Nat) (bs : List Byte) : (t.wr a bs).anchor = t.anchor := by rw [wr_eq]
@[simp] theorem wr_factA (t : Tile) (a : Nat) (bs : List Byte) : (t.wr a bs).factA = t.factA := by rw [wr_eq]
@[simp] theorem wr_factB (t : Tile) (a : Nat) (bs : List Byte) : (t.wr a bs).factB = t.factB := by rw [wr_eq]
@[simp] theorem wr_longCnt (t : Tile) (a : Nat) (bs : List Byte) : (t.wr a bs).longCnt = t.longCnt := by rw [wr_eq]
@[simp] theorem wr_chunk (t : Tile) (a : Nat) (bs : List Byte) : (t.wr a bs).chunk = t.chunk := by rw [wr_eq]
@[simp] theorem wr_feed (t : Tile) (a : Nat) (bs : List Byte) : (t.wr a bs).feed = t.feed := by rw [wr_eq]
@[simp] theorem wr_passA (t : Tile) (a : Nat) (bs : List Byte) : (t.wr a bs).passA = t.passA := by rw [wr_eq]
@[simp] theorem wr_passB (t : Tile) (a : Nat) (bs : List Byte) : (t.wr a bs).passB = t.passB := by rw [wr_eq]
@[simp] theorem wr_lutA (t : Tile) (a : Nat) (bs : List Byte) : (t.wr a bs).lutA = t.lutA := by rw [wr_eq]
@[simp] theorem wr_lutB (t : Tile) (a : Nat) (bs : List Byte) : (t.wr a bs).lutB = t.lutB := by rw [wr_eq]
@[simp] theorem wr_gated (t : Tile) (a : Nat) (bs : List Byte) : (t.wr a bs).gated = t.gated := by rw [wr_eq]
@[simp] theorem wr_tflags (t : Tile) (a : Nat) (bs : List Byte) : (t.wr a bs).tflags = t.tflags := by rw [wr_eq]
@[simp] theorem wr_vflags (t : Tile) (a : Nat) (bs : List Byte) : (t.wr a bs).vflags = t.vflags := by rw [wr_eq]
@[simp] theorem wr_rmax (t : Tile) (a : Nat) (bs : List Byte) : (t.wr a bs).rmax = t.rmax := by rw [wr_eq]
@[simp] theorem wr_hist (t : Tile) (a : Nat) (bs : List Byte) : (t.wr a bs).hist = t.hist := by rw [wr_eq]
@[simp] theorem wr_smiss (t : Tile) (a : Nat) (bs : List Byte) : (t.wr a bs).smiss = t.smiss := by rw [wr_eq]
@[simp] theorem wr_drains (t : Tile) (a : Nat) (bs : List Byte) : (t.wr a bs).drains = t.drains := by rw [wr_eq]
@[simp] theorem wr_held (t : Tile) (a : Nat) (bs : List Byte) : (t.wr a bs).held = t.held := by rw [wr_eq]
@[simp] theorem wr_unitFree (t : Tile) (a : Nat) (bs : List Byte) : (t.wr a bs).unitFree = t.unitFree := by rw [wr_eq]
@[simp] theorem wr_flights (t : Tile) (a : Nat) (bs : List Byte) : (t.wr a bs).flights = t.flights := by rw [wr_eq]
@[simp] theorem wr_slotTimes (t : Tile) (a : Nat) (bs : List Byte) : (t.wr a bs).slotTimes = t.slotTimes := by rw [wr_eq]
@[simp] theorem wr_tok (t : Tile) (a : Nat) (bs : List Byte) : (t.wr a bs).tok = t.tok := by rw [wr_eq]
@[simp] theorem wr_arriving (t : Tile) (a : Nat) (bs : List Byte) : (t.wr a bs).arriving = t.arriving := by rw [wr_eq]
@[simp] theorem wr_dma (t : Tile) (a : Nat) (bs : List Byte) : (t.wr a bs).dma = t.dma := by rw [wr_eq]
@[simp] theorem wr_nextXfer (t : Tile) (a : Nat) (bs : List Byte) : (t.wr a bs).nextXfer = t.nextXfer := by rw [wr_eq]
@[simp] theorem wr_rows (t : Tile) (a : Nat) (bs : List Byte) : (t.wr a bs).rows = t.rows := by rw [wr_eq]
@[simp] theorem wr_cnt (t : Tile) (a : Nat) (bs : List Byte) : (t.wr a bs).cnt = t.cnt := by rw [wr_eq]
@[simp] theorem wr_cntAt (t : Tile) (a : Nat) (bs : List Byte) : (t.wr a bs).cntAt = t.cntAt := by rw [wr_eq]
@[simp] theorem wr_haltRun (t : Tile) (a : Nat) (bs : List Byte) : (t.wr a bs).haltRun = t.haltRun := by rw [wr_eq]
@[simp] theorem wr_crc (t : Tile) (a : Nat) (bs : List Byte) : (t.wr a bs).crc = t.crc := by rw [wr_eq]
@[simp] theorem wr_dispatched (t : Tile) (a : Nat) (bs : List Byte) : (t.wr a bs).dispatched = t.dispatched := by rw [wr_eq]
@[simp] theorem wr_endCycle (t : Tile) (a : Nat) (bs : List Byte) : (t.wr a bs).endCycle = t.endCycle := by rw [wr_eq]
@[simp] theorem wr_acc1 (t : Tile) (a : Nat) (bs : List Byte) : (t.wr a bs).acc1 = t.acc1 := by rw [wr_eq]
@[simp] theorem wr_store1 (t : Tile) (a : Nat) (bs : List Byte) : (t.wr a bs).store1 = t.store1 := by rw [wr_eq]
@[simp] theorem wr_first (t : Tile) (a : Nat) (bs : List Byte) : (t.wr a bs).first = t.first := by rw [wr_eq]
@[simp] theorem wr_lastIssue (t : Tile) (a : Nat) (bs : List Byte) : (t.wr a bs).lastIssue = t.lastIssue := by rw [wr_eq]
@[simp] theorem wr_jobs (t : Tile) (a : Nat) (bs : List Byte) : (t.wr a bs).jobs = t.jobs := by rw [wr_eq]
@[simp] theorem wr_bankAge (t : Tile) (a : Nat) (bs : List Byte) : (t.wr a bs).bankAge = t.bankAge := by rw [wr_eq]
@[simp] theorem wr_traced (t : Tile) (a : Nat) (bs : List Byte) : (t.wr a bs).traced = t.traced := by rw [wr_eq]
@[simp] theorem wr_acc2 (t : Tile) (a : Nat) (bs : List Byte) : (t.wr a bs).acc2 = t.acc2 := by rw [wr_eq]
@[simp] theorem wr_lut2 (t : Tile) (a : Nat) (bs : List Byte) : (t.wr a bs).lut2 = t.lut2 := by rw [wr_eq]
@[simp] theorem wr_store2 (t : Tile) (a : Nat) (bs : List Byte) : (t.wr a bs).store2 = t.store2 := by rw [wr_eq]
@[simp] theorem wr_nearErr (t : Tile) (a : Nat) (bs : List Byte) : (t.wr a bs).nearErr = t.nearErr := by rw [wr_eq]
@[simp] theorem wr_lastRan (t : Tile) (a : Nat) (bs : List Byte) : (t.wr a bs).lastRan = t.lastRan := by rw [wr_eq]
@[simp] theorem wr_n (t : Tile) (a : Nat) (bs : List Byte) : (t.wr a bs).n = t.n := by rw [wr_eq]; rfl

/-! ### The words and ranges of an issuing instruction -/

/-- A word of the instruction is the word at its place in the store. -/
theorem wd_word (t : Tile) (i : Nat) (h : i < (opWords (opOf (wd t.cur 0))).getD 1) : wd t.word i = wd t.cur i := by
  unfold wd Tile.word
  simp [List.getD_eq_getElem?_getD, h]

@[simp] theorem badWrite_afterIssue (cyc : Nat) (t : Tile) (a n : Nat) :
    (afterIssue cyc t).badWrite a n = t.badWrite a n := by simp [Tile.badWrite]

@[simp] theorem rd_afterIssue (cyc : Nat) (t : Tile) (a n : Nat) : (afterIssue cyc t).rd a n = t.rd a n := by simp [Tile.rd]

/-- What an instruction other than DRAIN writes meets no uncorrectable word it would only merge into (R103). -/
theorem badWrite_of_rangesBad {t : Tile} {ws : List W64} {x : Access} (h : rangesBad t ws = false)
    (hx : x ∈ pieces t.n t.regs ws) (hw : x.wr = true) (ho : opOf (wd ws 0) ≠ 0x30) : t.badWrite x.addr x.len = false := by
  have := (List.any_eq_false.mp h) x hx
  simp [hw, ho] at this
  exact this

theorem length_flatMap_natLe {α : Type} (l : List α) (f : α → Nat) (z : Nat) :
    (l.flatMap (fun r => natLe z (f r))).length = z * l.length := by
  induction l with
  | nil => rfl
  | cons a l ih => simp [List.flatMap_cons, ih, Nat.mul_add, Nat.add_comm]

end Sys2Proof.Machine
end

