-- ==== Sys2Proof/Laws/Passes.lean ====
section
/-! SUPPORT. Passes, DRAINs and held QOPs of a tile: what keeping a field, ending passes and running held QOPs leave. -/

namespace Sys2Proof.Machine

/-- Keeping a field for the DRAINs changes the DRAINs alone. -/
theorem keepField_eq (q : Pass) (cell : Nat) (t : Tile) :
    keepField q cell t = { t with drains := (keepField q cell t).drains } := rfl

/-- Keeping the final times changes the DRAINs alone. -/
theorem keepFinal_eq (q : Pass) (t : Tile) : keepFinal q t = { t with drains := (keepFinal q t).drains } := rfl

/-- What a group makes of a cell does not depend on what the DRAINs keep. -/
theorem cellGroup_keepField (q q' : Pass) (cell arr i j g : Nat) (t : Tile) :
    cellGroup (keepField q' cell t) arr q i j g =
      { cellGroup t arr q i j g with drains := (keepField q' cell t).drains } := by
  rw [keepField_eq]
  unfold cellGroup
  simp only
  have h1 : ∀ (l : List Drain) w a s c, Tile.slotGet { t with drains := l } w a s c = t.slotGet w a s c := fun _ _ _ _ _ => rfl
  have h3 : ∀ (l : List Drain), ({ t with drains := l } : Tile).n = t.n := fun _ => rfl
  simp only [h1, h3]
  repeat' split
  all_goals rfl

/-- A held QOP that does not wait for a cell is left as it is; the tile too. -/
theorem runHeld_skip (cell : Nat) (t : Tile) (h : ∀ x ∈ t.held, cell ∉ x.left) : runHeld cell t = t := by
  have key : ∀ (l m : List HeldQop), (∀ x ∈ l, cell ∉ x.left) →
      l.foldl (fun u h =>
        if h.left.contains cell && !qopWaits (fun q => q.after.contains h.issue) u.held u (wd h.ws 0) cell then
          let x := heldCell h cell { u with held := [] }
          if x.1.left.isEmpty then { heldEnd x.1 x.2 with held := u.held } else { x.2 with held := u.held ++ [x.1] }
        else { u with held := u.held ++ [h] }) { t with held := m } = { t with held := m ++ l } := by
    intro l
    induction l with
    | nil => intro m _; simp
    | cons a l ih =>
      intro m hl
      have ha : a.left.contains cell = false := by
        have := hl a (by simp)
        simpa using this
      rw [List.foldl_cons]
      simp only [ha, Bool.false_and, Bool.false_eq_true, if_false]
      rw [ih (m ++ [a]) (fun x hx => hl x (by simp [hx]))]
      simp
  unfold runHeld
  rw [key t.held [] h]
  rfl

/-- Ending passes changes the passes of the array, the DRAINs, and the tile's time-keeping. -/
theorem endPasses_eq (cyc arr : Nat) (t : Tile) :
    endPasses cyc arr t = { t with
      passA := (endPasses cyc arr t).passA, passB := (endPasses cyc arr t).passB, drains := (endPasses cyc arr t).drains,
      flights := (endPasses cyc arr t).flights, slotTimes := (endPasses cyc arr t).slotTimes } := by
  have step : ∀ (q : Pass) (n : Ncw) (u : Tile),
      ((keepFinal q u).fly cyc 8 (q.final n + 14) ((passReads n q).map (fun r => ⟨false, r.1, r.2, 1⟩))).onSlots arr q.slot n.span
        (slotByPass (q.final n)) = { u with
          drains := (keepFinal q u).drains,
          flights := ((keepFinal q u).fly cyc 8 (q.final n + 14) ((passReads n q).map (fun r => ⟨false, r.1, r.2, 1⟩))).flights,
          slotTimes := (((keepFinal q u).fly cyc 8 (q.final n + 14)
            ((passReads n q).map (fun r => ⟨false, r.1, r.2, 1⟩))).onSlots arr q.slot n.span (slotByPass (q.final n))).slotTimes } :=
    fun _ _ _ => rfl
  have fold : ∀ (n : Ncw) (l : List Pass) (u : Tile), ∃ dr fl st,
      l.foldl (fun t q =>
        ((keepFinal q t).fly cyc 8 (q.final n + 14) ((passReads n q).map (fun r => ⟨false, r.1, r.2, 1⟩))).onSlots arr q.slot n.span
          (slotByPass (q.final n))) u = { u with drains := dr, flights := fl, slotTimes := st } := by
    intro n l
    induction l with
    | nil => intro u; exact ⟨_, _, _, rfl⟩
    | cons a l ih =>
      intro u
      rw [List.foldl_cons, step]
      obtain ⟨dr, fl, st, h⟩ := ih { u with
        drains := (keepFinal a u).drains,
        flights := ((keepFinal a u).fly cyc 8 (a.final n + 14) ((passReads n a).map (fun r => ⟨false, r.1, r.2, 1⟩))).flights,
        slotTimes := (((keepFinal a u).fly cyc 8 (a.final n + 14)
          ((passReads n a).map (fun r => ⟨false, r.1, r.2, 1⟩))).onSlots arr a.slot n.span (slotByPass (a.final n))).slotTimes }
      exact ⟨dr, fl, st, by rw [h]⟩
  unfold endPasses
  simp only
  obtain ⟨dr, fl, st, h⟩ := fold t.n ((t.passes arr).filter (fun q => q.finished t.n))
    (t.setPasses arr ((t.passes arr).filter (fun q => !q.finished t.n)))
  rw [h]
  unfold Tile.setPasses
  split <;> rfl

end Sys2Proof.Machine
end

