-- ==== Sys2Proof/Laws/Runs.lean ====
section
/-! SUPPORT. Runs and tasks: what the shared operations leave of the runs, what a change of a run or a task reads back as, and what
dispatching and ending a task leave. -/

namespace Sys2Proof.Machine

/-! ### Operations that touch no run -/

theorem foldl_keeps {α β : Type} (g : Dev → β) (f : Dev → α → Dev) (h : ∀ d a, g (f d a) = g d) (l : List α) (d : Dev) :
    g (l.foldl f d) = g d := by
  induction l generalizing d with
  | nil => rfl
  | cons a l ih => rw [List.foldl_cons, ih, h]

@[simp] theorem traceRec_runs (cyc cls code unit die payload : Nat) (d : Dev) :
    (traceRec cyc cls code unit die payload d).runs = d.runs := by
  unfold traceRec; split <;> rfl

@[simp] theorem traceRec_graphs (cyc cls code unit die payload : Nat) (d : Dev) :
    (traceRec cyc cls code unit die payload d).graphs = d.graphs := by
  unfold traceRec; split <;> rfl

@[simp] theorem emitFlit_runs (p ftype seq : Nat) (nak : Bool) (data : List Byte) (now : Nat) (d : Dev) :
    (emitFlit p ftype seq nak data now d).runs = d.runs := rfl

@[simp] theorem emitFlit_graphs (p ftype seq : Nat) (nak : Bool) (data : List Byte) (now : Nat) (d : Dev) :
    (emitFlit p ftype seq nak data now d).graphs = d.graphs := rfl

@[simp] theorem sendData_runs (p : Nat) (data : List Byte) (last : Bool) (now : Nat) (d : Dev) :
    (sendData p data last now d).runs = d.runs := by unfold sendData; rw [emitFlit_runs, modPort_runs]

@[simp] theorem sendData_graphs (p : Nat) (data : List Byte) (last : Bool) (now : Nat) (d : Dev) :
    (sendData p data last now d).graphs = d.graphs := by unfold sendData; rw [emitFlit_graphs, modPort_graphs]

@[simp] theorem drainFlits_runs (n p now : Nat) (d : Dev) : (drainFlits n p now d).runs = d.runs := by
  induction n generalizing d with
  | zero => rfl
  | succ n ih => unfold drainFlits; simp only; split
                 · rfl
                 · split
                   · rfl
                   · rw [ih, sendData_runs, modPort_runs]

@[simp] theorem drainFlits_graphs (n p now : Nat) (d : Dev) : (drainFlits n p now d).graphs = d.graphs := by
  induction n generalizing d with
  | zero => rfl
  | succ n ih => unfold drainFlits; simp only; split
                 · rfl
                 · split
                   · rfl
                   · rw [ih, sendData_graphs, modPort_graphs]

@[simp] theorem sendTxn_runs (p now : Nat) (t : Txn) (d : Dev) : (sendTxn p now t d).runs = d.runs := by
  unfold sendTxn; split <;> simp [pump]

@[simp] theorem sendTxn_graphs (p now : Nat) (t : Txn) (d : Dev) : (sendTxn p now t d).graphs = d.graphs := by
  unfold sendTxn; split <;> simp [pump]

@[simp] theorem writeRun_runs (r : Run2K) (data : List Byte) (d : Dev) : (writeRun r data d).runs = d.runs := by
  unfold writeRun; split
  · rfl
  · simp only; split <;> rfl

@[simp] theorem writeRuns_runs (l : List Run2K) (data : List Byte) (d : Dev) : (writeRuns l data d).runs = d.runs := by
  induction l generalizing data d with
  | nil => rfl
  | cons r l ih => rw [writeRuns, ih, writeRun_runs]

@[simp] theorem nearWrite_runs (a : Nat) (data : List Byte) (d : Dev) : (nearWrite a data d).runs = d.runs := by
  unfold nearWrite; split <;> simp

@[simp] theorem failureEvents_runs (now n : Nat) (d : Dev) : (failureEvents now n d).runs = d.runs := rfl

@[simp] theorem sendCancel_runs (now : Nat) (desc : List W64) (d : Dev) : (sendCancel now desc d).runs = d.runs := by
  unfold sendCancel; split
  · rfl
  · simp only
    refine foldl_keeps (·.runs) _ (fun d p => ?_) _ _
    split <;> simp

@[simp] theorem traceSluice_runs (p : Plat) (desc : List W64) (cls code payload : Nat) (d : Dev) :
    (traceSluice p desc cls code payload d).runs = d.runs := by simp [traceSluice]

/-! ### The run of a handle -/

/-- Changing the run of a handle changes what it reads back as, by a function that keeps it started and of that handle. -/
theorem runOf_modRun (h : Nat) (f : Run → Run) (d : Dev)
    (hf : ∀ r, (f r).started = r.started ∧ (f r).handle = r.handle) : runOf (modRun h f d) h = (runOf d h).map f := by
  unfold runOf
  simp only [modRun_runs]
  induction d.runs with
  | nil => rfl
  | cons r l ih =>
    simp only [List.map_cons, List.find?_cons]
    by_cases hc : (r.started && r.handle == h) = true
    · have hf' := hf r
      simp only [Bool.and_eq_true, beq_iff_eq] at hc
      simp [hc.1, hc.2, hf'.1, hf'.2]
    · rw [if_neg hc]
      simp only [hc]
      exact ih

theorem runOf_modTask (h t : Nat) (f : TaskRun → TaskRun) (d : Dev) :
    runOf (modTask h t f d) h = (runOf d h).map (fun r => { r with tasks := tmod {} r.tasks t f }) :=
  runOf_modRun h (fun r => { r with tasks := tmod {} r.tasks t f }) d (fun _ => ⟨rfl, rfl⟩)

/-- Runs that read alike give the same run of a handle. -/
theorem runOf_congr {d e : Dev} (h : d.runs = e.runs) (n : Nat) : runOf d n = runOf e n := by unfold runOf; rw [h]

theorem taskOf_modTask (h t : Nat) (f : TaskRun → TaskRun) (d : Dev) :
    taskOf (modTask h t f d) h t = (taskOf d h t).map f := by
  unfold taskOf
  rw [runOf_modTask]
  cases runOf d h <;> simp [taskAt]

theorem taskOf_modRun (h t : Nat) (f : Run → Run) (d : Dev)
    (hf : ∀ r, (f r).started = r.started ∧ (f r).handle = r.handle ∧ (f r).tasks = r.tasks) :
    taskOf (modRun h f d) h t = taskOf d h t := by
  unfold taskOf
  rw [runOf_modRun h f d (fun r => ⟨(hf r).1, (hf r).2.1⟩)]
  cases runOf d h with
  | none => rfl
  | some r => simp [taskAt, (hf r).2.2]

theorem taskOf_congr {d e : Dev} (h : d.runs = e.runs) (n t : Nat) : taskOf d n t = taskOf e n t := by
  unfold taskOf; rw [runOf_congr h]

theorem taskOf_modLock (h t : Nat) (f : Lock → Lock) (d : Dev) : taskOf (modLock h f d) h t = taskOf d h t :=
  taskOf_modRun h t _ d (fun _ => ⟨rfl, rfl, rfl⟩)

theorem taskOf_flushGo (n now h t : Nat) (d : Dev) : taskOf (flushGo n now h d) h t = taskOf d h t := by
  induction n generalizing d with
  | zero => rfl
  | succ n ih =>
    unfold flushGo
    split
    · rfl
    · split
      · rfl
      · split
        · rfl
        · simp only
          rw [ih, taskOf_congr (sendTxn_runs _ _ _ _), taskOf_modLock]

theorem taskOf_flushEntries (now h t : Nat) (d : Dev) : taskOf (flushEntries now h d) h t = taskOf d h t := by
  unfold flushEntries
  split
  · rfl
  · exact taskOf_flushGo _ _ _ _ _

theorem taskOf_lockEntry (now h u t : Nat) (d : Dev) : taskOf (lockEntry now h u d) h t = taskOf d h t := by
  unfold lockEntry
  split
  · rfl
  · split
    · rfl
    · rename_i r _ l _
      simp only
      have key : ∀ (b : Bool) (f : Dev → Dev) (e : Dev), (∀ e, taskOf (f e) h t = taskOf e h t) → taskOf e h t = taskOf d h t →
          taskOf (if b then f e else e) h t = taskOf d h t := by
        intro b f e hf he; cases b <;> simp [hf, he]
      have h1 : taskOf (modLock h (fun l => { l with unsent := l.unsent ++ [u], heard := now }) d) h t = taskOf d h t :=
        taskOf_modLock _ _ _ _
      have h2 : ∀ (tl : Table W64) (g : Nat × W64 → Nat) (e : Dev), taskOf e h t = taskOf d h t →
          taskOf (tl.foldl (fun d x => nearWrite (d.obs.ls.dbase + 8 * g x) (natLe 8 x.2.toNat) d) e) h t = taskOf d h t := by
        intro tl g e he
        rw [← he]
        apply taskOf_congr
        exact foldl_keeps (·.runs) _ (fun d a => by simp) _ _
      split
      · rw [taskOf_flushEntries]
        split
        · exact h2 _ (fun x => tileCount ((graphAt d h).tasks.take u) + x.1) _ h1
        · exact h1
      · split
        · exact h2 _ (fun x => tileCount ((graphAt d h).tasks.take u) + x.1) _ h1
        · exact h1

@[simp] theorem dropAsks_runs (h : Nat) (which : Nat → Bool) (d : Dev) : (dropAsks h which d).runs = d.runs := rfl

/-- What ending a task in run cycle e leaves of it: ended, with the status, DETAIL and digest (R209, R223, R345). -/
theorem taskOf_endTaskAt (p : Plat) (h t e st detail flags : Nat) (d : Dev) (r : Run) (hr : runOf d h = some r) :
    taskOf (endTaskAt p h t e st detail flags d) h t = some { taskAt r t with
      st := .ended, e := e, status := st, detail := detail,
      digest := BitVec.ofNat 64 (endDigest (descOf (graphAt d h) t) (taskAt r t) flags) } := by
  unfold endTaskAt
  simp only [hr]
  have base : taskOf (lockEntry p.now h t (traceSluice p (descOf (graphAt d h) t) 0 0x02 (t + h * 2 ^ 20 + st * 2 ^ 32)
      (modTask h t (fun x => { x with
        st := .ended, e := e, status := st, detail := detail,
        digest := BitVec.ofNat 64 (endDigest (descOf (graphAt d h) t) x flags) }) d))) h t = some { taskAt r t with
      st := .ended, e := e, status := st, detail := detail,
      digest := BitVec.ofNat 64 (endDigest (descOf (graphAt d h) t) (taskAt r t) flags) } := by
    rw [taskOf_lockEntry, taskOf_congr (traceSluice_runs _ _ _ _ _ _), taskOf_modTask]
    simp [taskOf, hr]
  have step : ∀ e : Dev, taskOf (if isFatal st = true then
      sendCancel p.now (descOf (graphAt d h) t) (modRun h (fun r => { r with stopped := true }) e) else e) h t = taskOf e h t := by
    intro e
    split
    · rw [taskOf_congr (sendCancel_runs _ _ _)]
      exact taskOf_modRun h t (fun r => { r with stopped := true }) e (fun _ => ⟨rfl, rfl, rfl⟩)
    · rfl
  rw [taskOf_congr (dropAsks_runs _ _ _)]
  split
  · rw [taskOf_congr (failureEvents_runs _ _ _), step, base]
  · rw [step, base]

/-- The same in the present run cycle. -/
theorem taskOf_endTask (p : Plat) (h t st detail flags : Nat) (d : Dev) (r : Run) (hr : runOf d h = some r) :
    taskOf (endTask p h t st detail flags d) h t = some { taskAt r t with
      st := .ended, e := runCycle p r, status := st, detail := detail,
      digest := BitVec.ofNat 64 (endDigest (descOf (graphAt d h) t) (taskAt r t) flags) } := by
  unfold endTask
  rw [hr]
  exact taskOf_endTaskAt p h t _ st detail flags d r hr

/-- Dispatching a task leaves it running, dispatched in this run cycle (R219, R221). -/
theorem taskOf_dispatchTask (p : Plat) (h t : Nat) (d : Dev) (r : Run) (hr : runOf d h = some r) :
    ∃ ch, taskOf (dispatchTask p h t d) h t = some { taskAt r t with st := .running, s := runCycle p r, chan := ch } := by
  unfold dispatchTask
  simp only [hr]
  refine ⟨if dKind (descOf (graphAt d h) t) == 3 then (freeChannel d (dSite (descOf (graphAt d h) t))).getD 0 else 0, ?_⟩
  rw [taskOf_congr (traceSluice_runs _ _ _ _ _ _)]
  have base : ∀ f : TaskRun → TaskRun, taskOf (modTask h t f d) h t = some (f (taskAt r t)) := by
    intro f; rw [taskOf_modTask]; simp [taskOf, hr]
  split
  · unfold traceChoice
    rw [taskOf_congr (traceRec_runs _ _ _ _ _ _ _),
      taskOf_modRun h t (fun r => { r with tdcSluice := r.tdcSluice + 1 }) _ (fun _ => ⟨rfl, rfl, rfl⟩)]
    exact base _
  · exact base _

end Sys2Proof.Machine
end

