-- ==== Sys2Proof/WellFormed.lean ====
section
/-! DEFINITION. Well-formed commands: operands that name something the part has. -/

namespace Sys2Proof

/-- A submission ring (R383). -/
def wfRing (r : Nat) : Bool := decide (r ≤ 8)
/-- A logical tile number of the fixed stride (R12, R13). -/
def wfTile (t : Nat) : Bool := decide (t < 80000)
/-- An array of a tile. -/
def wfArr (a : Nat) : Bool := decide (a < 2)
/-- A graph handle and a task index (R204, R211). -/
def wfTask (h t : Nat) : Bool := decide (h < 64) && decide (t < 1048576)
/-- A channel (R249). -/
def wfChan (g : Nat) : Bool := decide (g < 1024)
/-- A lane of a channel that carries data or check bits (R249). -/
def wfChanLane (l : Nat) : Bool := decide (l < 580)
/-- A port (R289). -/
def wfPort (p : Nat) : Bool := decide (p < 48)
/-- A naturally aligned access of 4 or 8 bytes in BAR0 (R381). -/
def wfReg (off size : Nat) : Bool := (size == 4 || size == 8) && off % size == 0 && decide (off < 2 ^ 26)
/-- A position of a tile on a die: die, physical row, physical column. -/
def wfPos (p : Nat × Nat × Nat) : Bool := decide (p.1 < 16) && decide (p.2.1 < 50) && decide (p.2.2 < 102)

/-- Every operand names something that exists. -/
def Instr.wf : Instr → Bool
  | .hello r _ | .identify r _ | .graphLoad r _ | .graphRun r _ | .graphAbort r _ | .graphUnload r _
  | .regionMap r _ | .regionUnmap r _ | .linkEnumerate r _ | .linkAttach r _ | .linkDetach r _
  | .oxbowPolicySet r _ _ | .oxbowPolicyReport r _ | .oxbowSnapshot r _ _ | .oxbowRestore r _ _ | .oxbowVerify r _ _
  | .lockstepPair r _ | .lockstepDissolve r _ | .fwStage r _ _ | .fwCommitWrite r _ | .fwCommitActivate r _
  | .memRepairQuery r _ | .memRepairRowRemap r _ | .memRepairRowRetire r _ | .memRetrain r _ | .memBist r _
  | .memRepairLaneSpare r _ | .memRepairLaneMapout r _ | .quadrantDrain r _ | .quadrantResume r _
  | .telemetryRead r _ | .secureErase r _ | .selfTest r _ | .tailDoorbell r _ _ => wfRing r
  | .quadrantDrained q => decide (q < 4)
  | .longOperationDone res => res.tiles.all wfPos && res.chans.all wfChan &&
    res.rows.all (fun x => wfChan x.1 && decide (x.2.1 < 16) && decide (x.2.2 < 4096))
  | .headDoorbell r _ => decide (9 ≤ r) && decide (r < 19)
  | .ringEnable r _ | .ringDisable r _ => decide (r < 19)
  | .registerWrite o n _ | .rngTableWrite o n _ | .oxbCursorWrite o n _ | .hostEpochWrite o n _ => wfReg o n
  | .elapsedRead n => n == 4 || n == 8
  | .vectorUnmask v => match v with | some x => decide (x < 64) | none => true
  | .holdoffExpiry v => decide (v < 10)
  | .apertureRead o n => decide (o + n ≤ 2 ^ 28) && decide (0 < n)
  | .apertureWrite o d => decide (o + d.length ≤ 2 ^ 28) && !d.isEmpty
  | .runStart h | .runEnd h | .lockstepTimeout h | .lsStartTimeout h => decide (h < 64)
  | .rowRelease h r => decide (h < 64) && decide (r < 50)
  | .tileTaskDispatch h t | .barrier h t | .barrierIngress h t | .ingressComplete h t | .declExpiry h t
  | .taskTimeout h t | .tileTaskComplete h t | .transpose h t | .gather h t | .scatterAdd h t | .rng h t
  | .hreduce h t | .hist h t | .scalemax h t | .scalehist h t | .quant h t | .qcode h t | .copy h t | .fill h t
  | .scrub h t | .engineComplete h t | .moveCopy h t _ | .moveReduceWrite h t _ | .moveComplete h t
  | .collExact h t | .collOrdered h t | .collFast h t | .collComplete h t | .markSnapshot h t _ | .markCursor h t
  | .markLockstep h t | .markMaint h t => wfTask h t
  | .feed t | .feeds t | .mma t | .mmaB t | .drain t | .drainRetry t | .qadd t | .qshr t | .qld t | .qst t
  | .qrnd t | .vecAdd t | .vecSub t | .vecMul t | .vecFma t | .vecDiv t | .vecSqrt t | .vecMin t | .vecMax t
  | .vecAbs t | .vecNeg t | .vecCmpeq t | .vecCmplt t | .vecCmple t | .vecSel t | .vecCvt t | .vecMaxr t
  | .vecMinr t | .vecSumr t | .vecAmaxr t | .vecShl t | .vecShr t | .vecAnd t | .vecOr t | .vecXor t | .vecFill t
  | .rdreg t | .clrvf t | .sfu t | .rowInit t | .rowSmax t | .rowSexp t | .rowRescale t | .rowDiv t | .rowMom t
  | .rowVar t | .rowNorm t | .lut t | .dmaLoad t | .dmaStore t | .dmaRed t | .dmaPush t | .dmaComplete t | .loop t
  | .arset t | .aradd t | .syncWait t | .syncSignal t | .syncFence t | .syncDelay t | .endTile t
  | .tileComplete t => wfTile t
  | .groupAdd t a i j _ => wfTile t && wfArr a && decide (i < 8) && decide (j < 8)
  | .nullPass t a | .lutWriteComplete t a => wfTile t && wfArr a
  | .laneSwap t a l => wfTile t && wfArr a && decide (l < 8)
  | .channelRequestStart g | .agePromotion g | .refreshDue g => wfChan g
  | .autoRetrain g l | .hardLaneFailure g l => wfChan g && wfChanLane l
  | .channelRetrainDone g (.passed ls) => wfChan g && ls.all wfChanLane
  | .channelRetrainDone g .failed => wfChan g
  | .rowRemapDone g b => wfChan g && decide (b < 16)
  | .portTrainingDone p _ | .trainingTimeout p | .lightDetect ⟨p, _, _⟩ | .failedRetryTimer p _ | .laserInputLow p
  | .lightLoss p | .portRetrainDone p _ | .retrainTimeout p | .ackTimer p | .replayTimeout p | .tlRead p | .tlWrite p
  | .redwrite p | .tlPersist p | .readrsp p | .tlAck p | .message p | .collseg p | .mgmtHello p | .mgmtChallenge p
  | .cert p | .signed p | .attestTimeout p | .detach p | .collCancel p | .lsPair p | .lsStart p | .lsDigest p
  | .lsTiles p | .lsFreeze p | .lsEnd p | .buddyData p | .buddyCommit p | .buddyFetch p => wfPort p
  | .laneLockLoss p l => wfPort p && decide (l < 9)
  | .flitReceive p f e errs =>
    wfPort p && f.length == 256 && decide (e ≤ 544) && decide (errs.length ≤ 1) && errs.all (fun e => decide (e ≤ 544))
  | .responseTimeout p tag => wfPort p && decide (tag < 65536)
  | .nvmeCompletion q _ | .nvmeTimeout q => decide (q < 4)
  | .bringupStage n _ => decide (n < 6)
  | .sensorSample r => r.reach.length == 16 && r.dram.length == 32 && r.hub.length == 4 && r.outfall.length == 12
  | .i3cAddressAssign a => match a with | .setdasa _ d => decide (d < 128) | .entdaa d => decide (d < 128)
  | .tbist l m => l.all wfPos && m.all wfPos
  | .fuseprog t => match t with
    | .tile d r c => wfPos (d, r, c)
    | .rowRemap g b r => wfChan g && decide (b < 16) && decide (r < 4096)
    | .pageRetire g b r => wfChan g && decide (b < 16) && decide (r < 4096)
  | .memrep op => match op with
    | .rowRemap g b r => wfChan g && decide (b < 16) && decide (r < 4096)
    | .rowRetire g b r => wfChan g && decide (b < 16) && decide (r < 4096)
    | .laneSpare g l => wfChan g && decide (l < 576)
    | .laneMapout g l => wfChan g && decide (l < 576)
  | .powerUpStagger st => match st with | .reach d _ => decide (d < 16) | .engine e => decide (e < 12)
  | .sfuActivation | .atomicopRequest | .powerStateChange _ | .hostReadFailed _ | .functionLevelReset | .perstAssert
  | .perstDeassert | .spdmGetVersion | .spdmGetCapabilities _ | .spdmNegotiateAlgorithms _ | .spdmGetDigests
  | .spdmGetCertificate _ _ _ | .spdmChallenge _ _ | .getMeasurements _ _ _ | .spdmUnsupportedRequest _
  | .powerUp | .powerGood _ _ | .vinSample _ _ | .rideThroughExpiry | .pwrWarnAssert | .clockDividerUpdate _
  | .rootLockLoss | .i3cPrivateWrite _ | .i3cPrivateRead _ | .extest _ | .samplePreload _ | .idcode | .clamp | .highz
  | .scandump _ | .bypass _ | .hostLinkTrained | .lsPairTimeout => true

end Sys2Proof
end

