-- ==== Sys2Proof/Tests/Slice0.lean ====
section
/-! SUPPORT. Tests: ill-formed commands refused, and for every statement with hypotheses a concrete state and operands that meet them. -/

open Sys2Proof Sys2Proof.Machine

namespace Sys2Proof.Tests

-- One theorem after another: a theorem closed by the kernel waits for every earlier one.
set_option Elab.async false

/-! ### Well-formed commands: one ill-formed term for each check -/

theorem test_wf_ring : (Instr.identify 9 (List.replicate 64 0#8)).wf = false ∧ (Instr.headDoorbell 8 0).wf = false ∧
    (Instr.ringEnable 19 0).wf = false := by decide
theorem test_wf_quadrant : (Instr.quadrantDrained 4).wf = false := by decide
theorem test_wf_long_result :
    (Instr.longOperationDone ⟨[(16, 0, 0)], [], []⟩).wf = false ∧ (Instr.longOperationDone ⟨[], [1024], []⟩).wf = false ∧
      (Instr.longOperationDone ⟨[], [], [(0, 16, 0)]⟩).wf = false := by decide
theorem test_wf_register : (Instr.registerWrite 0x4004 8 0).wf = false ∧ (Instr.rngTableWrite 0x80000 2 0).wf = false ∧
    (Instr.elapsedRead 2).wf = false := by decide
theorem test_wf_vector : (Instr.vectorUnmask (some 64)).wf = false ∧ (Instr.holdoffExpiry 10).wf = false := by decide
theorem test_wf_aperture : (Instr.apertureRead 0x10000000 1).wf = false ∧ (Instr.apertureWrite 0 []).wf = false := by decide
theorem test_wf_task : (Instr.runStart 64).wf = false ∧ (Instr.rowRelease 0 50).wf = false ∧ (Instr.barrier 0 1048576).wf = false := by
  decide
theorem test_wf_tile : (Instr.feed 80000).wf = false ∧ (Instr.groupAdd 0 2 0 0 0).wf = false ∧ (Instr.groupAdd 0 1 8 0 0).wf = false ∧
    (Instr.groupAdd 0 1 0 8 0).wf = false ∧ (Instr.nullPass 0 2).wf = false ∧ (Instr.laneSwap 0 0 8).wf = false := by decide
theorem test_wf_channel : (Instr.refreshDue 1024).wf = false ∧ (Instr.autoRetrain 0 580).wf = false ∧ (Instr.rowRemapDone 0 16).wf = false ∧
    (Instr.channelRetrainDone 0 (.passed [580])).wf = false := by decide
theorem test_wf_port : (Instr.lightDetect ⟨48, true, true⟩).wf = false ∧ (Instr.laneLockLoss 0 9).wf = false ∧
    (Instr.flitReceive 0 [0#8] 0 []).wf = false ∧ (Instr.responseTimeout 0 65536).wf = false ∧ (Instr.nvmeTimeout 4).wf = false := by decide
theorem test_wf_codeword_errors : (Instr.flitReceive 0 (List.replicate 256 0#8) 0 [545]).wf = false ∧
    (Instr.flitReceive 0 (List.replicate 256 0#8) 545 []).wf = false ∧ (Instr.flitReceive 0 (List.replicate 256 0#8) 0 [0, 0]).wf = false := by
  decide +kernel
theorem test_wf_platform : (Instr.sensorSample { reach := [], dram := [], hub := [], outfall := [] }).wf = false ∧
    (Instr.powerUpStagger (.engine 12)).wf = false ∧ (Instr.i3cAddressAssign (.entdaa 128)).wf = false := by decide
theorem test_wf_test_port : (Instr.tbist [(0, 50, 0)] []).wf = false ∧ (Instr.fuseprog (.tile 0 0 102)).wf = false ∧
    (Instr.memrep (.laneSpare 0 576)).wf = false := by decide
theorem test_wf_accepts : (Instr.elapsedRead 8).wf = true ∧ (Instr.mma 79999).wf = true ∧ (Instr.registerWrite 0x4008 8 0).wf = true := by
  decide

/-! ### States the witnesses share -/

/-- A word of fields, each a value and its lowest bit. -/
def pack (l : List (Nat × Nat)) : W64 := BitVec.ofNat 64 (l.foldl (fun a e => a + e.1 * 2 ^ e.2) 0)

/-- A machine with one run in progress, of handle 0, its graph and its task 0 as given, after cyc cycles. -/
def running (g : Graph) (x : TaskRun) (cyc : Nat := 0) : State :=
  { plat := { clk := { cycle := BitVec.ofNat 64 cyc, root := 6 * cyc } },
    dev := { runs := [{ handle := 0, pkt := none, ring := 0, started := true, tasks := [(0, x)] }], graphs := [(0, g)] } }

/-- One tile at work, at physical place 0, with a program of these words. -/
def tileWith (u : Tile) (cyc : Nat := 0) : State :=
  let s := running { state := .running } { st := .running } cyc
  { s with dev := { s.dev with tiles := [(0, u)] } }

/-- A tile about to issue these words. -/
def prog (ws : List W64) : Tile := { phase := .running, store := ws }

/-- `issuesNow`, evaluated. -/
def issuable (s : State) (tile k : Nat) (mine : List W64 → Bool) (clear : Nat → Dev → Tile → List W64 → Bool) : Bool :=
  let t := tileAt s.dev k
  let ws := t.cur
  let c := issueCycle s.plat.cyc t ws
  tileOf s.dev.geom tile == some k && mayIssue s.plat s.dev t && decide (t.notBefore ≤ c) && mine ws &&
    !fetchBad t ((opWords (opOf (wd ws 0))).getD 1) && unitsFree c t ws && clear c s.dev t ws &&
    !mustWait c t ws (accesses t.n t.regs ws) && !rangesBad t ws

theorem issuesNow_of {s : State} {tile k : Nat} {mine : List W64 → Bool} {clear : Nat → Dev → Tile → List W64 → Bool}
    (h : issuable s tile k mine clear = true) : issuesNow s tile k mine clear := by
  unfold issuable at h
  simp only [Bool.and_eq_true, Bool.not_eq_true', decide_eq_true_eq, beq_iff_eq, and_assoc] at h
  exact h

/-- With a mapped megabyte of the near tier, on channel 0. -/
def withNear (s : State) : State :=
  { s with dev := { s.dev with near := { s.dev.near with
      regions := [(0, { valid := true, il := .chan, unit := 0, base := 0, size := 2097152, chans := [0] })] } } }

/-- Task 0 of the graph: a TILE task of the 2 by 2 tiles in the corner of die 0. -/
def tileDesc : List W64 := [pack [(1, 56)], 0, 0, pack [(1, 55), (2, 43), (2, 29)], pack [(1, 0)]] ++ List.replicate 11 0

/-- The tile with a neighbour to the east, at physical place 1, of the same task. -/
def pairOf (u v : Tile) (cyc : Nat := 0) : State :=
  let s := running { state := .running, tasks := [tileDesc] } { st := .running } cyc
  { s with dev := { s.dev with tiles := [(0, u), (1, v)] } }

/-- `crcFrom` with every intermediate value evaluated before the next byte is taken. -/
def crcStrict (c : Nat) : List Byte → Nat
  | [] => c
  | b :: bs => if crcByte c b < 2 ^ 64 then crcStrict (crcByte c b) bs else crcStrict (crcByte c b) bs

theorem crcFrom_eq_strict (c : Nat) (l : List Byte) : crcFrom c l = crcStrict c l := by
  induction l generalizing c with
  | nil => rfl
  | cons b l ih => rw [crcFrom, ih, crcStrict, ite_self]

/-! ### Tile instructions -/

/-- VEC on FP32 elements, one element. -/
def vecWord (op : Nat) (reg : Nat := 0) : List W64 := [pack [(0x50, 56), (op, 47), (8, 43), (64, 22), (128, 4)], pack [(1, 48), (reg, 3)]]

theorem witness_VecElementwise : ∀ e ∈ Claims.vecElementwise,
    issuesNow (tileWith (prog (vecWord e.2.1))) 0 0 (isVec e.2.1) (fun c _ t ws => noWait c t ws) :=
  fun e he => issuesNow_of ((by decide +kernel : ∀ e ∈ Claims.vecElementwise,
    issuable (tileWith (prog (vecWord e.2.1))) 0 0 (isVec e.2.1) (fun c _ t ws => noWait c t ws) = true) e he)

theorem witness_VecReductionsAndFill :
    (∀ e ∈ Claims.vecReductions,
      issuesNow (tileWith (prog (vecWord e.2.1))) 0 0 (isVec e.2.1) (fun c _ t ws => noWait c t ws)) ∧
    issuesNow (tileWith (prog (vecWord 0x18))) 0 0 (isVec 0x18) (fun c _ t ws => noWait c t ws) :=
  ⟨fun e he => issuesNow_of ((by decide +kernel : ∀ e ∈ Claims.vecReductions,
    issuable (tileWith (prog (vecWord e.2.1))) 0 0 (isVec e.2.1) (fun c _ t ws => noWait c t ws) = true) e he),
   issuesNow_of (by decide +kernel)⟩

theorem witness_RdregAndClrvf : (∀ r ∈ [0, 4, 0x10, 0x13],
      issuesNow (tileWith (prog (vecWord 0x20 r))) 0 0 (isVec 0x20) (fun c _ t ws => rdregClear c t ws) ∧
        rdregBytes (vReg (wd (tileAt (tileWith (prog (vecWord 0x20 r))).dev 0).word 1)) ≠ 0) ∧
    issuesNow (tileWith (prog (vecWord 0x21))) 0 0 (isVec 0x21) (fun c _ t _ => landed c (fun u => u == 1) t) :=
  ⟨fun r hr => ⟨issuesNow_of ((by decide +kernel : ∀ r ∈ [0, 4, 0x10, 0x13], issuable (tileWith (prog (vecWord 0x20 r))) 0 0
      (isVec 0x20) (fun c _ t ws => rdregClear c t ws) = true) r hr),
    (by decide +kernel : ∀ r ∈ [0, 4, 0x10, 0x13],
      rdregBytes (vReg (wd (tileAt (tileWith (prog (vecWord 0x20 r))).dev 0).word 1)) ≠ 0) r hr⟩,
   issuesNow_of (by decide +kernel)⟩

theorem witness_Sfu : issuesNow (tileWith (prog [pack [(0x60, 56), (8, 45), (8, 41), (64, 23)], pack [(2, 48)]])) 0 0
    (fun ws => opOf (wd ws 0) == 0x60) (fun _ _ _ _ => true) := issuesNow_of (by decide +kernel)

def qopWord (sub : Nat) : List W64 := [pack [(0x40, 56), (sub, 50), (1, 49), (2, 45), (3, 40), (8, 27)]]

/-- A tile whose next instruction is a QOP while a pass of one group into its slot has yet to add it in cell (7, 7): `slot` 2, or
another. -/
def qopPassing (sub slot : Nat) : Tile :=
  { prog (qopWord sub) with passB := [{ slot := slot, kcnt := 4, done := (List.range 63).map (fun c => (c, 1)) }] }

theorem witness_Quire : (∀ sub ∈ [0, 1, 2, 3, 4], ∀ slot ∈ [2, 12],
      issuesNow (tileWith (qopPassing sub slot) 12) 0 0 (isQop sub) (fun c _ t ws => qopClear c t ws)) ∧
    (∀ sub ∈ [0, 1, 2, 3, 4], ∀ slot ∈ [2, 12], qopBad (qopPassing sub slot) (qopPassing sub slot).word = false) ∧
    (∀ sub ∈ [0, 1, 2, 3, 4], qopLeft (qopPassing sub 12) (wd (qopWord sub) 0) = [] ∧
      qopLeft (qopPassing sub 2) (wd (qopWord sub) 0) = [63]) :=
  ⟨fun sub h slot h' => issuesNow_of ((by decide +kernel : ∀ sub ∈ [0, 1, 2, 3, 4], ∀ slot ∈ [2, 12],
      issuable (tileWith (qopPassing sub slot) 12) 0 0 (isQop sub) (fun c _ t ws => qopClear c t ws) = true) sub h slot h'),
    by decide +kernel, by decide +kernel⟩

def rowWord (op : Nat) : List W64 := [pack [(0x70, 56), (op, 50), (8, 39)], pack [(3, 47), (8, 60), (8, 56)], 0]

theorem witness_Rows : (∀ op ∈ [0, 1, 5, 7],
      issuesNow (tileWith (prog (rowWord op))) 0 0 (isRow op) (fun c _ t ws => noWait c t ws)) ∧
    (∀ op ∈ [2, 6], issuesNow (tileWith (prog (rowWord op))) 0 0 (isRow op) (fun _ _ _ _ => true)) ∧
    issuesNow (tileWith (prog (rowWord 4))) 0 0 (isRow 4) (fun c _ t ws => divSlotsFinal c t ws) ∧
    issuesNow (tileWith (prog (rowWord 3))) 0 0 (isRow 3) (fun c _ t ws => rescaleSlotsFree c t ws) ∧
    rowSlotsBad 4 (prog (rowWord 4)) (prog (rowWord 4)).word = false ∧ ((prog (rowWord 6)).rowCtx 0).rows.length = 8 :=
  ⟨fun op h => issuesNow_of ((by decide +kernel : ∀ op ∈ [0, 1, 5, 7], issuable (tileWith (prog (rowWord op))) 0 0 (isRow op)
      (fun c _ t ws => noWait c t ws) = true) op h),
   fun op h => issuesNow_of ((by decide +kernel : ∀ op ∈ [2, 6], issuable (tileWith (prog (rowWord op))) 0 0 (isRow op)
      (fun _ _ _ _ => true) = true) op h),
   issuesNow_of (by decide +kernel), issuesNow_of (by decide +kernel), by decide +kernel, by decide +kernel⟩

def lutWord : List W64 := [pack [(0x80, 56), (1, 52), (128, 29)]]

theorem witness_Lut : issuesNow (tileWith (prog lutWord)) 0 0 (fun ws => opOf (wd ws 0) == 0x80)
      (fun cyc _ t ws => (t.lut (fld (wd ws 0) 52 52)).settledAt cyc) ∧
    reloadRefused {} (tileWith (prog lutWord)).dev (prog lutWord) = false ∧
    (let u := { prog lutWord with lutB := { st := .loading, since := 3 } }
     let s := tileWith u 11
     tileOf s.dev.geom 0 = some 0 ∧ reloadRefused s.plat s.dev u = true) ∧
    (let s := tileWith { phase := .running, lutA := { st := .loading, since := 3 } } 11
     tileOf s.dev.geom 0 = some 0 ∧ s.plat.alive = true ∧ tileRuns s.dev (tileAt s.dev 0) = true ∧
       ((tileAt s.dev 0).lut 0).since + 8 ≤ s.plat.cyc) ∧
    (let s := tileWith { phase := .running, lutB := { st := .pending, since := 12, target := true } } 12
     let x := (tileAt s.dev 0).lut 1
     tileRuns s.dev (tileAt s.dev 0) = true ∧ x.since ≤ s.plat.cyc ∧ x.lanes.toNat.testBit 7 ≠ x.target ∧ (tileAt s.dev 0).passes 1 = [] ∧
       swapCycle (tileAt s.dev 0).n 7 x.since [] ≤ s.plat.cyc) :=
  ⟨issuesNow_of (by decide +kernel), by decide +kernel, by decide +kernel, by decide +kernel, by decide +kernel⟩

def stream0 : DataStream := ⟨0, false, 0, 8, 0, 0, 0⟩

theorem witness_Passes :
    issuesNow (tileWith (prog [pack [(0x10, 56), (8, 17)], 0])) 0 0 (fun ws => opOf (wd ws 0) == 0x10)
      (fun _ _ t ws => (tget {} t.feed (feederKey (feedArr (wd ws 0)) (feedSide (wd ws 0)))).pendD.isNone) ∧
    issuesNow (tileWith (prog [pack [(0x11, 56), (1, 48)]])) 0 0 (fun ws => opOf (wd ws 0) == 0x11)
      (fun _ _ t ws => (tget {} t.feed (feederKey (feedArr (wd ws 0)) (feedSide (wd ws 0)))).pendS.isNone) ∧
    (∀ op ∈ [0x20, 0x21], issuesNow (tileWith { prog [pack [(op, 56), (1, 51), (8, 18)], 0] with
      feed := [(0, { pendD := some stream0 }), (1, { actD := some stream0 })] }) 0 0 (fun ws => opOf (wd ws 0) == op) mmaClear) :=
  ⟨issuesNow_of (by decide +kernel), issuesNow_of (by decide +kernel),
   fun op h => issuesNow_of ((by decide +kernel : ∀ op ∈ [0x20, 0x21], issuable (tileWith { prog [pack [(op, 56), (1, 51), (8, 18)], 0] with
      feed := [(0, { pendD := some stream0 }), (1, { actD := some stream0 })] }) 0 0 (fun ws => opOf (wd ws 0) == op) mmaClear = true) op h)⟩

/-- A pass of one group on array A that its feeders have read, the last of whose cells is due in cycle 16. -/
def onePass : Pass := { kcnt := 4, dA := some stream0, dB := some stream0, read := 1 }

/-- A tile with that pass. -/
def passing : Tile := { phase := .ended, passA := [onePass] }

theorem witness_GroupAdd :
    let s := tileWith passing 16
    tileOf s.dev.geom 0 = some 0 ∧ s.plat.alive = true ∧ tileRuns s.dev passing = true ∧
      passOfCell passing.n 63 (passing.passes 0) = some (0, onePass) ∧
      onePass.issue + 2 + 7 + 7 + tget 0 onePass.done 63 * passing.n.period ≤ s.plat.cyc ∧ tget 0 onePass.done 63 < onePass.read ∧
      groupBad passing 0 onePass 7 7 0 = false ∧ passing.held = [] ∧ tget 0 onePass.done 63 + 1 = onePass.groups passing.n ∧
      passing.passes 0 = [onePass] ∧ passing.passes 1 = [] ∧ passing.phase ≠ .idle ∧
      passing.gated.toNat.testBit 1 = false ∧ passing.cntAt.getD 3 none ≠ some s.plat.cyc ∧
      (let u : Tile := { passing with held := [{ ws := qopWord 0, regs := [], issue := 12, left := [62, 63] }] }
       tileRuns (tileWith u 16).dev u = true ∧ groupBad u 0 onePass 7 7 0 = false ∧ onePass.after.contains 12 = false ∧
         qSub (wd (qopWord 0) 0) ≤ 2) := by decide +kernel

/-- The pass before its feeders have read, and the words they are to read. -/
def unfed : Pass := { onePass with read := 0 }
def handed : Table Held := (feedNeeds passing.n unfed 0).map (fun e => (e.1, { words := e.2.2 }))

theorem witness_FeedersAndBanks :
    (∀ q ∈ [unfed, { unfed with got := handed }], readingPass 1 passing.n [q] = some q) ∧ feedNeeds passing.n unfed 0 ≠ [] ∧
    feedNeeds passing.n { unfed with got := handed } 0 = [] ∧
    (∃ r ∈ ([⟨0, 5, 0, 9⟩, ⟨1, 37, 0, 0⟩] : List BankReq), r.rank ≠ 16) := by decide +kernel

def drainWord : List W64 := [pack [(0x30, 56)], 0, 0, 0]

/-- A settled DRAIN, issued in cycle 1, with so many rows taken and written. -/
def settling (taken wrote : Nat) : Drain := { ws := drainWord, regs := [], issue := 1, taken := taken, wrote := wrote }

/-- A tile past its END with one DRAIN in hand. -/
def drainTile (x : Drain) : Tile := { phase := .ended, drains := [x] }

theorem witness_Drain :
    issuesNow (tileWith (prog drainWord)) 0 0 (fun ws => opOf (wd ws 0) == 0x30) drainClear ∧
    (∀ still ∈ [true, false], drainDue 0 still (prog drainWord) = false) ∧
    (∀ x ∈ [settling 1 0, settling 8 0, settling 8 7], Claims.converts (tileWith (drainTile x) 30) 0 0 ∧ x.stall = none) ∧
    drainDue 3 false (drainTile (settling 1 0)) = true ∧
    (let x := settling 1 0
     let u := drainTile x
     let y := drainPlan u x
     x.taken < y.steps ∧ 3 = y.lo + x.taken ∧ x.taken < x.wrote + 3 ∧
       (∀ c ∈ stepCells y x.taken, cellReady u x (8 * c.1 + c.2) = true) ∧
       slotBad u u.n.qwidth 0 0 ((stepCells y x.taken).map (fun c => 8 * c.1 + c.2)) = false) ∧
    (∀ x ∈ [settling 8 0, settling 8 7], let u := drainTile x
      let y := drainPlan u x
      y.steps = 8 ∧ x.taken = 8 ∧ u.n.policy ≠ 2 ∧ u.sram2 = [] ∧ (if x.wrote = 7 then y.lo + x.wrote + 3 ≤ 30 else 5 = y.lo + x.wrote + 3)) ∧
    (∀ n ∈ [0, 7], let x : Drain := { settling 8 8 with again := some 0, rows := n }
      let u := drainTile x
      Claims.converts (tileWith u 30) 0 0 ∧ u.drains = [x] ∧ x.again = some 0 ∧ u.sram2 = [] ∧
        (n = 0 → 21 = drainLast u x + 9 + x.rows) ∧ drainLast u x + 16 ≤ 28) := by
  refine ⟨issuesNow_of (by decide +kernel), by decide +kernel, ?_, by decide +kernel, by decide +kernel, by decide +kernel, ?_⟩
  · unfold Claims.converts; decide +kernel
  · unfold Claims.converts; decide +kernel

def dmaWord (dir near n : Nat) : List W64 := [pack [(0x90, 56), (dir, 50)], pack [(near, 24)], pack [(n, 46)]]

/-- A transfer of 64 bytes at address 0. -/
def queuedXfer (dir : Nat) : Xfer :=
  { id := 7, dir := dir, near := 0, laddr := 0, len := 64, token := 0, hint := 0, rtype := 0, data := List.replicate 64 1#8, left := 1 }

theorem witness_Transfers :
    (∀ e ∈ Claims.nearDma,
      issuesNow (withNear (tileWith (prog (dmaWord e.2 2097088 64)))) 0 0 (isDma e.2) dmaClear ∧
        issuesNow (withNear (tileWith (prog (dmaWord e.2 2097152 64)))) 0 0 (isDma e.2) dmaClear) ∧
    mapped (withNear State.reset).dev 2097088 64 = true ∧ mapped (withNear State.reset).dev 2097152 64 = false ∧
    issuesNow (pairOf (prog (dmaWord 3 0 64)) { phase := .running }) 0 0 (isDma 3) dmaClear ∧
    (let x : Xfer := { queuedXfer 3 with id := 0, len := 2, token := 2, data := [1#8, 2#8], left := 0, rtype := 0, due := 5 }
     let s := pairOf { phase := .running, dma := [x] } { phase := .running } 5
     tileRuns s.dev (tileAt s.dev 0) = true ∧ (tileAt s.dev 0).dma = [x] ∧ x.due ≤ s.plat.cyc ∧
       neighbour s.dev (tileAt s.dev 0) 2 = some 1 ∧ (tileAt s.dev 1).badWrite x.near x.data.length = false) ∧
    (let x : Xfer := { queuedXfer 0 with id := 0, len := 2, token := 31, data := [], left := 0 }
     let s := tileWith { phase := .running, dma := [x] }
     tileRuns s.dev (tileAt s.dev 0) = true ∧ x.left = 0 ∧ x.token < 32 ∧ (graphAt s.dev 0).still = false) :=
  ⟨fun e he => ⟨issuesNow_of ((by decide +kernel : ∀ e ∈ Claims.nearDma,
      issuable (withNear (tileWith (prog (dmaWord e.2 2097088 64)))) 0 0 (isDma e.2) dmaClear = true) e he),
    issuesNow_of ((by decide +kernel : ∀ e ∈ Claims.nearDma,
      issuable (withNear (tileWith (prog (dmaWord e.2 2097152 64)))) 0 0 (isDma e.2) dmaClear = true) e he)⟩,
   by decide +kernel, by decide +kernel, issuesNow_of (by decide +kernel), by decide +kernel, by decide +kernel⟩

def syncWord (op tgt tok n : Nat) : List W64 := [pack [(0xB0, 56), (op, 51), (tgt, 48), (tok, 43), (n, 27)]]

theorem witness_Sequencer :
    (∀ op ∈ [0xA0, 0xA1, 0xA2], issuesNow (tileWith (prog [pack [(op, 56), (9, 49), (3, 37), (1, 25)], 0])) 0 0
      (fun ws => opOf (wd ws 0) == op) (fun c _ t ws => noWait c t ws)) ∧
    issuesNow (tileWith { prog (syncWord 0 0 31 2) with tok := [(31, 2)] }) 0 0 (isSync 0)
      (fun cyc _ t ws => decide (syncCount (wd ws 0) ≤ tget 0 (t.arrive cyc).tok (syncTok (wd ws 0)))) ∧
    issuesNow (tileWith (prog (syncWord 2 0 0 0))) 0 0 (isSync 2) (fun c _ t _ => allDone c t) ∧
    issuesNow (tileWith (prog (syncWord 3 0 0 9))) 0 0 (isSync 3) (fun c _ t ws => noWait c t ws) ∧
    (∀ tgt ∈ [0, 2], issuesNow (pairOf (prog (syncWord 1 tgt 0 1)) { phase := .running }) 0 0 (isSync 1)
      (fun cyc _ t _ => t.drains.isEmpty && landed cyc (fun u => u == 6 || u == 7) t)) ∧
    (let s := pairOf (prog (syncWord 1 2 0 1)) { phase := .running }
     neighbour s.dev (tileAt s.dev 0) 2 = some 1 ∧ takesSignal 0 0 (tileAt s.dev 1) = true) :=
  ⟨fun op h => issuesNow_of ((by decide +kernel : ∀ op ∈ [0xA0, 0xA1, 0xA2],
      issuable (tileWith (prog [pack [(op, 56), (9, 49), (3, 37), (1, 25)], 0])) 0 0 (fun ws => opOf (wd ws 0) == op)
        (fun c _ t ws => noWait c t ws) = true) op h),
   issuesNow_of (by decide +kernel), issuesNow_of (by decide +kernel), issuesNow_of (by decide +kernel),
   fun tgt h => issuesNow_of ((by decide +kernel : ∀ tgt ∈ [0, 2], issuable (pairOf (prog (syncWord 1 tgt 0 1)) { phase := .running }) 0 0
      (isSync 1) (fun cyc _ t _ => t.drains.isEmpty && landed cyc (fun u => u == 6 || u == 7) t) = true) tgt h),
   by decide +kernel⟩
/-! ### Runs and tasks -/

/-- A descriptor: kind, SUB, and the words after word 0. -/
def desc (kind sub : Nat) (ws : List W64) : List W64 :=
  (pack [(kind, 56), (sub, 48), (0x10, 40)] :: ws) ++ List.replicate (15 - ws.length) 0

/-- The run in progress of `running`. -/
def theRun (x : TaskRun) : Run := { handle := 0, pkt := none, ring := 0, started := true, tasks := [(0, x)] }

/-- A graph of one task. -/
def oneTask (w : List W64) (still : Bool := false) : Graph := { state := .running, still := still, tasks := [w] }

/-- A task that runs since run cycle 0. -/
def live : TaskRun := { st := .running }

/-- The descriptor of an engine in the mode it takes. -/
def engDesc (e : (Nat → Nat → Instr) × Nat × (Nat → Bool) × (EngC → List W64 → Eng → Eng × Bool)) : List W64 :=
  desc 2 e.2.1 [0, pack [(((List.range 6).find? e.2.2.1).getD 0, 60), (8, 56), (8, 52)]]

/-- COPY or FILL of 64 bytes to address 4096. -/
def dmaDesc (mode : Nat) : List W64 := desc 2 4 [0, pack [(mode, 60)], 0, 4096, 64]

theorem witness_EnginesWork :
    (∀ e ∈ Claims.engines, Claims.dispatches (withNear (running (oneTask (engDesc e)) {})) 0 0 (theRun {})
      (fun w => dKind w == 2 && dSub w == e.2.1 && e.2.2.1 (engW w).mode)) ∧
    engBadParam (withNear State.reset).dev (desc 2 4 [0, 0, 0, 2097152, 64]) = true ∧
    engBadParam (withNear State.reset).dev (desc 2 4 [0, 0, 0, 2097088, 64]) = false ∧
    (∀ mode ∈ [0, 1], let d := dispatchTask {} 0 0 (withNear (running (oneTask (dmaDesc mode)) {})).dev
      engBadParam (withNear State.reset).dev (dmaDesc mode) = false ∧
        ((if mode = 0 then engCopy ⟨{}, false, 0, 0⟩ (dmaDesc mode) { dev := d, seen := d }
          else engFill ⟨{}, false, 0, 0⟩ (dmaDesc mode) { dev := d, seen := d }).reads = [] ↔ mode = 1)) ∧
    Claims.dispatches (withNear (running (oneTask (dmaDesc 0) true) {})) 0 0 (theRun {})
      (fun w => dKind w == 2 && dSub w == 4 && (engW w).mode == 0) := by
  refine ⟨?_, ?_, ?_, ?_, ?_⟩
  · unfold Claims.dispatches; decide +kernel
  · decide +kernel
  · decide +kernel
  · decide +kernel
  · unfold Claims.dispatches; decide +kernel

theorem witness_EngineComplete :
    let w := desc 2 4 [0, 0, 0, 4096, 64]
    let due := engineDue (withNear State.reset).dev w live
    (∀ c ∈ [due - 1, due], Claims.runs (withNear (running (oneTask w) live c)) 0 0 (theRun live) (fun w => dKind w == 2)) ∧
    runCycle (running (oneTask w) live (due - 1)).plat (theRun live) < due ∧
    (∀ n ∈ [0, 3, 4], let x : TaskRun := { st := .running, work := { engStage := n, atDispatch := n == 0 } }
     let s := withNear (running (oneTask w) x due)
     Claims.runs s 0 0 (theRun x) (fun w => dKind w == 2) ∧ engineDue s.dev w x ≤ runCycle s.plat (theRun x) ∧
       Claims.notEarly s 0 0 (theRun x) due ∧ (x.work.atDispatch = true ∨ x.work.engStage = 3 ∨ 4 ≤ x.work.engStage) ∧
       (taskOf (makePuts s.plat 0 0 x.work.puts s.dev) 0 0).isSome = true) := by
  unfold Claims.runs Claims.notEarly; decide +kernel

/-- A machine with a loaded graph and a run that waits to start; paired for lock-step or not. -/
def waiting (paired : Bool) : State :=
  { dev := { runs := [{ handle := 0, pkt := some 0, ring := 0 }], graphs := [(0, { state := .loaded, nid := 0xA101000100000001#64 })],
             obs := { ls := { state := if paired then .paired else .unpaired } } } }

theorem witness_RunStart : ∀ paired ∈ [true, false],
    let s := waiting paired
    let r : Run := { handle := 0, pkt := some 0, ring := 0 }
    waitingRun s.dev 0 = some r ∧ runOf s.dev 0 = none ∧ s.plat.serving = true ∧ mayStart s.dev r = true ∧ outranked s.dev r = false ∧
      startFail s.dev r = none ∧ (graphAt s.dev 0).still = false ∧ isPaired s.dev = paired ∧ r.lsStart = false ∧
      s.dev.obs.ls.gotStart = none := by decide +kernel

theorem witness_RowRelease : ∀ c ∈ [68991, 68992],
    let r := { theRun live with wave := true, rowsOut := 49 }
    let s := { running (oneTask (desc 6 0 [])) live c with dev := { (running (oneTask []) live).dev with runs := [r] } }
    runOf s.dev 0 = some r ∧ s.plat.alive = true ∧ r.rowsOut = 49 ∧ (1408 * 49 ≤ runCycle s.plat r ↔ c = 68992) := by decide +kernel

theorem witness_TileTasks :
    Claims.dispatches (running (oneTask tileDesc) {} 768) 0 0 (theRun {}) (fun w => dKind w == 1) ∧
    ((rectOf tileDesc).count = 4 ∧ (∀ i, i < 4 → ∀ j, j < 4 →
      tileOf ({} : Geom) ((rectOf tileDesc).num i) = tileOf ({} : Geom) ((rectOf tileDesc).num j) → j = i)) ∧
    issuesNow (tileWith (prog [pack [(0xFF, 56)]])) 0 0 (fun ws => opOf (wd ws 0) == 0xFF) (fun c _ t ws => noWait c t ws) ∧
    (let s := tileWith { phase := .ended } 4
     runOf s.dev 0 = some (theRun live) ∧ s.plat.alive = true ∧ allDone s.plat.cyc (tileAt s.dev 0) = true ∧
       (tileAt s.dev 0).notBefore ≤ s.plat.cyc) ∧
    (let x := desc 1 0 [0, 0, pack [(1, 55), (1, 43), (1, 29)]]
     let s0 := running (oneTask x) live 5
     let s := { s0 with dev := { s0.dev with tiles := [(0, { phase := .stopped .uncorrectable, endCycle := 4 })] } }
     let ts := ((taskTiles s.dev (descOf (graphAt s.dev 0) 0)).filterMap id).map (tileAt s.dev)
     Claims.runs s 0 0 (theRun live) (fun w => dKind w == 1) ∧ Claims.notEarly s 0 0 (theRun live) 5 ∧ (∀ u ∈ ts, u.over = true) ∧
       ts.foldl (fun a u => max a u.endCycle) 0 = 4) := by
  refine ⟨?_, ?_, issuesNow_of (by decide +kernel), ?_, ?_⟩
  · unfold Claims.dispatches; decide +kernel
  · decide +kernel
  · decide +kernel
  · unfold Claims.runs Claims.notEarly; decide +kernel

theorem witness_Barriers : ∀ x ∈ [(6, 0, false), (6, 1, false), (6, 1, true), (5, 3, false), (5, 3, true)],
    Claims.dispatches (running (oneTask (desc x.1 x.2.1 []) x.2.2) {}) 0 0 (theRun {}) (fun w => dKind w == x.1 && dSub w == x.2.1) := by
  unfold Claims.dispatches; decide +kernel

theorem witness_IngressComplete : ∀ still ∈ [true, false],
    let r := { theRun live with rowsOut := 50 }
    let s0 := running (oneTask (desc 6 1 []) still) live
    let s := { s0 with dev := { s0.dev with runs := [r] } }
    Claims.runs s 0 0 r isIngress ∧ r.lock = none ∧ (taskAt r 0).work.fate = none ∧
      (preds (graphAt s.dev 0) 0).all (fun u => (taskAt r u).st == .ended) = true ∧
      ingressReady s.dev (descOf (graphAt s.dev 0) 0) (taskAt r 0) = true ∧ r.rowsOut = 50 ∧ refreshBusy s.plat s.dev = false := by
  unfold Claims.runs; decide +kernel

theorem witness_Limits :
    (let w := desc 2 4 [9]
     let s := running (oneTask w true) live 9
     Claims.runs s 0 0 (theRun live) isTimed ∧ dDecl w ≠ 0 ∧ (taskAt (theRun live) 0).s + dDecl w ≤ runCycle s.plat (theRun live) ∧
       declExempt s.dev w (taskAt (theRun live) 0) = false ∧ completeBy s.dev (theRun live) w (taskAt (theRun live) 0) = false ∧
       memStop ((tilesOf s.dev 0 0).map (·.2)) = none) ∧
    (let s := running { oneTask (desc 2 4 []) with timeout := 7 } live 8
     Claims.runs s 0 0 (theRun live) (fun _ => true) ∧ (graphAt s.dev 0).timeout ≠ 0 ∧ (graphAt s.dev 0).still = false ∧
       0 + (graphAt s.dev 0).timeout < runCycle s.plat (theRun live) ∧ memStop ((tilesOf s.dev 0 0).map (·.2)) = none) := by
  unfold Claims.runs; decide +kernel

theorem witness_RunEnd :
    let r : Run := { theRun { st := .ended } with pkt := some 0, record := 4096 }
    let s := { running (oneTask (desc 6 0 [])) live with dev := { (running (oneTask (desc 6 0 [])) live).dev with runs := [r] } }
    runOf s.dev 0 = some r ∧ s.plat.alive = true ∧ r.pausedAt = none ∧ runOver (graphAt s.dev 0) r = true ∧ r.lock = none ∧
      r.silent = false ∧ r.pkt ≠ none ∧ r.record ≠ 0#64 := by decide +kernel

theorem witness_Marks :
    (∀ sub ∈ [0, 1, 2], Claims.dispatches (running (oneTask (desc 5 sub [])) {}) 0 0 (theRun {}) (fun w => dKind w == 5 && dSub w == sub)) ∧
    policyOn (running (oneTask (desc 5 0 [])) {}).dev.oxb = none ∧
    (preds (oneTask (desc 5 0 [])) 0).all (fun u => (taskAt (theRun {}) u).st == .ended) = true ∧
    (∀ x ∈ [(1, 16), (2, 32)], let s := running (oneTask (desc 5 x.1 [])) live x.2
      Claims.runs s 0 0 (theRun live) (fun w => dKind w == 5 && dSub w == x.1) ∧ Claims.notEarly s 0 0 (theRun live) x.2 ∧
        (taskAt (theRun live) 0).s + x.2 ≤ runCycle s.plat (theRun live)) := by
  unfold Claims.dispatches Claims.runs Claims.notEarly; decide +kernel

/-- A MOVE of 64 bytes between near ranges, to an address. -/
def moveDesc (sub dst : Nat) : List W64 := desc 3 sub [0, 0, 0, BitVec.ofNat 64 dst, 64]

/-- A COLL of one rank of 64 bytes at an address. -/
def collDesc (sub at' : Nat) : List W64 :=
  desc 4 sub [0, pack [(8, 56)], 0, 0, BitVec.ofNat 64 at', BitVec.ofNat 64 at', BitVec.ofNat 64 at', 16]

theorem witness_MovesDispatch :
    (∀ sub ∈ [0, 1], ∀ dst ∈ [4096, 2097152], Claims.dispatches (withNear (running (oneTask (moveDesc sub dst)) {})) 0 0 (theRun {})
      (fun w => dKind w == 3 && dSub w == sub)) ∧
    moveFate (withNear State.reset).dev (oneTask (moveDesc 0 2097152)) (moveDesc 0 2097152) ≠ none ∧
    moveFate (withNear State.reset).dev (oneTask (moveDesc 0 4096)) (moveDesc 0 4096) = none ∧
    (∀ sub ∈ [0, 1, 2], ∀ a ∈ [4096, 2097152], Claims.dispatches (withNear (running (oneTask (collDesc sub a)) {})) 0 0 (theRun {})
      (fun w => dKind w == 4 && dSub w == sub)) ∧
    collFate (dispatchTask {} 0 0 (withNear (running (oneTask (collDesc 0 2097152)) {})).dev) 0 0 (collDesc 0 2097152) ≠ none ∧
    collFate (dispatchTask {} 0 0 (withNear (running (oneTask (collDesc 0 4096)) {})).dev) 0 0 (collDesc 0 4096) = none := by
  refine ⟨?_, ?_, ?_, ?_, ?_, ?_⟩
  · unfold Claims.dispatches; decide +kernel
  · decide +kernel
  · decide +kernel
  · unfold Claims.dispatches; decide +kernel
  · decide +kernel
  · decide +kernel

/-- A task whose end is known. -/
def doomed : TaskRun := { st := .running, work := { fate := some (stBadParam, 0) } }

/-- A MOVE whose 64 bytes are read and delivered. -/
def moved : TaskRun := { st := .running, work := { fed := 64, issued := 64, msgDone := true } }

theorem witness_MovesComplete :
    (∀ w ∈ [moveDesc 0 4096, collDesc 0 4096], Claims.runs (running (oneTask w) doomed 1) 0 0 (theRun doomed) (fun x => dKind x == dKind w) ∧
      (taskAt (theRun doomed) 0).s + 1 ≤ runCycle (running (oneTask w) doomed 1).plat (theRun doomed) ∧
      Claims.notEarly (running (oneTask w) doomed 1) 0 0 (theRun doomed) 1) ∧
    (let x : TaskRun := { doomed with work := { doomed.work with halting := true } }
     Claims.runs (running (oneTask (moveDesc 0 4096)) x 1) 0 0 (theRun x) (fun w => dKind w == 3) ∧ x.work.halting = true ∧
       x.work.fate ≠ none) ∧
    (let w := moveDesc 0 4096
     let s := withNear (running (oneTask w) moved 5000)
     let d := movePump s.plat 0 0 s.dev
     ∃ y, taskOf d 0 0 = some y ∧ y.work.fate = none ∧ moveDone d 0 0 w y.work = true ∧
       moveDue d (theRun moved) w y ≤ runCycle s.plat (theRun moved) ∧ Claims.notEarly s 0 0 (theRun moved) 5000) ∧
    (let w := collDesc 0 4096
     let x : TaskRun := { st := .running, work := { steps := collSteps w } }
     let s := withNear (running (oneTask w) x 50000)
     collDone s.dev w x.work = true ∧ x.s + (if clN w = 1 then collLength s.dev w else 1) ≤ runCycle s.plat (theRun x)) := by
  refine ⟨?_, ?_, ?_, ?_⟩
  · unfold Claims.runs Claims.notEarly; decide +kernel
  · unfold Claims.runs; decide +kernel
  · exact ⟨(taskOf (movePump (running (oneTask (moveDesc 0 4096)) moved 5000).plat 0 0
      (withNear (running (oneTask (moveDesc 0 4096)) moved 5000)).dev) 0 0).getD {}, by unfold Claims.notEarly; decide +kernel⟩
  · decide +kernel
/-! ### Packets -/

/-- Bytes from one offset up to another: the fields (offset, size, value), ascending, and zeros between them. -/
def fields (pos : Nat) (l : List (Nat × Nat × Nat)) (n : Nat) : List Byte :=
  match l with
  | [] => List.replicate (n - pos) 0#8
  | f :: fs => List.replicate (f.1 - pos) 0#8 ++ (natLe f.2.1 f.2.2 ++ fields (f.1 + f.2.1) fs n)

/-- A packet of an opcode at version 1.3 with parameter fields. -/
def packet (op : Nat) (l : List (Nat × Nat × Nat)) : Packet :=
  let u := match opInfo (natLe 2 op ++ List.replicate 62 0#8 ++ fields 0 (l.take 1) 64) with | some i => i.units | none => 0
  natLe 2 op ++ ([0x13#8, 0#8] ++ (natLe 4 1 ++ (natLe 2 u ++ (List.replicate 54 0#8 ++ fields 0 l (64 * u)))))

/-- A machine that has agreed on version 1.3 and takes packets on the admin ring and on work ring 0. -/
def hosted (d : Dev := {}) : State :=
  let on : Ring := { enable := true, base := 16, tail := 40 }
  let off : Ring := { enable := true, base := 32 }
  { dev := { d with host := { d.host with rings := [(0, on), (8, on), (9, off), (17, off)], yenelVer := 0x13#8 } } }

/-- A packet of each packet command, in the order of `Claims.packetCommands`: opcode, parameter fields. -/
def eachPacket : List Packet :=
  [packet 0x01 [], packet 0x02 [], packet 0x10 [], packet 0x11 [], packet 0x12 [], packet 0x13 [], packet 0x20 [], packet 0x21 [],
   packet 0x30 [], packet 0x31 [], packet 0x32 [], packet 0x40 [], packet 0x40 [(0, 1, 1)], packet 0x41 [], packet 0x42 [], packet 0x43 [],
   packet 0x50 [], packet 0x50 [(0, 1, 0xFF)], packet 0x60 [], packet 0x61 [], packet 0x61 [(0, 1, 1)], packet 0x70 [],
   packet 0x71 [], packet 0x71 [(2, 1, 1)], packet 0x72 [], packet 0x73 [], packet 0x74 [], packet 0x74 [(2, 1, 1)],
   packet 0x80 [], packet 0x81 [], packet 0x90 [], packet 0xB0 [], packet 0xC0 []]

theorem witness_Refused :
    let s := hosted { host := { longOp := some (0, .secureErase) } }
    (Claims.packetCommands [] 0 [] []).length = 33 ∧ eachPacket.length = 33 ∧
      ∀ x ∈ (Claims.packetCommands [] 0 [] []).zip eachPacket,
        x.1.2 x.2 = true ∧ canTake s.plat s.dev 8 x.2 = true ∧ takeChecks s.dev 8 x.2 = some stBusy := by decide +kernel

theorem witness_Hello :
    (let p := packet 1 [(0, 1, 0x10), (1, 1, 0x13)]
     pkOpcode p = 1 ∧ ringHeld (hosted {}).dev 0 = false ∧ canTake (hosted {}).plat (hosted {}).dev 0 p = true) ∧
    (∀ v ∈ [(0x14, 0x13), (0x13, 0x13), (0x10, 0x10), (0x11, 0x14), (0x14, 0x14), (0x0F, 0x0F)],
      Claims.accepted (hosted {}) 8 (packet 1 [(0, 1, v.1), (1, 1, v.2)]) ∧
        par (packet 1 [(0, 1, v.1), (1, 1, v.2)]) 0 1 = v.1 ∧ par (packet 1 [(0, 1, v.1), (1, 1, v.2)]) 1 1 = v.2) ∧
    (0x13 < 0x14 ∧ max 0x13 0x10 ≤ min 0x13 0x13 ∧ max 0x10 0x10 ≤ min 0x10 0x13 ∧ min 0x14 0x13 < max 0x14 0x10 ∧
      min 0x0F 0x13 < max 0x0F 0x10) := by
  unfold Claims.accepted; decide +kernel

theorem witness_Records :
    (∀ p ∈ [packet 0x01 [(0, 1, 0x10), (1, 1, 0x13)], packet 0x02 [(8, 4, 4096)], packet 0x30 [(8, 4, 3072)],
        packet 0x70 [(0, 2, 1023), (0x10, 4, 5184)], packet 0x90 [(0, 1, 4), (0x10, 4, 256)]], Claims.accepted (hosted {}) 8 p) ∧
    4096 ≤ par (packet 0x02 [(8, 4, 4096)]) 8 4 ∧ 3072 ≤ par (packet 0x30 [(8, 4, 3072)]) 8 4 ∧
    (let p := packet 0x70 [(0, 2, 1023), (0x10, 4, 5184)]
     par p 0 2 ≤ 1023 ∧ 5184 ≤ par p 0x10 4 ∧ stillRunning (hosted {}).dev = false) ∧
    (let p := packet 0x90 [(0, 1, 4), (0x10, 4, 256)]
     telemetryRecord {} (hosted {}).dev (par p 0 1) (par p 2 2) ≠ none ∧ telemetrySize (hosted {}).dev (par p 0 1) (par p 2 2) ≤ par p 0x10 4) := by
  unfold Claims.accepted; decide +kernel

theorem witness_GraphCommands :
    let g : Graph := { state := .loaded, tasks := [desc 6 0 []] }
    let s := hosted { graphs := [(63, g)] }
    let r : Run := { handle := 63, pkt := none, ring := 0, started := true }
    let s' := hosted { graphs := [(63, { g with state := .running })], runs := [r] }
    let run := packet 0x11 [(0, 1, 63), (8, 8, 4096), (0x10, 4, 288)]
    (∀ p ∈ [run, packet 0x12 [(0, 1, 63)], packet 0x13 [(0, 1, 63)]], ∀ ring ∈ [0, 8], Claims.accepted s ring p ∧ Claims.accepted s' ring p) ∧
    par run 0 1 = 63 ∧ 256 + 32 * g.tasks.length ≤ par run 0x10 4 ∧ resourceGone s.dev g = false ∧ isPaired s.dev = false ∧
    runWaits s.dev 63 = false ∧ (graphAt s'.dev 63).state = .running ∧ runOf s'.dev 63 = some r ∧
    runOver (graphAt s'.dev 63) r = false ∧ runOver (graphAt s'.dev 63) { r with tasks := [(0, { st := .ended })] } = true := by
  unfold Claims.accepted; decide +kernel

theorem witness_AbortsLand : ∀ kind ∈ [1, 3],
    let r := { theRun live with stopAt := some 7 }
    let s := { running (oneTask (desc kind 0 [])) live 7 with dev := { (running (oneTask (desc kind 0 [])) live).dev with runs := [r] } }
    s.dev.runs = [r] ∧ r.started = true ∧ r.stopAt = some 7 ∧ 7 ≤ s.plat.cyc ∧ stopsNext (graphAt s.dev 0) 0 = decide (kind = 1) := by
  decide +kernel

/-- A Still-mode run in progress. -/
def inStill : State :=
  hosted { graphs := [(0, { state := .running, still := true })], runs := [{ handle := 0, pkt := none, ring := 0, started := true }] }

theorem witness_Regions :
    (let p := packet 0x20 [(1, 1, 1), (2, 1, 3), (4, 2, 255), (6, 2, 1023), (8, 8, 0), (0x10, 8, 2097152)]
     Claims.accepted (hosted {}) 8 p ∧ Claims.accepted inStill 8 p ∧ stillRunning inStill.dev = true ∧ par p 1 1 ≤ 1 ∧ par p 4 2 ≤ 255 ∧
       unitInRange (interleaveOf (par p 2 1)) (par p 6 2) = true ∧ stillRunning (hosted {}).dev = false ∧
       nearMapOk (hosted {}).dev (par p 4 2) (interleaveOf (par p 2 1)) (par p 6 2) (par p 8 8) (par p 0x10 8) (par p 0x18 4) = true) ∧
    (∀ stripe ∈ [12, 20],
     let p := packet 0x20 [(0, 1, 1), (2, 1, stripe), (4, 2, 1023), (0x10, 8, 2097152), (0x20, 8, 2 ^ 47)]
     let s := hosted { links := { ports := [(47, { state := .attached })] } }
     Claims.accepted s 8 p ∧ par p 4 2 ≤ 1023 ∧ par p 6 2 = 0 ∧ par p 0x18 4 = 0 ∧
       farMapOk s.dev (par p 4 2) (par p 8 8) (par p 0x10 8) (par p 2 1) (par p 0x20 8) (par p 0x28 8) = true) ∧
    (let s := hosted { near := { regions := [(255, { valid := true })] }, links := { far := [(1023, { valid := true })] } }
     Claims.accepted s 8 (packet 0x21 [(4, 2, 255)]) ∧ Claims.accepted s 8 (packet 0x21 [(0, 1, 1), (4, 2, 1023)]) ∧
       Claims.accepted inStill 8 (packet 0x21 [(4, 2, 255)]) ∧ (regionAt s.dev 255).valid = true ∧ (farAt s.dev 1023).valid = true ∧
       policyNames s.dev false 255 = false ∧ policyNames s.dev true 1023 = false) := by
  unfold Claims.accepted; decide +kernel

theorem witness_Repairs :
    let s := hosted { quads := [(3, { state := .drained })], near := { chans := [(1022, { state := .failed })] } }
    (∀ p ∈ [packet 0x71 [(0, 2, 1023), (3, 1, 15), (4, 2, 4095)], packet 0x71 [(0, 2, 1023), (2, 1, 1), (3, 1, 15), (4, 2, 4095)],
        packet 0x74 [(0, 2, 1023), (4, 2, 575)], packet 0x74 [(0, 2, 1022), (2, 1, 1), (4, 2, 575)]], Claims.accepted s 8 p) ∧
    stillRunning s.dev = false ∧ quadDrained s.dev (quadOfChan 1023) = true ∧ canRemap (chanAt s.dev 1023) 15 4095 = true ∧
    (chanAt s.dev 1023).spares.length < 4 ∧ chanState s.dev 1022 = .failed ∧ regionUses s.dev 1022 = false := by
  unfold Claims.accepted; decide +kernel
/-! ### GRAPH_LOAD -/

/-- A graph image of one BARRIER, all but its CRC. -/
def bareImage : List Byte :=
  natLe 4 0x52475A44 ++ natLe 2 2 ++ [0#8, 0#8] ++ natLe 4 1 ++ natLe 4 0 ++ natLe 8 0xA101000100000001 ++ List.replicate 16 0x32#8 ++
    natLe 2 1 ++ [1#8] ++ List.replicate 21 0#8 ++ natLe 8 256 ++ natLe 8 0 ++ natLe 8 0 ++ natLe 8 0 ++ natLe 8 384 ++ List.replicate 152 0#8 ++
    (desc 6 0 []).flatMap (fun w => natLe 8 w.toNat)

/-- The image with its CRC. -/
def image : List Byte := bareImage.take 0x70 ++ natLe 8 9053544443209289766 ++ bareImage.drop 0x78

/-- The image at near-tier address 0. -/
def imageState : State :=
  let s := withNear (hosted {})
  { s with dev := { s.dev with near := { s.dev.near with mem := ((List.range 384).zip image).filter (fun e => e.2 != 0#8) } } }

theorem image_crc : imgCrc image = imgNum image 0x70 8 := by
  unfold imgCrc crc64; rw [crcFrom_eq_strict]; decide +kernel

theorem witness_GraphLoad :
    Claims.accepted imageState 8 (packet 0x10 []) ∧ covered imageState.dev 0 384 = true ∧ nearBad imageState.dev 0 384 = [] ∧
    nearLe imageState.dev 0x60 8 = 384 ∧ nearBytes imageState.dev 0 384 = image ∧
    imgNum image 0 4 = 0x52475A44 ∧ imgCrc image = imgNum image 0x70 8 ∧ imgNum image 4 2 = 2 ∧
    imgBytes image 0x18 16 = rowBytes imageState.dev.geom ∧ BitVec.ofNat 64 (imgNum image 0x10 8) = imageState.dev.fw.nid ∧
    (let d1 := readEffects imageState.plat 5 0 false 0 384 (takeIt 8 (packet 0x10 []) imageState.dev).2
     ∃ g, graphChecked d1 image false = some g ∧ graphFits imageState.dev g = true) ∧
    covered imageState.dev 2097152 256 = false := by
  refine ⟨?_, by decide +kernel, by decide +kernel, by decide +kernel, by decide +kernel, by decide +kernel, image_crc,
    by decide +kernel, by decide +kernel, by decide +kernel, ⟨graphOfImage image false 0, by decide +kernel, by decide +kernel⟩, by decide +kernel⟩
  unfold Claims.accepted; decide +kernel
/-! ### Long operations, quadrants, links, Oxbow, lock-step, firmware -/

theorem witness_LongOperations :
    (let s := hosted {}
     (∀ p ∈ [packet 0x72 [(127, 1, 0x80)], packet 0xB0 []], Claims.accepted s 8 p) ∧ stillRunning s.dev = false ∧
       (∀ g ∈ namedChans (packet 0x72 [(127, 1, 0x80)]), g = 1023 ∧ chanState s.dev g ≠ .mappedOut) ∧ anyRun s.dev = false ∧
       draining s.dev = false) ∧
    (let s := hosted { quads := [(3, { state := .drained })] }
     let p := packet 0x73 [(127, 1, 0x80)]
     Claims.accepted s 8 p ∧ Claims.accepted s 8 (packet 0xC0 [(0, 1, 8)]) ∧ par p 0x80 1 ≤ 1 ∧ namedChans p = [1023] ∧
       (∀ g ∈ namedChans p, quadDrained s.dev (quadOfChan g) = true ∧ regionUses s.dev g = false) ∧
       ∀ q ∈ bitsOf 4 8, quadDrained s.dev q = true) := by
  unfold Claims.accepted; decide +kernel

theorem witness_LongOperationDone : ∀ w ∈ [true, false], ∀ op ∈ [LongOp.secureErase, .memRetrain [1023], .memBist [1023], .selfTest 15, .fwDone 0 1],
    let s := hosted { host := { longOp := some (0, op), flrWait := w } }
    let t := hosted { host := { longOp := some (0, op) }, near := { chans := [(1023, { retraining := some .command })] } }
    s.plat.serving = true ∧ s.dev.host.flrWait = w ∧ t.dev.host.flrWait = false ∧ s.dev.host.longOp = some (0, op) ∧ (∀ g ∈ [1023], (chanAt s.dev g).retraining = none) ∧
      ∃ g ∈ [1023], (chanAt t.dev g).retraining ≠ none := by decide +kernel

theorem witness_Quadrants :
    let s := hosted { quads := [(1, { state := .draining }), (2, { state := .drained })] }
    (∀ p ∈ [packet 0x80 [(0, 1, 3)], packet 0x80 [(0, 1, 3), (1, 1, 1)], packet 0x80 [(0, 1, 2)], packet 0x81 [(0, 1, 2)]],
      Claims.accepted s 8 p) ∧
    (quadAt s.dev 3).state = .inService ∧ (quadAt s.dev 2).state = .drained ∧ s.plat.alive = true ∧
    (quadAt s.dev 1).state = .draining ∧ drainOver s.dev 1 = true := by
  unfold Claims.accepted; decide +kernel

theorem witness_Links :
    let x : Port := { state := .up, profile := 1, partner := List.replicate 32 7#8 }
    let s := hosted { links := { ports := [(47, x), (46, { x with state := .attached })] } }
    let p := packet 0x31 [(0, 1, 47), (1, 1, 1), (8, 8, 2 ^ 40 - 2 ^ 21), (0x10, 8, 2 ^ 21), (0x20, 32, leNat (List.replicate 32 7#8))]
    Claims.accepted s 8 p ∧ par p 0 1 ≤ 47 ∧ par p 1 1 ≤ 1 ∧ stillRunning s.dev = false ∧ portInRun s.dev 47 = false ∧ portAt s.dev 47 = x ∧
      x.retraining = false ∧ x.attest = none ∧ par p 8 8 % 2 ^ 21 = 0 ∧ par p 0x10 8 % 2 ^ 21 = 0 ∧
      par p 8 8 + par p 0x10 8 ≤ 2 ^ 40 ∧ leNat x.partner = par p 0x20 32 ∧
      Claims.accepted s 8 (packet 0x32 [(0, 1, 46)]) ∧ portInRun s.dev 46 = false ∧ (portAt s.dev 46).state = .attached ∧
      s.dev.oxb.snap = none ∧ (s.dev.links.far.map (·.2)).any (fun r => r.valid && r.ports.toNat.testBit 46) = false ∧
      s.dev.obs.ls.state = .unpaired := by
  unfold Claims.accepted; decide +kernel

/-- A policy of snapshot port 0 and one pair of near regions. -/
def somePolicy : Policy := ⟨1, 1, 10, 0, 3600, 0, 0, 1, 4096, 0, 0xFFFF, [], [(false, 0, 1)]⟩

/-- A machine with that policy and two persistent regions of one size. -/
def withPolicy (q : Option Policy) : Dev :=
  { oxb := { policy := q, vols := [(0, ⟨0, 5, 0, 4096⟩)] },
    near := { regions := [(0, { valid := true, persist := true, size := 2097152 }),
                          (1, { valid := true, persist := true, base := 2097152, size := 2097152 })] } }

/-- The fields of a commit block. -/
def commitHead : List Byte := natLe 4 0x4D435A44 ++ natLe 4 1 ++ natLe 8 1 ++ natLe 8 12479335702591221096

/-- A commit block of STATE 1 and SEQ 1, whose bytes 16 to 23 bring the CRC to 0, and a record that lists one volume. -/
def commitImage : SlotImage :=
  { port := 0, readOk := true, slot := 0,
    commit := commitHead ++ (List.replicate 4064 0#8 ++ natLe 8 0),
    verify := [], record := List.replicate 0x60 0#8 ++ natLe 4 1 ++ List.replicate 0x9C 0#8 ++ natLe 4 0 ++ natLe 4 0 ++ natLe 16 5,
    units := [], table := [] }

theorem witness_OxbowPolicy :
    let p := packet 0x40 [(1, 1, 1), (2, 1, 1), (4, 2, 10), (8, 4, 60), (0x18, 8, 1), (0x20, 8, 4096), (0x30, 2, 0xFFFF), (0x32, 2, 1),
      (0x80, 8, 2 ^ 18)]
    let s := hosted (withPolicy none)
    Claims.accepted s 8 p ∧ policyRangeOk p = true ∧ policyFieldsOk p = true ∧ anyRun s.dev = false ∧ draining s.dev = false ∧ pairsOk s.dev (policyPairs p) = true ∧
      enabledPorts s.dev (par p 1 1) = [0] ∧
      (let v := volPortOf [{ port := 0, link := true, cmdOk := true, nsOk := true, granted := 8, isFmt3 := true, setId := 5, volIndex := 0,
                             slotLbas := 4096, eui := 9 }] 0
       v.link = true ∧ v.cmdOk = true ∧ v.nsOk = true ∧ v.isFmt3 = true) ∧
      Claims.accepted s 8 (packet 0x40 [(1, 1, 16)]) ∧ policyRangeOk (packet 0x40 [(1, 1, 16)]) = false ∧
      Claims.accepted inStill 8 p ∧ anyRun inStill.dev = true ∧ commitImage.readOk = true ∧
      Claims.accepted s 8 (packet 0x40 [(0, 1, 1), (0x14, 4, 3)]) ∧ Claims.accepted s 8 (packet 0x43 [(0, 8, 1)]) := by
  unfold Claims.accepted; decide +kernel

theorem crcFrom_append (c : Nat) (a b : List Byte) : crcFrom c (a ++ b) = crcFrom (crcFrom c a) b := by
  induction a generalizing c with
  | nil => rfl
  | cons x a ih => exact ih _

theorem crcFrom_zeros (n : Nat) : crcFrom 0 (List.replicate n 0#8) = 0 := by
  induction n with
  | zero => rfl
  | succ n ih => rw [List.replicate_succ, crcFrom, (by decide +kernel : crcByte 0 0#8 = 0), ih]

theorem take_two (a b c : List Byte) (n : Nat) (h : n = a.length + b.length) : (a ++ (b ++ c)).take n = a ++ b := by
  rw [h, ← List.append_assoc, ← List.length_append, List.take_left]

theorem commitImage_committed : committedOf commitImage.commit = some (1, 12479335702591221096, 0) := by
  have h : crc64 (commitImage.commit.take 0xFF8) = 0 := by
    rw [commitImage, take_two _ _ _ _ (by rw [List.length_replicate]; decide +kernel), crc64, crcFrom_append,
      (by decide +kernel : crcFrom 0 commitHead = 0), crcFrom_zeros]
  unfold committedOf blockOk; rw [h]; decide +kernel

theorem commitImage_listed :
    listedImage (withPolicy (some somePolicy)) [commitImage] commitImage.record 0 = some commitImage := by
  unfold listedImage; rw [List.find?_cons_of_pos]; decide +kernel

theorem candidate_of_one (d : Dev) (m : SlotImage) (h : committedOf m.commit = some (1, 12479335702591221096, 0)) (n : fieldAt m.record 0x60 4 = 1)
    (l : listedImage d [m] m.record 0 = some m) : candidateBy d false [m] m = some ⟨1, [m]⟩ := by
  unfold candidateBy; simp [h, n, l, List.range_succ]

theorem commitImage_candidate : candidateBy (withPolicy (some somePolicy)) false [commitImage] commitImage = some ⟨1, [commitImage]⟩ :=
  candidate_of_one _ _ commitImage_committed (by decide +kernel) commitImage_listed

theorem witness_OxbowRestore :
    let s := hosted (withPolicy (some somePolicy))
    let t := hosted { withPolicy (some somePolicy) with
      runs := [{ handle := 0, pkt := none, ring := 0, started := true }] }
    let u := hosted { withPolicy (some somePolicy) with oxb := { (withPolicy (some somePolicy)).oxb with snap := some { seq := 1, step := 0, parity := false, policy := somePolicy } } }
    (∀ x ∈ [s, t, u], Claims.accepted x 8 (packet 0x41 [(0, 1, 1)]) ∧ policyOn x.dev.oxb ≠ none) ∧ anyRun s.dev = false ∧
    anyRun t.dev = true ∧ draining u.dev = true ∧
    (let p := packet 0x42 []
     Claims.accepted s 8 p ∧ restoreFieldsOk p = true ∧ draining s.dev = false ∧ restoreParOk s.dev p = true ∧ par p 0 1 = 0 ∧
       par p 8 8 = 0 ∧ (healthyPorts s.dev).contains commitImage.port = true) ∧
    (∀ st ∈ [PortSt.up, .attached],
     let p := packet 0x42 [(0, 1, 1), (1, 1, 47)]
     let v := hosted { withPolicy (some somePolicy) with links := { ports := [(47, { state := st, profile := 1 })] } }
     Claims.accepted v 8 p ∧ restoreFieldsOk p = true ∧ anyRun v.dev = false ∧ draining v.dev = false ∧ restoreParOk v.dev p = true ∧
       par p 0 1 = 1 ∧ (portAt v.dev (par p 1 1)).state = st ∧ (portAt v.dev 47).role = 0 ∧ (portAt v.dev 47).profile = 1) := by
  unfold Claims.accepted; decide +kernel

theorem witness_OxbowCandidates :
    candidatesOf (withPolicy (some somePolicy)) false [commitImage] ≠ [] ∧ candidatesOf (withPolicy (some somePolicy)) false [] = [] := by
  constructor
  · intro h
    have h2 := congrArg List.length h
    rw [candidatesOf, List.length_mergeSort] at h2
    simp [show commitImage.slot = 0 from rfl, commitImage_candidate] at h2
  · simp [candidatesOf]

theorem witness_Lockstep :
    let x : Port := { state := .attached, role := 1, profile := 1 }
    let y : Txn := { ttype := 0x05, attr := 0x10 }
    let s := withNear (hosted { links := { ports := [(47, { x with req := [y] })] } })
    let p := packet 0x50 [(0, 1, 47), (8, 8, 0), (0x10, 8, 4096)]
    Claims.accepted s 8 p ∧ anyRun s.dev = false ∧ par p 0 1 ≤ 47 ∧ s.dev.obs.ls.state ≠ .pairing ∧ lockPort s.dev 47 = true ∧
      s.dev.obs.ls.got = none ∧ areaOk s.dev (par p 8 8) (par p 0x10 8) = true ∧
      Claims.accepted s 8 (packet 0x50 [(0, 1, 0xFF)]) ∧ s.dev.obs.ls.pkt = none ∧
    (let ls : Ls := { state := .pairing, port := 47, pkt := some 0 }
     let t : State := { s with plat := { clk := { root := 66 * oneSecond } }, dev := { s.dev with obs := { ls := ls } } }
     (portAt t.dev 47).req = [y] ∧ t.plat.alive = true ∧ mgmtSub y = 0x10 ∧ lockPort t.dev 47 = true ∧ t.dev.obs.ls.state = .pairing ∧
       t.dev.obs.ls.port = 47 ∧ t.dev.obs.ls.since + oneSecond ≤ t.plat.now) := by
  unfold Claims.accepted; decide +kernel

/-- The header of a component's image of one byte. -/
def fwHeader (c : Nat) : List Byte :=
  natLe 4 0x4D465A44 ++ natLe 2 1 ++ natLe 1 c ++ [1#8] ++ List.replicate 4 0#8 ++ [3#8, 0#8, 0#8, 0xA1#8] ++
    natLe 4 (if c = 2 ∨ c = 3 then 0 else 2) ++ natLe 4 1 ++ List.replicate 1000 0#8

/-- What no proof can see is whether a signature holds; every other condition of a commit is met. -/
theorem witness_Firmware :
    (∀ c ∈ [0, 1, 2, 3, 4],
      let s := hosted { quads := [(3, { state := .drained })], fw := { staged := some (fwHeader c, [0#8]) } }
      let target := if c = 2 then 8 else if c = 3 then 2048 else 0
      let p := packet 0x61 [(4, 4, target)]
      Claims.accepted s 8 p ∧ hdrComponent (fwHeader c) = c ∧ freeSlot s.dev.fw c = some true ∧ targetOk c (par p 4 4) = true ∧
        revokeForbidden s.dev.fw (hdrRevoke (fwHeader c)) = false ∧ (compAt s.dev.fw c).rb ≤ hdrSvn (fwHeader c) ∧
        targetClear s.dev c (par p 4 4) = true ∧ hdrWell (fwHeader c) = true) ∧
    (∀ c ∈ [0, 1, 2, 3, 4, 5],
      let both : FwComp := { slotA := { state := .valid }, slotB := { state := .valid } }
      let s := hosted { quads := [(3, { state := .drained })], fw := { comp := (List.range 6).map (fun c => (c, both)) } }
      let p := packet 0x61 [(0, 1, 1), (1, 1, c), (4, 4, if c = 2 then 8 else if c = 3 then 2048 else 0)]
      Claims.accepted s 8 p ∧ par p 1 1 = c ∧ targetOk c (par p 4 4) = true ∧ otherSlot s.dev.fw c (par p 4 4) = some true ∧
        ((compAt s.dev.fw c).slot true).state = .valid ∧ targetClear s.dev c (par p 4 4) = true ∧ anyRun s.dev = false) ∧
    Claims.accepted (hosted {}) 8 (packet 0x60 [(8, 4, 1025)]) ∧
    (let s := hosted { host := { longOp := some (0, .fwCommit 5 true true) } }
     s.dev.host.longOp = some (0, .fwCommit 5 true true) ∧ s.plat.serving = true ∧ anyRun s.dev = false) := by
  unfold Claims.accepted; decide +kernel
/-! ### Host accesses and resets -/

theorem witness_RegisterWrites :
    (hosted {}).plat.alive = true ∧ (∀ x ∈ [(0x4008, 2), (0x4004, 8), (0xF0100, 1)], accessOk x.1 x.2 = false) ∧
      anyRun inStill.dev = true ∧ anyRun (hosted {}).dev = false := by decide +kernel

/-- A machine whose vector 9 owes a message, its holdoff just over. -/
def owing (x : Vector) : State :=
  let s := hosted {}
  { s with plat := { clk := { root := 66 * 300 } },
           dev := { s.dev with host := { s.dev.host with vec := [(9, x)], rings := (18, { holdoff := 2 }) :: s.dev.host.rings } } }

theorem witness_HostReads :
    (∀ m ∈ [true, false], Claims.ripe (owing { owed := true, mask := m, lastMsg := some 100 }) 9) ∧
    (let s := owing { owed := true, mask := false }
     s.plat.alive = true ∧ (vecAt s.dev 9).owed = true ∧ (vecAt s.dev 9).mask = false ∧ (vecAt s.dev 9).lastMsg = none ∧
       s.dev.host.d3 = false ∧ s.dev.host.funcMask = false) ∧
    (let s := withNear (hosted {})
     s.plat.boot.selfRefresh = false ∧ mapped s.dev (aperAddr s.dev 268435392) 64 = false ∧
       runsOf s.dev (aperAddr s.dev 2097088) 64 = some [⟨2097088, 0, 2097088, 64⟩] ∧ runsOf s.dev (aperAddr s.dev 2097088) 0 = some []) := by
  refine ⟨?_, by decide +kernel, by decide +kernel⟩
  intro m hm
  exact ⟨(by decide +kernel : ∀ m ∈ [true, false], (vecAt (owing { owed := true, mask := m, lastMsg := some 100 }).dev 9).owed = true) m hm,
    (by decide +kernel : ∀ m ∈ [true, false], (owing { owed := true, mask := m, lastMsg := some 100 }).dev.host.d3 = false) m hm,
    fun t h => by
      have e : (vecAt (owing { owed := true, mask := m, lastMsg := some 100 }).dev 9).lastMsg = some 100 := rfl
      rw [e] at h; cases h
      exact (by decide +kernel : ∀ m ∈ [true, false], 100 + (ringAt (owing { owed := true, mask := m, lastMsg := some 100 }).dev
        (vectorRing 9)).holdoff.toNat * 100 ≤ (owing { owed := true, mask := m, lastMsg := some 100 }).plat.now) m hm⟩

theorem witness_DoorbellsAndRings :
    let s := hosted {}
    s.plat.alive = true ∧ (∀ r ∈ [0, 8, 9, 17], (ringAt s.dev r).enable = true ∧ (ringAt s.dev r).size = 64) ∧
      (∀ r ∈ [7, 16, 18], (ringAt s.dev r).enable = false) ∧ bit 1#64 0 = true ∧ bit 0x1000#64 0 = false ∧ s.dev.host.dropped = 0 ∧
      (hosted { host := { dropped := 1 } }).dev.host.dropped ≠ 0 ∧ takeChecks s.dev 0 (packet 0x13 []) = none ∧
      [packet 0x13 []].head? = some (packet 0x13 []) := by decide +kernel

theorem witness_ApertureWrites :
    (let s := withNear (hosted {})
     s.plat.alive = true ∧ s.plat.boot.selfRefresh = false ∧ mapped s.dev (aperAddr s.dev 268435455) 1 = false ∧
       runsOf s.dev (aperAddr s.dev 2095104) 2048 = some [⟨2095104, 0, 2095104, 2048⟩] ∧
       (ringAt s.dev 8).enable = true) ∧
    Claims.runs (running (oneTask (desc 3 0 [0, pack [(2, 60)]])) live) 0 0 (theRun live) (fun w => dKind w == 3 && mvSrcSp w == 2) ∧
    (let s : State := { plat := { boot := { stage := 5#8, perst := false, link := .detect } } }
     s.plat.alive = true ∧ s.plat.boot.link = .detect ∧ linkHeld s.dev = false) := by
  unfold Claims.runs; decide +kernel

theorem witness_Resets :
    (let s : State := { plat := { boot := { stage := 5#8, perst := false } } }
     s.plat.alive = true ∧ s.plat.boot.perst = false ∧ s.plat.boot.stage = 5#8 ∧ s.dev.host.longOp = none ∧ anyRun s.dev = false) ∧
    (let s := hosted { host := { longOp := some (0, .memRetrain [1023]) }, near := { chans := [(1023, { retraining := some .command })] } }
     s.plat.alive = true ∧ s.dev.host.longOp = some (0, .memRetrain [1023]) ∧ ∃ g ∈ [1023], (chanAt s.dev g).retraining ≠ none) ∧
    (let s : State := { plat := { boot := { stage := 4#8, perst := false } } }
     s.plat.boot.perst = false ∧ s.plat.boot.stage ≠ 5#8) ∧
    (∀ p ∈ [({} : Plat), { sup := { state := .powerFailed, vin := 40000#32 } }],
      p.alive = true ∧ p.boot.perst = true ∧ (p.sup.state ≠ .powerFailed ∨ 40000 ≤ p.sup.vin.toNat)) := by decide +kernel

/-- A machine whose DOE mailbox is up. -/
def doeState (n : Spdm) (test : Bool) : State :=
  { plat := { boot := { stage := 5#8, perst := false, link := .trained, testMode := test } }, dev := { spdm := n } }

/-- How long the part's certificate chain is the spec does not say, so no offset within it is shown. -/
theorem witness_Doe : ∀ test ∈ [true, false],
    (∀ n ∈ [({} : Spdm), { version := true }, { version := true, caps := true }, { version := true, caps := true, algs := true }],
      doeUp (doeState n test).plat = true) ∧ (doeState {} test).plat.boot.testMode = test := by decide +kernel
/-! ### Channels and ports -/

/-- A request of 64 bytes at address 0 that arrived in an MCLK cycle. -/
def asking (who : ReqBy) (arrival : Nat) : ChanReq :=
  { who := who, off := 0, addr := 0, choff := 0, len := 64, arrival := arrival, port := 0, run := some 0, seq := 0 }

/-- A request that has arrived, and one that has not. -/
def here : ChanReq := asking (.tile 0 7) 3
def late : ChanReq := asking (.tile 0 8) 9

/-- A channel with a request in one of its classes, the second of the two before it. -/
def queued (cls : Nat) (r : ChanReq) : Chan :=
  if cls = 0 then { urgent := [late, r] } else if cls = 1 then { urgent := [late], lc := [r] }
  else if cls = 2 then { urgent := [late], normal := [r] } else { urgent := [late], bulk := [r] }

/-- A tile with a transfer of a direction, and that channel as channel 0. -/
def asked (dir cls : Nat) (r : ChanReq) (accs : List NearAcc := []) : State :=
  let s := withNear (tileWith { phase := .running, dma := [queuedXfer dir] } 3)
  { s with dev := { s.dev with near := { s.dev.near with chans := [(0, queued cls r)], accs := accs } } }

/-- An access of the host. -/
def hostAcc (k : AccKind) (left : Nat) (bad : List (Nat × Nat × Nat) := []) : NearAcc :=
  { who := .host 5, kind := k, addr := 0, len := 64, data := List.replicate 64 1#8, left := left, bad := bad }

theorem witness_ChannelQueues :
    (∀ cls ∈ [0, 1, 2, 3], ∀ who ∈ [ReqBy.tile 0 7, .tile 0 9, .tile 1 7, .host 5, .task 0 0 false, .partner 0 5],
      Claims.starts (asked 0 cls (asking who 3)) 0 cls (asking who 3) (if cls = 0 then [late] else []) []) ∧
    (∀ dir ∈ [0, 1], let s := asked dir 1 here
      (tileAt s.dev 0).dma.find? (fun x => x.id == 7) = some (queuedXfer dir) ∧ (tileAt s.dev 0).dma.find? (fun x => x.id == 9) = none ∧
        badOf s.dev (here.piece 0) = [] ∧ (tileAt s.dev 0).badWrite 0 64 = false ∧ Claims.writable s 0 here) ∧
    (let r := asking (.task 0 0 false) 3
     let c : Chan := { lc := [r, { r with addr := 64, off := 64, choff := 64 }] }
     waits (modChan 0 (unqueue 1 r) { near := { chans := [(0, c)] } }) r.who = true) ∧
    (∀ left ∈ [1, 2], ∀ k ∈ [AccKind.read, .write], ∀ bad ∈ [[], [(0, 0, 0)]],
      (asked 0 1 (asking (.host 5) 3) [hostAcc k left bad]).dev.near.accs.find? (fun a => a.who == .host 5) = some (hostAcc k left bad)) := by
  refine ⟨?_, ?_, by decide +kernel, by decide +kernel⟩
  · unfold Claims.starts Claims.isNext Claims.mayStart Claims.classes
    refine fun cls hc who hw => ⟨?_, ?_, ?_, ?_, ?_, ?_, ?_, ⟨?_, ?_, ?_⟩, ?_, ?_⟩ <;>
      try (revert cls who; decide +kernel)
    all_goals
      intro j hj
      rw [← List.mem_range] at hj
      revert cls who j
      decide +kernel
  · unfold Claims.writable; decide +kernel

theorem witness_AgePromotion :
    let c : Chan := { lc := [late], normal := [here] }
    let s : State := { plat := { clk := { cycle := 4200#64 } }, dev := { near := { chans := [(0, c)] } } }
    s.plat.alive = true ∧ here ∈ c.lc ++ c.normal ++ c.bulk ∧ here.arrival + s.dev.near.ageLimit.toNat < s.plat.mclk ∧
      ∀ q ∈ c.lc ++ c.normal ++ c.bulk, q ≠ here → here.arrival < q.arrival := by decide +kernel

theorem witness_ChannelEvents :
    (∀ x ∈ [(0#32, 390, 0), (0#32, 390, 524286), (2147483648#32, 195, 524284)],
     let c : Chan := { scrubPos := x.2.2 }
     let s : State := { plat := { clk := { root := 66 * x.2.1, cycle := 9#64 }, therm := { hotDram := x.1 } }, dev := { near := { chans := [(1023, c)] } } }
     s.plat.alive = true ∧ s.plat.boot.selfRefresh = false ∧ c.retraining = none ∧ inRefresh s.plat c = false ∧ stillRun s.dev = none ∧
       c.lastRefresh + (if s.plat.therm.hotDram.toNat.testBit (1023 / 32) then 195 else 390) ≤ s.plat.now ∧ c.ce = [] ∧ c.poison = [] ∧
       s.plat.cyc ≠ 0 ∧ inService s.dev 1023 = true) ∧
    (∀ n ∈ [1023, 1024], let s := { inStill with dev := { inStill.dev with near := { chans := [(1023, { laneErr := [(575, n)] })] } } }
     inService s.dev 1023 = true ∧ (chanAt s.dev 1023).retraining = none ∧ (chanAt s.dev 1023).retrainPend = false ∧
       tget 0 (chanAt s.dev 1023).laneErr 575 = n) ∧
    (let c : Chan := { retraining := some .hard, spares := [0, 1, 2], bankBusy := [(15, 4095, 0)] }
     c.retraining = some .hard ∧ (steered c [3]).length ≤ 4 ∧ 4 < (steered c [3, 4]).length) ∧
    (hosted {}).dev.host.flrWait = false := by decide +kernel

theorem witness_PortTraining :
    (let s : State := { plat := { boot := { engOn := 0x800#12 } } }
     s.plat.alive = true ∧ (portAt s.dev 47).state = .dark ∧ s.plat.boot.engOn.toNat.testBit 11 = true ∧
       s.plat.therm.offOut.toNat.testBit 11 = false) ∧
    (let x : Port := { state := .training }
     let y : Port := { state := .training, helloGot := [1#8, 2#8, 1#8] }
     let z : Port := { state := .up, retraining := true }
     let s : State := { plat := { clk := { root := 66 * 2000000 } }, dev := { links := { ports := [(0, x), (1, y), (2, z)] } } }
     s.plat.alive = true ∧ (portAt s.dev 0).state = .training ∧ x.since + 2000000 ≤ s.plat.now ∧ x.helloGot = [] ∧ y.helloGot ≠ [] ∧
       Claims.hasLink z ∧ z.since + 1000000 ≤ s.plat.now ∧ ¬ Claims.hasLink {}) ∧
    (laneMap [] = some none ∧ laneMap [3] = some (some 3) ∧ laneMap [8] = some none ∧ laneMap [0, 7] = none) ∧
    (let x : Port := { state := .failed }
     let s : State := { plat := { clk := { root := 66 * 10000000 } }, dev := { links := { ports := [(47, x)] } } }
     (portAt s.dev 47).state = .failed ∧ x.since + 10000000 ≤ s.plat.now ∧ s.plat.therm.offOut.toNat.testBit (47 / 4) = false) := by
  unfold Claims.hasLink; decide +kernel

theorem witness_PortRetrain :
    (∀ st ∈ [PortSt.up, .attached, .incompatible], let x : Port := { state := st }
      x.retraining = false ∧ (x.state = .up ∨ x.state = .attached ∨ x.state = .incompatible)) ∧
    (let x : Port := { state := .up, retraining := true, rxSpare := some 1, helloGot := [1#8, 2#8, 1#8] }
     x.helloWait = false ∧ Claims.hasLink x ∧ x.helloGot ≠ [] ∧ x.attachWait = [] ∧ laneInUse x.rxSpare 8 = true ∧
       laneInUse x.rxSpare 1 = false ∧ laneMap [2] = some (some 2) ∧ laneMap [1, 2] = none ∧ laneMap [1] = some (some 1) ∧
       (spareClash x.rxSpare (some 2) || spareClash x.txSpare none) = true ∧
       (spareClash x.rxSpare (some 1) || spareClash x.txSpare (some 8)) = false) ∧
    (negotiate [1#8, 2#8, 1#8]).isSome = true := by
  refine ⟨by decide +kernel, by unfold Claims.hasLink; decide +kernel, ?_⟩
  simp [negotiate, helloProfile]
  split <;> decide

/-- A READ as it stands in a stream. -/
def readTxn : Txn := { ttype := 1, tag := 5, len := 64 }

theorem witness_Flits :
    (let flit := List.replicate 248 0#8 ++ natLe 8 1
     flit.length = 256 ∧ (∃ e ∈ [0, 16], 15 < e) ∧ (∀ e ∈ [0, 15], e ≤ 15) ∧ leNat ((flit.drop 248).take 8) ≠ crc64 (flit.take 248)) ∧
    (parseTxn (txnBytes readTxn) = some (readTxn, []) ∧ (txnBytes readTxn).length ≤ 242 ∧ parseTxn [] = none ∧
      (∀ e ∈ [4095, 0], (e + 4096 - (e + 2048) % 4096) % 4096 ≤ 2048 ∧ 2048 < (e + 4096 - (e + 1) % 4096) % 4096)) ∧
    (let f : TxFlit := ⟨4095, [], 0, true, 0, 0⟩
     let x : Port := { state := .up, replayBuf := [⟨4094, [], 0, false, 0, 0⟩, f], sinceAck := 1 }
     let s : State := { plat := { clk := { root := 66 * 2000 } }, dev := { links := { ports := [(0, x)] } } }
     s.plat.alive = true ∧ linkAlive (portAt s.dev 0) = true ∧ x.replayBuf = [⟨4094, [], 0, false, 0, 0⟩] ++ f :: [] ∧
       (∀ g ∈ [(⟨4094, [], 0, false, 0, 0⟩ : TxFlit)], g.seq ≠ f.seq) ∧ Claims.nothingWaits x ∧ x.lastAck + 100 ≤ s.plat.now ∧ x.sinceAck ≠ 0 ∧
       x.retraining = false ∧ ∃ g ∈ x.replayBuf, g.sent + 2000 ≤ s.plat.now) ∧
    (∀ run ∈ [0, 6, 7], let x : Port := { replaySeq := some 0, replayRun := run }
      (if x.replaySeq = some 0 then x.replayRun + 1 else 1) = run + 1) := by
  refine ⟨⟨by decide +kernel, ?_⟩, by decide +kernel, ?_, by decide +kernel⟩
  · unfold crc64; rw [crcFrom_eq_strict]; decide +kernel
  · unfold Claims.nothingWaits; decide +kernel
/-! ### Transactions -/

/-- A port, at 2 s of ELAPSED, with the events ring, ring 9 and a packet on it; one more port, 1, is attached. -/
def linked (x : Port) (d : Dev := {}) : State :=
  { plat := { clk := { root := 66 * 200000000 } },
    dev := { d with host := { d.host with rings := [(18, { enable := true }), (17, { enable := true })],
                                          taken := [{ id := 0, ring := 8, seq := 0, tag := 0, noint := false }] },
                    links := { d.links with ports := [(0, x), (1, { state := .attached, credits := [9, 9, 9, 9] })] } } }

/-- A partner's port with a near-tier window. -/
def windowed (y : Txn) (credits : Nat) : Port :=
  { state := .attached, profile := 1, wsize := 4096, req := [y], credits := [0, credits, 0, 0] }

/-- A partner's access in hand with one run left. -/
def partnerAcc (k : AccKind) (bad : List (Nat × Nat × Nat)) : NearAcc :=
  { who := .partner 0 5, kind := k, addr := 0, len := 64, data := List.replicate 64 0#8, left := 1, bad := bad, txn := some { ttype := 1 } }

theorem witness_Inbound :
    (∀ credits ∈ [0, 9], ∀ a ∈ [0, 4032, 4096], ∀ ttype ∈ [1, 2, 3, 4], ∀ n ∈ [0, 64], ∀ v ∈ [none, some 0, some 1],
      let y : Txn := { ttype := ttype, rtype := if a = 0 then 7 else 0, len := n, addr := BitVec.ofNat 64 a, payload := List.replicate n 0#8 }
      let s := withNear (linked { windowed y credits with version := v })
      Claims.headReq s 0 y [] ∧ (n = 64 → inbound s.dev 0 a n = decide (a ≠ 4096)) ∧
        runsOf s.dev a n = some (if n = 0 then [] else [⟨a, 0, a, 64⟩]) ∧ (redSize y.rtype = 0 ↔ a = 0) ∧
        (Claims.sendable (portAt s.dev 0) 1 [Claims.answer y 0x11 0 []] ↔ credits = 9) ∧ Claims.nothingWaits (portAt s.dev 0)) ∧
    (inbound (withNear (linked (windowed { ttype := 1 } 9))).dev 0 0 0 = true) ∧
    (∀ k ∈ [AccKind.read, .write, .reduce 0], ∀ bad ∈ [[], [(0, 0, 0)]],
      let r := asking (.partner 0 5) 3
      let s := asked 0 1 r [partnerAcc k bad]
      Claims.starts s 0 1 r [] [] ∧ s.dev.near.accs.find? (fun a => a.who == r.who) = some (partnerAcc k bad) ∧
        badOf s.dev (r.piece 0) = [] ∧ Claims.writable s 0 r) := by
  refine ⟨?_, by decide +kernel, ?_⟩
  · unfold Claims.headReq Claims.sendable Claims.nothingWaits; decide +kernel
  · intro k hk bad hb
    unfold Claims.starts Claims.isNext Claims.mayStart Claims.classes Claims.writable
    refine ⟨⟨?_, ?_, ?_, ?_, ?_, ?_, ?_, ⟨?_, ?_, ?_⟩, ?_, ?_⟩, ?_, ?_, ?_⟩ <;> try (revert k bad; decide +kernel)
    all_goals
      intro j hj
      rw [← List.mem_range] at hj
      revert k bad j
      decide +kernel

/-- A management transaction of a subtype. -/
def mgmt (sub : Nat) (payload : List Byte := []) : Txn := { ttype := 5, attr := sub, payload := payload }

/-- An attestation under way since reset. -/
def attesting (pkt : Option Nat) : Attest :=
  { pkt := pkt, expect := 0, anchor := 1, role := 1, wbase := 0, wsize := 0, nonce := 0, since := 0 }

/-- A MOVE that receives a message on port 0. -/
def receiving : List W64 := desc 3 0 [0, pack [(3, 60)], 0, 0, 64]

/-- Whether the SIGNED holds rests on the opaque certificate check: both outcomes stand in one statement. -/
theorem witness_Partners :
    (∀ e ∈ [(PortSt.up, false, false), (.attached, true, false), (.training, false, false), (.training, false, true)],
      let x : Port := { state := e.1, retraining := e.2.1, helloWait := e.2.2, req := [mgmt 1] }
      Claims.headReq (linked x) 0 (mgmt 1) [] ∧ mgmtSub (mgmt 1) = 1) ∧
    (∀ st ∈ [PortSt.up, .attached], ∀ test ∈ [true, false],
      let x : Port := { state := st, req := [mgmt 2] }
      let s : State := { linked x with plat := { (linked x).plat with boot := { testMode := test } } }
      Claims.headReq s 0 (mgmt 2) [] ∧ mgmtSub (mgmt 2) = 2 ∧ s.plat.boot.testMode = test) ∧
    (∀ sub ∈ [3, 4], ∀ pkt ∈ [none, some 0],
      let x : Port := { state := if pkt.isSome then .up else .attached, req := [mgmt sub], attest := some (attesting pkt) }
      let s := linked x
      Claims.headReq s 0 (mgmt sub) [] ∧ mgmtSub (mgmt sub) = sub ∧ (portAt s.dev 0).attest = some (attesting pkt) ∧ x.attachWait = [] ∧
        (attesting pkt).since + 10000000 ≤ s.plat.now ∧ (s.dev.host.taken.find? (fun u => u.id == 0)).isSome = true ∧
        (ringAt s.dev 17).enable = true) ∧
    (let x : Port := { state := .attached, req := [mgmt 5] }
     let s := linked x { runs := [theRun live], graphs := [(0, oneTask receiving)] }
     Claims.headReq s 0 (mgmt 5) [] ∧ mgmtSub (mgmt 5) = 5 ∧ x.attachWait = [] ∧ Claims.runs s 0 0 (theRun live) (fun _ => true) ∧
       hasTraffic x 0 0 (descOf (graphAt s.dev 0) 0) (taskAt (theRun live) 0).work 0 = true) := by
  unfold Claims.headReq Claims.runs; decide +kernel

/-- A response of a kind, a status and TAG 5. -/
def response (ttype status : Nat) : Txn := { ttype := ttype, status := status, tag := 5, payload := [1#8] }

/-- A COLL of two ranks on port 0. -/
def collOn0 : List W64 := desc 4 0 [0, pack [(8, 56), (1, 48)], 1, 1, 0, 0, 0, 16, 3]

theorem witness_Responses :
    (∀ ttype ∈ [0x10, 0x11], ∀ status ∈ [0, 1, 3], ∀ tag ∈ [5, 6], ∀ who ∈ [Requester.task 0 0, .fetch 1, .peer 1 9],
      let q : Req := ⟨tag, who, 0, 1, 0, 0⟩
      let y := response ttype status
      let x : Port := { state := .attached, rsp := [y], pending := [q] }
      let s := linked x (if who = .task 0 0 then { runs := [theRun live], graphs := [(0, oneTask receiving)] } else {})
      s.plat.alive = true ∧ Claims.headRsp s 0 y [] ∧ reqOf x 5 = (if tag = 5 then some q else none) ∧ eventRoom s.dev = true ∧
        s.dev.host.dropped = 0 ∧ q.since + 5000000 ≤ s.plat.now ∧ (who = .task 0 0 → (runOf s.dev 0).isSome = true) ∧
        (who = .task 0 0 → (runOf s.dev 0).map (fun r => (taskAt r 0).st) = some .running) ∧
        (who ≠ .task 0 0 → s.dev.runs = [] ∧ Claims.oxbowIdle s) ∧
        ∀ e ∈ (dropReq 0 5 (popRsp 0 y s.dev)).links.ports, tag = 5 → ∀ u ∈ e.2.pending, u.who ≠ who) ∧
    (let x : Port := { rsp := [response 0x11 0], pending := [⟨5, .peer 1 9, 0, 1, 0, 0⟩, ⟨6, .peer 1 9, 0, 1, 0, 0⟩] }
     ∃ e ∈ (dropReq 0 5 (popRsp 0 (response 0x11 0) (linked x).dev)).links.ports, ∃ u ∈ e.2.pending, u.who = .peer 1 9) ∧
    (∀ attr ∈ [0, 1], ∀ run ∈ [true, false],
      let y : Txn := { ttype := 6, attr := attr, payload := [1#8] }
      let z : TaskRun := { live with work := { msgLen := 1 - attr } }
      let s := linked { msg := [y] } (if run then { runs := [theRun z], graphs := [(0, oneTask receiving)] } else {})
      (portAt s.dev 0).msg = [y] ∧ receiverOf s.dev 0 (attr.testBit 0) = (if run then some (0, 0) else none) ∧
        (run = true → runOf s.dev 0 = some (theRun z))) ∧
    (∀ run ∈ [true, false], ∀ v ∈ [none, some 1, some 2],
      let y : Txn := { ttype := 7, rtype := if v = none then 1 else 2, addr := BitVec.ofNat 64 (3 * 2 ^ 40) }
      let c := mgmt 6 (natLe 3 3)
      let s := linked { coll := [y], req := [c], version := v } (if run then { runs := [theRun live], graphs := [(0, oneTask collOn0)] } else {})
      (portAt s.dev 0).coll = [y] ∧ collOn s.dev 0 (segId y) = (if run then some (0, 0) else none) ∧
        ((y.rtype < 2 ∨ ∃ u ∈ v, 2 ≤ u) ↔ v ≠ some 1) ∧
        (run = true → runOf s.dev 0 = some (theRun live)) ∧ Claims.headReq s 0 c [] ∧ mgmtSub c = 6 ∧
        (runningColls s.dev).find? (fun e => clId (descOf (graphAt s.dev e.1) e.2) == leNat (c.payload.take 3)) =
          if run then some (0, 0) else none) := by
  refine ⟨?_, by decide +kernel, by decide +kernel, ?_⟩
  · unfold Claims.headRsp
    have h : ∀ s : State, s.dev.host.longOp = none → s.dev.oxb.snap = none → s.dev.oxb.peerQ = [] → Claims.oxbowIdle s := by
      intro s h1 h2 h3
      exact ⟨h2, h3, by simp [h1]⟩
    intro t ht st hs tag hg who hw
    refine ⟨?_, ?_, ?_, ?_, ?_, ?_, ?_, ?_, fun hn => ⟨?_, h _ ?_ ?_ ?_⟩, ?_⟩
    all_goals (revert t st tag who; decide +kernel)
  · unfold Claims.headReq; decide +kernel

/-- The lock-step progress of a run in which nothing has been compared, and of one that is frozen. -/
def lockOf (fz : Bool) : Lock := { started := true, frozen := fz }

/-- A lock-step pairing on port 0 with a run in progress whose only task is in a state, its lock as given. -/
def locked (st : TaskSt) (fz : Bool) (sub : Nat) (b : List Byte) (w : List W64 := receiving) : State :=
  linked { state := .attached, role := 1, profile := 1, req := [mgmt sub b] }
    { runs := [{ theRun { st := st, status := 1, digest := 7 } with lock := some (lockOf fz) }], graphs := [(0, oneTask w)],
      obs := { ls := { state := .paired } } }

/-- A run that has sent LS_START and waits. -/
def starting : Run := { handle := 0, pkt := some 0, ring := 8, lsStart := true }

theorem witness_Lockstep2 :
    (∀ e ∈ [(LsSt.paired, 0, true), (.frozen, 0, true), (.paired, 1, false), (.unpaired, 0, false)], ∀ rs ∈ [[], [starting]],
      ∀ got ∈ [natLe 8 0 ++ natLe 4 0, natLe 8 5 ++ natLe 4 0],
      let y := mgmt 0x11 got
      let s := linked { req := [y] } { runs := rs, obs := { ls := { state := e.1, port := e.2.1 } } }
      s.plat.alive = true ∧ Claims.headReq s 0 y [] ∧ mgmtSub y = 0x11 ∧ (isPaired s.dev && s.dev.obs.ls.port == 0) = e.2.2 ∧
        startingRun s.dev = rs.head? ∧ starting.lsSince + oneSecond ≤ s.plat.now ∧ s.dev.obs.ls.gotStart = none) ∧
    ((leNat ((natLe 8 5 ++ natLe 4 0).take 8), leNat (((natLe 8 5 ++ natLe 4 0).drop 8).take 4)) ≠
      ((graphAt (linked {} {}).dev 0).imageCrc.toNat, (linked {} {}).dev.obs.ls.runSeq.toNat)) ∧
    (∀ x ∈ [(TaskSt.running, 0, 0), (.ended, 1, 7), (.ended, 1, 8), (.ended, 2, 7), (.ended, stDiverge, 7)], ∀ sub ∈ [0x12, 0x13, 0x14, 0x15], ∀ fz ∈ [true, false],
      let b := natLe 4 0 ++ natLe 4 x.2.1 ++ natLe 8 x.2.2
      let s := locked x.1 fz sub b
      let r := (runOf s.dev 0).getD starting
      Claims.headReq s 0 (mgmt sub b) [] ∧ mgmtSub (mgmt sub b) = sub ∧ lockRun s.dev = some r ∧ r.lock = some (lockOf fz) ∧
        s.dev.obs.ls.port = 0 ∧ runOf s.dev r.handle = some r ∧ entriesOf b = [(0, x.2.1, x.2.2)] ∧ (taskAt r 0).st = x.1 ∧
        (taskAt r 0).status = 1 ∧ 1 ≠ stDiverge ∧ 2 ≠ stDiverge ∧ (taskAt r 0).digest.toNat = 7 ∧ dKind (descOf (graphAt s.dev 0) 0) ≠ 1) ∧
    (let s := locked .ended false 0x15 []
     let u : State := { s with dev := { s.dev with obs := { ls := { state := .paired, port := 2 } } } }
     let r := (runOf s.dev 0).getD starting
     runOf s.dev 0 = some r ∧ lockWaits r (graphAt s.dev 0) = true ∧ (lockOf false).heard + oneSecond ≤ s.plat.now ∧
       lockPort u.dev u.dev.obs.ls.port = false) := by
  unfold Claims.headReq; decide +kernel

/-- A policy whose buddy region is far region 0, kept for the partner of 32 sevens. -/
def buddyPolicy : Policy := { somePolicy with buddyFreg := 0, buddyFor := List.replicate 32 7#8 }

/-- A machine with that policy and far region 0, of 2 MB on port 1, and a request of that partner on port 0. -/
def buddied (q : Option Policy) (y : Txn) : State :=
  linked { state := .attached, profile := 1, partner := List.replicate 32 7#8, req := [y] }
    { oxb := { policy := q }, links := { far := [(0, { valid := true, size := 2097152, ports := 2 })] } }

/-- A snapshot at a stage on port 0, with the commands that wait for room. -/
def snapping (stage : Nat) (pkt : Option Nat) (q : List NvmeOut := []) : Snap :=
  { seq := 1, step := 1, parity := false, policy := somePolicy, stage := stage, ports := [0], pkt := pkt, nvmeQ := q }

theorem witness_Buddies :
    (∀ sub ∈ [0x20, 0x21], ∀ a ∈ [2097151, 2097152], ∀ q ∈ [none, some buddyPolicy],
      let y : Txn := { ttype := 5, attr := sub, addr := BitVec.ofNat 64 a, payload := [1#8] }
      let s := buddied q y
      let r := farAt s.dev 0
      Claims.headReq s 0 y [] ∧ mgmtSub y = sub ∧ fetchOf s.dev 0 y = none ∧ buddyRegion s.dev 0 = q.map (fun _ => r) ∧
        decide (y.addr.toNat + y.payload.length ≤ r.size) = decide (a = 2097151) ∧
        s.dev.oxb.peerQ = [] ∧ (∀ n, n ≤ 4096 → Machine.canIssue (portAt s.dev 1) n = true) ∧
        (a = 2097151 → (farWrites r (r.base + y.addr.toNat) y.payload none).map (·.port) = [1])) ∧
    (let y : Txn := { ttype := 5, attr := 0x20, addr := 4096, payload := [1#8] }
     let q : Req := ⟨5, .restore, 4096, 4096, 0, 0⟩
     let s := linked { state := .attached, profile := 1, req := [y], pending := [q] }
     let r : Restore := { par := List.replicate 128 0#8, fetch := some 1, acks := 2 }
     let u : State := { s with dev := { s.dev with host := { s.dev.host with longOp := some (0, .restore r) } } }
     Claims.headReq u 0 y [] ∧ mgmtSub y = 0x20 ∧ fetchOf u.dev 0 y = some (0, r, q) ∧ 1 < r.acks) ∧
    (∀ n ∈ [1, 2], ∀ q ∈ [none, some buddyPolicy],
      let y := mgmt 0x22 (List.replicate 32 7#8 ++ natLe 8 2097151 ++ natLe 8 n)
      let s := buddied q y
      let x := portAt s.dev 0
      let r := farAt s.dev 0
      Claims.headReq s 0 y [] ∧ mgmtSub y = 0x22 ∧ s.dev.oxb.policy = q ∧ x.state = .attached ∧ x.role = 0 ∧ x.profile = 1 ∧
        r.valid = true ∧ y.payload.take 32 = buddyPolicy.buddyFor ∧
        decide (leNat ((y.payload.drop 32).take 8) + leNat ((y.payload.drop 40).take 8) ≤ r.size) = decide (n = 1) ∧
        (n = 1 → (farReads r (r.base + 2097151) 1 2097151).map (·.port) = [1])) ∧
    (∀ stage ∈ [3, 4], ∀ n ∈ [1, 2], ∀ drain ∈ [true, false], ∀ pkt ∈ [none, some 0],
      let m := snapping stage pkt
      let s := linked {} { oxb := { snap := some m, nvme := ⟨0, 0, drain⟩ :: (List.replicate (n - 1) ⟨0, 0, true⟩) } }
      let late : State := { s with plat := { clk := { root := 66 * 800000000 } } }
      s.dev.oxb.snap = some m ∧ nvmeBusy s.dev 0 = true ∧ m.nvmeQ = [] ∧ late.plat.alive = true ∧
        (∃ a ∈ late.dev.oxb.nvme, a.port = 0 ∧ a.since + 800000000 ≤ late.plat.now) ∧ s.dev.oxb.nvme.length + m.ports.length ≤ 255 ∧
        ((m.acks = 0 ∧ ∀ c ∈ s.dev.oxb.nvme.eraseP (fun c => c.port == 0), c.drain = false) ↔ n = 1)) := by
  refine ⟨?_, ?_, ?_, by decide +kernel⟩
  · unfold Claims.headReq
    intro sub hs a ha q hq
    refine ⟨?_, ?_, ?_, ?_, ?_, ?_, ?_, ?_⟩ <;> try (revert sub a q; decide +kernel)
    intro n hn
    simp [buddied, linked, portAt, tget, Machine.canIssue, heldCredits]
    omega
  · unfold Claims.headReq; decide +kernel
  · unfold Claims.headReq; decide +kernel

/-! ### The platform and the test port -/

/-- A machine after so many ELAPSED ticks. -/
def aged (now : Nat) (sup : Sup := {}) (boot : Boot := {}) (d : Dev := {}) : State :=
  { plat := { clk := { root := 66 * now }, sup := sup, boot := boot }, dev := d }

theorem witness_Supply :
    (∀ low ∈ [0, 1], ∀ st ∈ [SupState.normal, .rideThrough],
      let s := aged 4500000 { low := low, state := st }
      Claims.supplied s ∧ s.plat.sup.state ≠ .powerFailed ∧ s.plat.alive = true ∧ s.plat.sup.rideSince + 1000000 ≤ s.plat.now) ∧
    (∀ ph ∈ [SupPhase.starting, .up], let s := aged 4499999 { phase := ph }
      s.plat.sup.phase ≠ .off ∧ tripped s.plat = false ∧ s.plat.mgmt.dumped = false ∧ staggerDone s.plat = false) := by
  unfold Claims.supplied; decide +kernel

theorem witness_PowerUp :
    (∀ fail ∈ [0#8, 3#8], let s := aged 0 { phase := .off, vin := 40000#32, okSamples := 10000 } { fail := fail }
      s.plat.sup.phase = .off ∧ 40000 ≤ s.plat.sup.vin.toNat ∧ tripped s.plat = false ∧ s.plat.mgmt.dumped = false) ∧
    (aged 0 { phase := .starting }).plat.sup.phase = .starting ∧
    (∀ n ∈ [2, 3, 4, 5], let s := aged (stageAt n) {} { stage := BitVec.ofNat 8 (n - 1), rails := 0xFFFF#16 }
      s.plat.alive = true ∧ s.plat.boot.stage.toNat + 1 = n ∧ stageAt n ≤ s.plat.now ∧ s.plat.boot.fail ≠ 1#8 ∧
        diesDone (s.plat, s.dev) = true) ∧
    (∀ die ∈ [0, 15], let s := aged (200000 * die) {} { rails := BitVec.ofNat 16 (2 ^ die - 1) }
      s.plat.alive = true ∧ 200000 * die ≤ s.plat.now ∧ diesBelow s.plat die = true ∧
        (s.plat.boot.rails ||| s.plat.boot.dieFail).getLsbD die = false) ∧
    (∀ e ∈ [0, 11], let s := aged (3400000 + 100000 * e) {} { rails := 0xFFFF#16, engOn := BitVec.ofNat 12 (2 ^ e - 1) }
      s.plat.serving = true ∧ 3400000 + 100000 * e ≤ s.plat.now ∧ s.plat.boot.engOn.getLsbD e = false ∧
        engineReady (s.plat, s.dev) e = true) := by decide +kernel

theorem witness_TestMode :
    (aged 0 { phase := .starting }).plat.sup.phase = .starting ∧ (∃ t, exec .idcode (aged 100000) = .next t ∧ t.plat.sup.phase = .up) :=
  ⟨by decide +kernel, _, rfl, by decide +kernel⟩

theorem witness_ClockDivider :
    let s := aged 1000
    s.plat.alive = true ∧ s.plat.clk.updAt ≠ some s.plat.now ∧ wantGate s.dev = [] ∧ s.plat.therm.sampledAt = 0 ∧
      tripReading { reach := List.replicate 16 1759, dram := List.replicate 32 1599, hub := List.replicate 4 1759, outfall := [] } = false ∧
      tripReading { reach := [], dram := [1600], hub := [], outfall := [] } = true := by decide +kernel

theorem witness_Ports :
    let s := aged 100000
    let u : State := { s with plat := { s.plat with mgmt := { dyn := some 5 } } }
    i3cUp s.plat = true ∧ jtagUp s.plat = true ∧ s.plat.mgmt.dyn = none ∧ i3cUp u.plat = true ∧ u.plat.mgmt.dyn ≠ none ∧
      s.plat.boot.testMode = false := by decide +kernel

theorem witness_TestInstructions : ∀ test ∈ [true, false], ∀ drained ∈ [true, false],
    let s := aged 100000 {} { testMode := test }
      { quads := [(3, { state := if drained then .drained else .inService })],
        near := { chans := [(1023, { state := .failed, spares := [1, 2, 3] })] } }
    jtagUp s.plat = true ∧ s.plat.boot.testMode = test ∧ quadDrained s.dev (quadOfChan 1023) = drained ∧
      quadDrained s.dev (quadOfDie 15) = drained ∧ quadDrained s.dev (fuseQuad (.tile 15 49 101)) = drained ∧
      canRemap (chanAt s.dev 1023) 15 4095 = true ∧ (chanAt s.dev 1023).spares.length < 4 ∧ chanState s.dev 1023 = .failed ∧
      regionUses s.dev 1023 = false ∧ sound s.dev (15, 49, 101) = true := by decide +kernel

/-! ### The whole machine -/

theorem witness_Steps :
    (∃ c cs, ({ pending := [.idcode] } : State).pending = c :: cs) ∧ State.reset.pending = [] ∧
      (State.reset.plat.clk.running = true ∧ State.reset.plat.sup.phase = .up) ∧
      (({ plat := { clk := { running := false } } } : State).plat.clk.running = false) ∧
      ∃ t, Claims.platInv State.reset.plat ∧ step State.reset = .next t := by
  refine ⟨⟨_, _, rfl⟩, rfl, ⟨rfl, rfl⟩, rfl, _, ?_, rfl⟩
  unfold Claims.platInv; decide +kernel

end Sys2Proof.Tests
end

section
/-! Register writes (R7, R235, R356, R381, R422): what a write of each kind leaves, and that it leaves the rest. -/

namespace Sys2Proof.Machine

/-! ### Access rules -/

theorem accessOk_eight {off : Nat} (h : off % 8 = 0) : accessOk off 8 = true := by simp [accessOk, h]

@[simp] theorem mergeWrite_eight (off : Nat) (old data : W64) : mergeWrite off 8 old data = data := rfl

theorem clampLimit_toNat (v : Nat) : (clampLimit v).toNat = max 2000 (min 7500 v) := by
  rw [clampLimit, BitVec.toNat_ofNat]; omega

/-! ### The registers of BAR0 -/

theorem writeReg_unaligned {off size : Nat} (h : accessOk off size = false) (data : W64) (x : Plat × Dev) :
    writeReg off size data x = x := by simp [writeReg, h]

theorem writeReg_pwrLimit (v : W64) (x : Plat × Dev) :
    writeReg 0x4008 8 v x = ({ x.1 with sup := { x.1.sup with pwrLimit := clampLimit (fld v 15 0) } }, x.2) := by
  simp [writeReg, accessOk_eight]

theorem writeReg_traceMask (v : W64) (x : Plat × Dev) :
    writeReg 0xE0200 8 v x = (x.1, { x.2 with obs := { x.2.obs with traceMask := BitVec.ofNat 8 (fld v 7 0) } }) := by
  simp [writeReg, accessOk_eight]

theorem writeReg_ageLimit (v : W64) (x : Plat × Dev) :
    writeReg 0xA2018 8 v x =
      (x.1, { x.2 with near := { x.2.near with ageLimit := BitVec.ofNat 16 (max 256 (fld v 15 0)) } }) := by
  simp [writeReg, accessOk_eight, onNear]

/-! ### The stream table (R235) -/

/-- R235: during a run the write is discarded. -/
theorem writeRng_of_anyRun {d : Dev} (h : anyRun d = true) (off size : Nat) (v : W64) : writeRng off size v d = d := by
  simp [writeRng, h]

theorem writeRng_next {d : Dev} (h : anyRun d = false) (n : Nat) (v : W64) :
    writeRng (0x80000 + 32 * n + 16) 8 v d = { d with rng := tset {} d.rng n { streamAt d n with next := v } } := by
  have hn : (0x80000 + 32 * n + 16 - 0x80000) / 32 = n := by omega
  have hw : (0x80000 + 32 * n + 16 - 0x80000) % 32 / 8 = 2 := by omega
  simp only [writeRng, h, hn, hw, mergeWrite_eight, Bool.false_eq_true, if_false]

theorem streamAt_setRng (d : Dev) (n m : Nat) (x : RngStream) :
    streamAt { d with rng := tset {} d.rng n x } m = if m = n then x else streamAt d m := tget_tset _ _ _ _ _

/-! ### The origins of the streams (R356) -/

theorem originNow_setOrigin (d : Dev) (k n : Nat) : originNow (setOrigin k d) n = originNow d n := rfl

theorem originAt_setOrigin (d : Dev) (k n : Nat) :
    tget 0#64 (setOrigin k d).oxb.origin n = if n = k then originNow d k else tget 0#64 d.oxb.origin n :=
  tget_tset _ _ _ _ _

/-- Recomputing the origins of some streams touches ORIGIN alone. -/
theorem foldl_setOrigin_eq {α : Type} (l : Table α) (d : Dev) :
    l.foldl (fun d e => setOrigin e.1 d) d =
      onOxb (fun o => { o with origin := (l.foldl (fun d e => setOrigin e.1 d) d).oxb.origin }) d := by
  induction l generalizing d with
  | nil => rfl
  | cons e l ih => rw [List.foldl_cons, ih]; rfl

theorem originAt_foldl_setOrigin {α : Type} (l : Table α) (d : Dev) (n : Nat) :
    tget 0#64 (l.foldl (fun d e => setOrigin e.1 d) d).oxb.origin n =
      if n ∈ l.map Prod.fst then originNow d n else tget 0#64 d.oxb.origin n := by
  induction l generalizing d with
  | nil => rfl
  | cons e l ih =>
    rw [List.foldl_cons, ih, originNow_setOrigin, originAt_setOrigin, List.map_cons]
    by_cases hn : n = e.1
    · subst hn; simp
    · rw [if_neg hn]; simp only [List.mem_cons, hn, false_or]

theorem tget_of_notMem {α : Type} (x : α) (t : Table α) {n : Nat} (h : n ∉ t.map Prod.fst) : tget x t n = x := by
  induction t with
  | nil => rfl
  | cons e t ih =>
    rw [List.map_cons, List.mem_cons, not_or] at h
    rw [tget, if_neg (Ne.symm h.1), ih h.2]

theorem setOrigins_eq (d : Dev) : setOrigins d = onOxb (fun o => { o with origin := (setOrigins d).oxb.origin }) d := by
  rw [setOrigins, foldl_setOrigin_eq]; rfl

/-- A stream with ADV = 1 stands in the table, so its origin is recomputed. -/
theorem originAt_setOrigins {d : Dev} {n : Nat} (h : (streamAt d n).adv = true) :
    tget 0#64 (setOrigins d).oxb.origin n = (streamAt d n).step - cursorStep d.oxb := by
  have hmem : n ∈ d.rng.map Prod.fst := Decidable.byContradiction fun hn => by
    rw [streamAt, tget_of_notMem _ _ hn] at h
    cases h
  rw [setOrigins, originAt_foldl_setOrigin, if_pos hmem]
  exact if_pos h

/-! ### The data cursor (R356) -/

/-- R356: during a run the write is discarded. -/
theorem writeCursor_of_anyRun {d : Dev} (h : anyRun d = true) (off size : Nat) (v : W64) : writeCursor off size v d = d := by
  simp [writeCursor, h]

/-- The device with one word of the cursor set. -/
def setCursor (j : Nat) (v : W64) (d : Dev) : Dev := onOxb (fun o => { o with cursor := tset 0#64 o.cursor j v }) d

theorem cursorStep_setCursor_zero (v : W64) (d : Dev) : cursorStep (setCursor 0 v d).oxb = v := tget_tset_same _ _ _ _

theorem writeCursor_eq {d : Dev} (h : anyRun d = false) {j : Nat} (hj : j < 12) (v : W64) :
    writeCursor (0xF0100 + 8 * j) 8 v d = if j = 0 then setOrigins (setCursor j v d) else setCursor j v d := by
  have hw : (0xF0100 + 8 * j - 0xF0100) / 8 = j := by omega
  have hlast : ¬ 11 < j := by omega
  simp only [writeCursor, setCursor, h, hw, hlast, mergeWrite_eight, Bool.false_or, decide_eq_true_eq, if_false]

/-- A write to the cursor touches the cursor and the origins alone. -/
theorem writeCursor_keeps {d : Dev} (h : anyRun d = false) {j : Nat} (hj : j < 12) (v : W64) :
    writeCursor (0xF0100 + 8 * j) 8 v d =
      onOxb (fun o => { o with cursor := tset 0#64 o.cursor j v,
                               origin := (writeCursor (0xF0100 + 8 * j) 8 v d).oxb.origin }) d := by
  rw [writeCursor_eq h hj]
  split
  · rw [setOrigins_eq]; rfl
  · rfl

theorem writeCursor_step_origin {d : Dev} (h : anyRun d = false) (v : W64) {n : Nat} (hadv : (streamAt d n).adv = true) :
    tget 0#64 (writeCursor (0xF0100 + 8 * 0) 8 v d).oxb.origin n = (streamAt d n).step - v := by
  have hadv' : (streamAt (setCursor 0 v d) n).adv = true := hadv
  rw [writeCursor_eq h (by decide), if_pos rfl, originAt_setOrigins hadv', cursorStep_setCursor_zero]
  rfl

theorem writeCursor_other_origin {d : Dev} (h : anyRun d = false) {j : Nat} (hj : j < 12) (h0 : j ≠ 0) (v : W64) :
    (writeCursor (0xF0100 + 8 * j) 8 v d).oxb.origin = d.oxb.origin := by
  rw [writeCursor_eq h hj, if_neg h0]; rfl

/-! ### The four commands on a part that is up -/

theorem exec_registerWrite_def (off size : Nat) (v : W64) (s : State) :
    exec (.registerWrite off size v) s = execRegisterWrite off size v s := rfl

theorem exec_rngTableWrite_def (off size : Nat) (v : W64) (s : State) :
    exec (.rngTableWrite off size v) s = execRngTableWrite off size v s := rfl

theorem exec_oxbCursorWrite_def (off size : Nat) (v : W64) (s : State) :
    exec (.oxbCursorWrite off size v) s = execOxbCursorWrite off size v s := rfl

theorem exec_hostEpochWrite_def (off size : Nat) (v : W64) (s : State) :
    exec (.hostEpochWrite off size v) s = execHostEpochWrite off size v s := rfl

section
variable {s : State} (halive : s.plat.alive = true)
include halive

theorem exec_registerWrite (off size : Nat) (v : W64) :
    exec (.registerWrite off size v) s =
      .next { s with plat := (writeReg off size v (s.plat, s.dev)).1, dev := (writeReg off size v (s.plat, s.dev)).2 } := by
  rw [exec_registerWrite_def, execRegisterWrite, if_pos halive, onBoth_eq]

theorem exec_rngTableWrite {off : Nat} (v : W64) (hal : off % 8 = 0) (hlo : 0x80000 ≤ off) (hhi : off < 0xA0000) :
    exec (.rngTableWrite off 8 v) s = .next { s with dev := writeRng off 8 v s.dev } := by
  simp [exec_rngTableWrite_def, execRngTableWrite, onDev_eq, halive, accessOk_eight hal, hlo, hhi]

theorem exec_oxbCursorWrite {off : Nat} (v : W64) (hal : off % 8 = 0) (hlo : 0xF0100 ≤ off) (hhi : off < 0xF0180) :
    exec (.oxbCursorWrite off 8 v) s = .next { s with dev := writeCursor off 8 v s.dev } := by
  simp [exec_oxbCursorWrite_def, execOxbCursorWrite, onDev_eq, halive, accessOk_eight hal, hlo, hhi]

theorem exec_hostEpochWrite (v : W64) :
    exec (.hostEpochWrite 0x2010 8 v) s = .next { s with plat := writeEpoch 0x2010 8 v s.plat } := by
  simp [exec_hostEpochWrite_def, execHostEpochWrite, onPlat_eq, halive, accessOk_eight]

theorem exec_unalignedWrite {c : Nat → Nat → W64 → Instr}
    (hc : c ∈ [Instr.registerWrite, Instr.rngTableWrite, Instr.oxbCursorWrite, Instr.hostEpochWrite])
    {off size : Nat} (v : W64) (h : accessOk off size = false) : exec (c off size v) s = .next s := by
  simp only [List.mem_cons, List.not_mem_nil, or_false] at hc
  obtain rfl | rfl | rfl | rfl := hc
  · rw [exec_registerWrite halive, writeReg_unaligned h]
  · simp [exec_rngTableWrite_def, execRngTableWrite, onDev_eq, h]
  · simp [exec_oxbCursorWrite_def, execOxbCursorWrite, onDev_eq, h]
  · simp [exec_hostEpochWrite_def, execHostEpochWrite, onPlat_eq, h]

theorem exec_rngTableWrite_duringRun (hrun : anyRun s.dev = true) {n j : Nat} (hn : n < 4096) (hj : j < 4) (v : W64) :
    exec (.rngTableWrite (0x80000 + 32 * n + 8 * j) 8 v) s = .next s := by
  rw [exec_rngTableWrite halive v (by omega) (by omega) (by omega), writeRng_of_anyRun hrun]

theorem exec_rngTableWrite_next (hrun : anyRun s.dev = false) {n : Nat} (hn : n < 4096) (v : W64) :
    exec (.rngTableWrite (0x80000 + 32 * n + 16) 8 v) s =
      .next { s with dev := { s.dev with rng := tset {} s.dev.rng n { streamAt s.dev n with next := v } } } := by
  rw [exec_rngTableWrite halive v (by omega) (by omega) (by omega), writeRng_next hrun]

theorem exec_oxbCursorWrite_word {j : Nat} (hj : j < 12) (v : W64) :
    exec (.oxbCursorWrite (0xF0100 + 8 * j) 8 v) s = .next { s with dev := writeCursor (0xF0100 + 8 * j) 8 v s.dev } :=
  exec_oxbCursorWrite halive v (by omega) (by omega) (by omega)

theorem exec_oxbCursorWrite_duringRun (hrun : anyRun s.dev = true) {j : Nat} (hj : j < 12) (v : W64) :
    exec (.oxbCursorWrite (0xF0100 + 8 * j) 8 v) s = .next s := by
  rw [exec_oxbCursorWrite_word halive hj, writeCursor_of_anyRun hrun]

end

/-- Settles O39: each clause is the equation of its command, where the command writes one record; a cursor write outside runs goes
through the recomputed origins, which touch ORIGIN alone. -/
theorem registerWritesReachOneRegister : Obligations.RegisterWritesReachOneRegister := by
  intro s v halive
  refine ⟨?pwrLimit, ?traceMask, ?ageLimit, ?hostEpoch, fun c off size hc h => exec_unalignedWrite halive hc v h,
    fun n hn => ⟨fun hrun j hj => exec_rngTableWrite_duringRun halive hrun hn hj v, ?streamNext⟩,
    fun j hj => ⟨fun hrun => exec_oxbCursorWrite_duringRun halive hrun hj v, ?cursor⟩⟩
  case pwrLimit =>
    refine ⟨_, exec_registerWrite halive _ _ _, ?_, ?_⟩
    · rw [writeReg_pwrLimit]; exact clampLimit_toNat _
    · rw [writeReg_pwrLimit]
  case traceMask => rw [exec_registerWrite halive, writeReg_traceMask]
  case ageLimit => rw [exec_registerWrite halive, writeReg_ageLimit]
  case hostEpoch => exact exec_hostEpochWrite halive v
  case streamNext =>
    intro hrun
    exact ⟨_, exec_rngTableWrite_next halive hrun hn v, fun m => streamAt_setRng _ _ _ _, rfl⟩
  case cursor =>
    intro hrun
    have hkeeps := writeCursor_keeps hrun hj v
    refine ⟨_, exec_oxbCursorWrite_word halive hj v, fun m => ?_, ?_, fun h0 => writeCursor_other_origin hrun hj h0 v, ?_⟩
    · rw [hkeeps]; exact tget_tset _ _ _ _ _
    · rintro rfl n hadv; exact writeCursor_step_origin hrun v hadv
    · rw [hkeeps]; rfl

end Sys2Proof.Machine
end

section
/-! Quire operations (R184, R38, R69): what writing a slot's field leaves in accumulator memory, what a QOP that issues leaves, and
O8 from both. -/

namespace Sys2Proof.Machine

/-! ### The words of a slot (R95) -/

/-- The widths of Tables 4.2 to 4.4; 0 is FP32 form. -/
theorem pairing_width {n : Ncw} {x : Nat × Nat × Nat} (h : pairing n = some x) :
    x.2.2 = 0 ∨ x.2.2 = 128 ∨ x.2.2 = 256 ∨ x.2.2 = 512 := by
  unfold pairing at h
  simp only at h
  repeat' split at h
  all_goals cases h <;> simp

theorem qwidth_cases (n : Ncw) : n.qwidth = 0 ∨ n.qwidth = 128 ∨ n.qwidth = 256 ∨ n.qwidth = 512 := by
  unfold Ncw.qwidth
  split
  · next h => exact pairing_width h
  · exact .inl rfl

/-- The span of a slot is the number of 128-bit words its field takes in a cell. -/
theorem span_eq (n : Ncw) : n.span = if n.qwidth ≤ 128 then 1 else n.qwidth / 128 := by
  unfold Ncw.span
  rcases qwidth_cases n with h | h | h | h <;> simp [h]

theorem slotBits_eq (n : Ncw) : (if n.qwidth ≤ 128 then 128 else n.qwidth) = 128 * n.span := by
  rw [span_eq]
  rcases qwidth_cases n with h | h | h | h <;> simp [h]

theorem slotKey_inj {arr slot i j c c' : Nat} (hc : c < 64) (hc' : c' < 64) :
    slotKey arr (slot + i) c = slotKey arr (slot + j) c' ↔ i = j ∧ c = c' := by
  unfold slotKey
  omega

section
variable (k : Nat → Nat) (v : Nat → BitVec 128) (m : Table (BitVec 128))

/-- Writing a run of numbers of a table leaves the others. -/
theorem tget_foldl_tset_other (n : Nat) {key : Nat} (hne : ∀ i, i < n → key ≠ k i) :
    tget 0#128 ((List.range n).foldl (fun m i => tset 0#128 m (k i) (v i)) m) key = tget 0#128 m key := by
  induction n with
  | zero => rfl
  | succ n ih =>
    rw [List.range_succ, List.foldl_append, List.foldl_cons, List.foldl_nil, tget_tset_other _ _ (hne n (by omega)),
      ih (fun i hi => hne i (by omega))]

theorem tget_foldl_tset_same (hk : ∀ i j, k i = k j → i = j) {n i : Nat} (hi : i < n) :
    tget 0#128 ((List.range n).foldl (fun m i => tset 0#128 m (k i) (v i)) m) (k i) = v i := by
  induction n with
  | zero => omega
  | succ n ih =>
    rw [List.range_succ, List.foldl_append, List.foldl_cons, List.foldl_nil, tget_tset]
    by_cases h : i = n
    · simp [h]
    · rw [if_neg (fun h' => h (hk _ _ h')), ih (by omega)]

end

/-- The digits of a number to the base 2^128, put together again. -/
theorem foldl_digits (v n : Nat) :
    (List.range n).foldl (fun a i => a + (BitVec.ofNat 128 (v / 2 ^ (128 * i))).toNat * 2 ^ (128 * i)) 0 = v % 2 ^ (128 * n) := by
  induction n with
  | zero => simp [Nat.mod_one]
  | succ n ih =>
    rw [List.range_succ, List.foldl_append, ih, List.foldl_cons, List.foldl_nil, BitVec.toNat_ofNat, Nat.mul_succ, Nat.pow_add,
      Nat.mod_mul, Nat.mul_comm (2 ^ (128 * n))]

/-- A field is read as the sum of the words of its slot, in every form. -/
theorem slotGet_eq (t : Tile) (n : Ncw) (arr slot c : Nat) :
    t.slotGet n.qwidth arr slot c =
      (List.range n.span).foldl (fun a i => a + (tget 0#128 t.acc (slotKey arr (slot + i) c)).toNat * 2 ^ (128 * i)) 0 := by
  unfold Tile.slotGet
  rw [span_eq]
  split
  · simp
  · rfl

/-- Fields are equal where the words of the slot are. -/
theorem slotGet_congr {t u : Tile} (n : Ncw) (arr slot c : Nat)
    (h : ∀ i, i < n.span → tget 0#128 t.acc (slotKey arr (slot + i) c) = tget 0#128 u.acc (slotKey arr (slot + i) c)) :
    t.slotGet n.qwidth arr slot c = u.slotGet n.qwidth arr slot c := by
  rw [slotGet_eq, slotGet_eq]
  exact foldl_congr_mem _ _ _ _ (fun b i hi => by rw [h i (List.mem_range.mp hi)])

theorem slotGet_lt (t : Tile) (n : Ncw) (arr slot c : Nat) : t.slotGet n.qwidth arr slot c < 2 ^ (128 * n.span) := by
  rw [slotGet_eq]
  induction n.span with
  | zero => simp
  | succ k ih =>
    rw [List.range_succ, List.foldl_append, List.foldl_cons, List.foldl_nil, Nat.mul_succ, Nat.pow_add]
    have hword : (tget 0#128 t.acc (slotKey arr (slot + k) c)).toNat + 1 ≤ 2 ^ 128 := BitVec.isLt _
    calc
      _ < 2 ^ (128 * k) + (tget 0#128 t.acc (slotKey arr (slot + k) c)).toNat * 2 ^ (128 * k) := Nat.add_lt_add_right ih _
      _ = ((tget 0#128 t.acc (slotKey arr (slot + k) c)).toNat + 1) * 2 ^ (128 * k) :=
        (Nat.add_comm _ _).trans (Nat.succ_mul _ _).symm
      _ ≤ 2 ^ 128 * 2 ^ (128 * k) := Nat.mul_le_mul_right _ hword
      _ = 2 ^ (128 * k) * 2 ^ 128 := Nat.mul_comm _ _

/-! ### Writing the field of a cell -/

theorem slotSet_acc (t : Tile) (n : Ncw) (arr slot c v : Nat) :
    (t.slotSet n.qwidth arr slot c v).acc = (List.range n.span).foldl (fun m i =>
      tset 0#128 m (slotKey arr (slot + i) c) (BitVec.ofNat 128 (v / 2 ^ (128 * i)))) t.acc := by
  rw [span_eq]
  rfl

theorem slotSet_acc_same (t : Tile) (n : Ncw) {arr slot c i : Nat} (v : Nat) (hc : c < 64) (hi : i < n.span) :
    tget 0#128 (t.slotSet n.qwidth arr slot c v).acc (slotKey arr (slot + i) c) = BitVec.ofNat 128 (v / 2 ^ (128 * i)) := by
  rw [slotSet_acc]
  exact tget_foldl_tset_same _ _ _ (fun i j h => ((slotKey_inj hc hc).mp h).1) hi

theorem slotSet_acc_other (t : Tile) (n : Ncw) {arr slot c key : Nat} (v : Nat)
    (hkey : ∀ i, i < n.span → key ≠ slotKey arr (slot + i) c) :
    tget 0#128 (t.slotSet n.qwidth arr slot c v).acc key = tget 0#128 t.acc key := by
  rw [slotSet_acc]
  exact tget_foldl_tset_other _ _ _ _ hkey

theorem slotGet_slotSet_same (t : Tile) (n : Ncw) {arr slot c : Nat} (v : Nat) (hc : c < 64) :
    (t.slotSet n.qwidth arr slot c v).slotGet n.qwidth arr slot c = v % 2 ^ (128 * n.span) := by
  rw [slotGet_eq, ← foldl_digits]
  exact foldl_congr_mem _ _ _ _ (fun b i hi => by rw [slotSet_acc_same t n v hc (List.mem_range.mp hi)])

theorem slotGet_slotSet_other (t : Tile) (n : Ncw) {arr slot c c' : Nat} (v : Nat) (hc : c < 64) (hc' : c' < 64) (hne : c' ≠ c) :
    (t.slotSet n.qwidth arr slot c v).slotGet n.qwidth arr slot c' = t.slotGet n.qwidth arr slot c' :=
  slotGet_congr n arr slot c' (fun _ _ => slotSet_acc_other t n v (fun _ _ h => hne ((slotKey_inj hc' hc).mp h).2))

/-! ### Changing the fields of some cells -/

theorem mapCells_nil (arr slot : Nat) (f : Nat → Nat → Nat × Flags) (t : Tile) : mapCells [] arr slot f t = t := rfl

/-- The first cell, then the others. -/
theorem mapCells_cons (c : Nat) (cs : List Nat) (arr slot : Nat) (f : Nat → Nat → Nat × Flags) (t : Tile) :
    mapCells (c :: cs) arr slot f t = mapCells cs arr slot f
      (raiseT (f c (t.slotGet t.n.qwidth arr slot c)).2
        (t.slotSet t.n.qwidth arr slot c (f c (t.slotGet t.n.qwidth arr slot c)).1)) := rfl

/-- Changing fields changes accumulator words, their error marks and TFLAGS, and nothing else. -/
theorem mapCells_eq (cells : List Nat) (arr slot : Nat) (f : Nat → Nat → Nat × Flags) (t : Tile) :
    mapCells cells arr slot f t = { t with
      acc := (mapCells cells arr slot f t).acc, acc1 := (mapCells cells arr slot f t).acc1,
      acc2 := (mapCells cells arr slot f t).acc2, tflags := (mapCells cells arr slot f t).tflags } := by
  induction cells generalizing t with
  | nil => rfl
  | cons c cs ih => rw [mapCells_cons, ih]; rfl

theorem mapCells_acc_other (cells : List Nat) (arr slot : Nat) (f : Nat → Nat → Nat × Flags) (t : Tile) {key : Nat}
    (hcells : ∀ c ∈ cells, c < 64) (hkey : ∀ i c, i < t.n.span → c < 64 → key ≠ slotKey arr (slot + i) c) :
    tget 0#128 (mapCells cells arr slot f t).acc key = tget 0#128 t.acc key := by
  induction cells generalizing t with
  | nil => rfl
  | cons c cs ih =>
    have hc := hcells c (by simp)
    rw [mapCells_cons]
    refine (ih (raiseT _ (t.slotSet t.n.qwidth arr slot c _)) (fun x hx => hcells x (by simp [hx])) hkey).trans ?_
    exact slotSet_acc_other t t.n _ (fun i hi => hkey i c hi hc)

/-- Each cell's field becomes what is made of it; the cells not named keep theirs. -/
theorem slotGet_mapCells (cells : List Nat) (arr slot : Nat) (f : Nat → Nat → Nat × Flags) (t : Tile) {c : Nat} (hc : c < 64)
    (hcells : ∀ x ∈ cells, x < 64) (hnodup : cells.Nodup) :
    (mapCells cells arr slot f t).slotGet t.n.qwidth arr slot c =
      if c ∈ cells then (f c (t.slotGet t.n.qwidth arr slot c)).1 % 2 ^ (128 * t.n.span)
      else t.slotGet t.n.qwidth arr slot c := by
  induction cells generalizing t with
  | nil => simp [mapCells_nil]
  | cons x xs ih =>
    obtain ⟨hx, hxs⟩ := List.nodup_cons.mp hnodup
    have hx64 := hcells x (by simp)
    have hrest := ih (raiseT (f x (t.slotGet t.n.qwidth arr slot x)).2
      (t.slotSet t.n.qwidth arr slot x (f x (t.slotGet t.n.qwidth arr slot x)).1)) (fun y hy => hcells y (by simp [hy])) hxs
    rw [mapCells_cons]
    refine hrest.trans ?_
    by_cases h : c = x
    · subst h
      rw [if_neg hx, if_pos (by simp)]
      exact slotGet_slotSet_same t t.n _ hc
    · have hkept : (raiseT (f x (t.slotGet t.n.qwidth arr slot x)).2
          (t.slotSet t.n.qwidth arr slot x (f x (t.slotGet t.n.qwidth arr slot x)).1)).slotGet t.n.qwidth arr slot c =
            t.slotGet t.n.qwidth arr slot c := slotGet_slotSet_other t t.n _ hx64 hc h
      simp only [List.mem_cons, h, false_or]
      exact congrArg (fun y => if c ∈ xs then (f c y).1 % 2 ^ (128 * t.n.span) else y) hkept

theorem mapCells_tflags (cells : List Nat) (arr slot : Nat) (f : Nat → Nat → Nat × Flags) (t : Tile)
    (hf : ∀ c v, (f c v).2 = fNone) : (mapCells cells arr slot f t).tflags = t.tflags := by
  induction cells generalizing t with
  | nil => rfl
  | cons c cs ih =>
    rw [mapCells_cons, ih]
    simp [raiseT, hf, fNone, Tile.slotSet]

/-- What a slot holds is a matter of accumulator memory. -/
theorem slotHolds_of_acc {u x v : Tile} {arr slot : Nat} {g : Nat → Nat} (hacc : x.acc = u.acc)
    (h : Claims.slotHolds u v arr slot g) : Claims.slotHolds x v arr slot g := by
  simpa only [Claims.slotHolds, Tile.slotGet, hacc] using h

/-- What a slot holds after its fields were changed in some cells, of a tile that agrees with v in accumulator memory. -/
theorem slotHolds_mapCells (cells : List Nat) (arr slot : Nat) (f : Nat → Nat → Nat × Flags) (g : Nat → Nat) {t v : Tile}
    (hacc : t.acc = v.acc) (hn : t.n = v.n) (hcells : ∀ x ∈ cells, x < 64) (hnodup : cells.Nodup)
    (hg : ∀ c, c < 64 → g c = if c ∈ cells then (f c (t.slotGet t.n.qwidth arr slot c)).1 else t.slotGet t.n.qwidth arr slot c) :
    Claims.slotHolds (mapCells cells arr slot f t) v arr slot g := by
  unfold Claims.slotHolds
  rw [← hn, ← hacc, slotBits_eq]
  refine ⟨fun c hc => ?_, fun key hkey => mapCells_acc_other cells arr slot f t hcells hkey⟩
  rw [slotGet_mapCells cells arr slot f t hc hcells hnodup, hg c hc]
  split
  · rfl
  · exact (Nat.mod_eq_of_lt (slotGet_lt t t.n arr slot c)).symm

/-! ### A QOP that issues (R184) -/

/-- The cells in which a QOP acts as it issues. -/
def freeCells (left : List Nat) : List Nat := (List.range 64).filter (fun c => !left.contains c)

@[simp] theorem freeCells_nil : freeCells [] = List.range 64 := rfl

theorem mem_freeCells {left : List Nat} {c : Nat} : c ∈ freeCells left ↔ c < 64 ∧ c ∉ left := by simp [freeCells]

theorem freeCells_lt (left : List Nat) : ∀ c ∈ freeCells left, c < 64 := fun _ hc => (mem_freeCells.mp hc).1

theorem freeCells_nodup (left : List Nat) : (freeCells left).Nodup := List.nodup_range.filter _

/-- The cells a QOP cannot act on yet are cells of the array. -/
theorem qopLeft_lt {t : Tile} {w : W64} {c : Nat} (h : c ∈ qopLeft t w) : c < 64 := by
  unfold qopLeft at h
  exact List.mem_range.mp (List.mem_filter.mp h).1

theorem length_freeCells_of_left {t : Tile} {w : W64} (h : qopLeft t w ≠ []) : (freeCells (qopLeft t w)).length ≠ 64 := by
  obtain ⟨c, hc⟩ := List.exists_mem_of_ne_nil _ h
  intro hlen
  have hall := List.length_filter_eq_length_iff.mp (hlen.trans List.length_range.symm) c (List.mem_range.mpr (qopLeft_lt hc))
  simp [hc] at hall

@[simp] theorem slotGet_afterIssue (cyc : Nat) (t : Tile) (w arr slot c : Nat) :
    (afterIssue cyc t).slotGet w arr slot c = t.slotGet w arr slot c := by rw [afterIssue_eq]; rfl

@[simp] theorem qopLeft_afterIssue (cyc : Nat) (t : Tile) (w : W64) : qopLeft (afterIssue cyc t) w = qopLeft t w := by
  rw [afterIssue_eq]; rfl

@[simp] theorem qopBad_afterIssue (cyc : Nat) (t : Tile) (ws : List W64) : qopBad (afterIssue cyc t) ws = qopBad t ws := by
  rw [afterIssue_eq]; rfl

@[simp] theorem anchorOf_afterIssue (cyc : Nat) (t : Tile) (arr slot : Nat) :
    (afterIssue cyc t).anchorOf arr slot = t.anchorOf arr slot := by simp [Tile.anchorOf]

theorem countSlot_eq (w arr slot : Nat) (cells : List Nat) (t : Tile) :
    t.countSlot w arr slot cells = { t with corrected := (t.countSlot w arr slot cells).corrected } := by
  unfold Tile.countSlot
  split <;> rfl

/-- Counting the corrected words of the slots a QOP reads changes the counter alone. -/
theorem qopCount_eq (w : W64) (t : Tile) : qopCount w t = { t with corrected := (qopCount w t).corrected } := by
  have hdst : ∀ u, u = (if qSub w = 2 then t else t.countSlot t.n.qwidth (qArrD w) (qSlotD w) allCells) →
      u = { t with corrected := u.corrected } := by
    rintro _ rfl
    split
    · rfl
    · exact countSlot_eq _ _ _ _ _
  unfold qopCount
  simp only
  generalize hu : (if qSub w = 2 then t else _) = u
  split
  · rw [countSlot_eq, hdst u hu.symm]
  · exact hdst u hu.symm

/-- The tile a QOP acts on: it has issued and its reads are counted. -/
def qopTile (s : State) (k : Nat) : Tile :=
  qopCount (wd (tileAt s.dev k).word 0) (afterIssue s.plat.cyc (tileAt s.dev k))

section
variable (s : State) (k : Nat)

@[simp] theorem qopTile_acc : (qopTile s k).acc = (tileAt s.dev k).acc := by rw [qopTile, qopCount_eq]; exact afterIssue_acc _ _
@[simp] theorem qopTile_n : (qopTile s k).n = (tileAt s.dev k).n := by rw [qopTile, qopCount_eq]; exact afterIssue_n _ _
@[simp] theorem qopTile_sram : (qopTile s k).sram = (tileAt s.dev k).sram := by rw [qopTile, qopCount_eq]; exact afterIssue_sram _ _
@[simp] theorem qopTile_tflags : (qopTile s k).tflags = (tileAt s.dev k).tflags := by
  rw [qopTile, qopCount_eq]; exact afterIssue_tflags _ _
@[simp] theorem qopTile_vflags : (qopTile s k).vflags = (tileAt s.dev k).vflags := by
  rw [qopTile, qopCount_eq]; exact afterIssue_vflags _ _
@[simp] theorem qopTile_held : (qopTile s k).held = (tileAt s.dev k).held := by rw [qopTile, qopCount_eq]; exact afterIssue_held _ _
@[simp] theorem qopTile_anchor : (qopTile s k).anchor = (tileAt s.dev k).anchor := by
  rw [qopTile, qopCount_eq]; exact afterIssue_anchor _ _
@[simp] theorem qopTile_pc : (qopTile s k).pc = (afterIssue s.plat.cyc (tileAt s.dev k)).pc := by rw [qopTile, qopCount_eq]
@[simp] theorem qopTile_slotGet (w arr slot c : Nat) : (qopTile s k).slotGet w arr slot c = (tileAt s.dev k).slotGet w arr slot c := by
  simp [Tile.slotGet]
@[simp] theorem qopTile_badWrite (a n : Nat) : (qopTile s k).badWrite a n = (tileAt s.dev k).badWrite a n := by
  rw [qopTile, qopCount_eq]; exact badWrite_afterIssue _ _ _ _
@[simp] theorem qopTile_rd (a n : Nat) : (qopTile s k).rd a n = (tileAt s.dev k).rd a n := by simp [Tile.rd]
@[simp] theorem qopTile_anchorOf (arr slot : Nat) : (qopTile s k).anchorOf arr slot = (tileAt s.dev k).anchorOf arr slot := by
  simp [Tile.anchorOf]

end

/-- What a QOP that issues leaves held, where its effect on the free cells held none. -/
theorem holdQop_eq (s : State) {t0 u : Tile} (hu : u.held = t0.held) :
    holdQop s.plat.cyc t0.word (qopLeft t0 (wd t0.word 0)) (afterIssue s.plat.cyc t0) u =
      { u with held := Claims.heldAfter s t0 (decide (2 < qSub (wd t0.word 0))) } := by
  unfold holdQop Claims.heldAfter
  by_cases h : qopLeft t0 (wd t0.word 0) = []
  · simp [h, ← hu]
  · by_cases hsub : qSub (wd t0.word 0) ≤ 2
    · simp [h, hu, hsub, decide_eq_false (Nat.not_lt.mpr hsub)]
    · simp [h, hu, hsub, Nat.lt_of_not_le hsub]

/-- The one word of a QOP. -/
theorem qop_word {s : State} {tile k sub : Nat} {clear : Nat → Dev → Tile → List W64 → Bool}
    (h : issuesNow s tile k (isQop sub) clear) :
    wd (tileAt s.dev k).word 0 = wd (tileAt s.dev k).cur 0 ∧ opOf (wd (tileAt s.dev k).cur 0) = 0x40 ∧
      qSub (wd (tileAt s.dev k).word 0) = sub := by
  obtain ⟨-, -, -, h, -⟩ := h
  unfold isQop at h
  simp only [Bool.and_eq_true, beq_iff_eq] at h
  obtain ⟨hop, hsub⟩ := h
  have hw : wd (tileAt s.dev k).word 0 = wd (tileAt s.dev k).cur 0 := wd_word _ 0 (by rw [hop]; decide)
  exact ⟨hw, hop, hw ▸ hsub⟩

/-- A QOP that issues and meets no uncorrectable word acts on the cells in which it waits for nothing, and is held for the others. -/
theorem qopIssue_next {s : State} {tile k sub : Nat} (f : Table Nat → List W64 → List Nat → Tile → Tile)
    (h : issuesNow s tile k (isQop sub) (fun c _ t ws => qopClear c t ws))
    (hbad : qopBad (tileAt s.dev k) (tileAt s.dev k).word = false) (hheld : ∀ regs ws cells t, (f regs ws cells t).held = t.held) :
    ∃ t, qopIssue tile sub f s = .next t ∧ Claims.onlyTile s t k ∧
      tileAt t.dev k =
        { f (tileAt s.dev k).regs (tileAt s.dev k).word (freeCells (qopLeft (tileAt s.dev k) (wd (tileAt s.dev k).word 0)))
            (qopTile s k) with
          held := Claims.heldAfter s (tileAt s.dev k) (decide (2 < sub)) } := by
  obtain ⟨-, -, hsub⟩ := qop_word h
  refine ⟨_, issueTile_eq _ h, ⟨rfl, fun j hj => ?_⟩, ?_⟩
  · rw [tileAt_modTile_other _ hj, tileAt_modTile_other _ hj]
  · rw [tileAt_modTile_same, tileAt_modTile_same, ← hsub]
    simp only [qopBad_afterIssue, hbad, Bool.false_eq_true, if_false, qopLeft_afterIssue, afterIssue_regs]
    exact holdQop_eq s ((hheld _ _ _ _).trans (qopTile_held s k))

/-! ### QADD, QSHR, QLD -/

theorem qopCells_qadd {w : W64} (h : qSub w = 0) (cells : List Nat) (regs : Table Nat) (t : Tile) :
    qopCells cells regs w t = mapCells cells (qArrD w) (qSlotD w) (qaddField w t) t := by simp [qopCells, h]

theorem qopCells_qshr {w : W64} (h : qSub w = 1) (cells : List Nat) (regs : Table Nat) (t : Tile) :
    qopCells cells regs w t = mapCells cells (qArrD w) (qSlotD w) (fun _ => shiftField t.n.qwidth (qAmt w)) t := by
  simp [qopCells, h]

theorem qopCells_qld {w : W64} (h : qSub w = 2) (cells : List Nat) (regs : Table Nat) (t : Tile) :
    qopCells cells regs w t = mapCells cells (qArrD w) (qSlotD w) (fun c _ => qldField regs w t c) t := by simp [qopCells, h]

/-- A QOP on cells changes accumulator words, their error marks and TFLAGS, and nothing else. -/
theorem qopCells_eq (cells : List Nat) (regs : Table Nat) (w : W64) (t : Tile) :
    qopCells cells regs w t = { t with
      acc := (qopCells cells regs w t).acc, acc1 := (qopCells cells regs w t).acc1, acc2 := (qopCells cells regs w t).acc2,
      tflags := (qopCells cells regs w t).tflags } := mapCells_eq _ _ _ _ _

theorem qopCells_held (cells : List Nat) (regs : Table Nat) (w : W64) (t : Tile) : (qopCells cells regs w t).held = t.held := by
  rw [qopCells_eq]

theorem qopCells_sram (cells : List Nat) (regs : Table Nat) (w : W64) (t : Tile) : (qopCells cells regs w t).sram = t.sram := by
  rw [qopCells_eq]

theorem qopCells_anchor (cells : List Nat) (regs : Table Nat) (w : W64) (t : Tile) :
    (qopCells cells regs w t).anchor = t.anchor := by rw [qopCells_eq]

theorem qopCells_pc (cells : List Nat) (regs : Table Nat) (w : W64) (t : Tile) : (qopCells cells regs w t).pc = t.pc := by
  rw [qopCells_eq]

theorem quireDone_qopCells (cells : List Nat) (regs : Table Nat) (w : W64) (s : State) (k : Nat) (held : List HeldQop) :
    Claims.quireDone { qopCells cells regs w (qopTile s k) with held := held } (afterIssue s.plat.cyc (tileAt s.dev k)) held := by
  unfold Claims.quireDone
  rw [qopCells_eq, qopTile, qopCount_eq]

theorem exec_qadd_def (tile : Nat) (s : State) :
    exec (.qadd tile) s = qopIssue tile 0 (fun regs ws cells t => qopCells cells regs (wd ws 0) t) s := rfl

theorem exec_qshr_def (tile : Nat) (s : State) :
    exec (.qshr tile) s = qopIssue tile 1 (fun regs ws cells t => qopCells cells regs (wd ws 0) t) s := rfl

/-- What the free cells hold after QADD, QSHR or QLD, given as a function f of their fields, and the others keep. -/
theorem slotHolds_qopCells (s : State) (k : Nat) {u : Tile} {f : Nat → Nat → Nat × Flags} {g : Nat → Nat} {arr slot : Nat}
    {left : List Nat} (hacc : u.acc = (mapCells (freeCells left) arr slot f (qopTile s k)).acc)
    (hg : ∀ c, g c = if c ∈ left then (tileAt s.dev k).slotGet (tileAt s.dev k).n.qwidth arr slot c
      else (f c ((tileAt s.dev k).slotGet (tileAt s.dev k).n.qwidth arr slot c)).1) :
    Claims.slotHolds u (afterIssue s.plat.cyc (tileAt s.dev k)) arr slot g := by
  refine slotHolds_of_acc hacc
    (slotHolds_mapCells _ _ _ _ _ (by simp) (by simp) (freeCells_lt _) (freeCells_nodup _) (fun c hc => ?_))
  by_cases hleft : c ∈ left <;> simp [hg, mem_freeCells, hleft, hc]

/-- QADD or QSHR acts on its free cells, is held for the others, and does nothing else. -/
theorem qopIssue_qopCells {s : State} {tile k sub : Nat} (hsub : sub ≤ 1)
    (h : issuesNow s tile k (isQop sub) (fun c _ t ws => qopClear c t ws))
    (hbad : qopBad (tileAt s.dev k) (tileAt s.dev k).word = false) :
    ∃ t, qopIssue tile sub (fun regs ws cells t => qopCells cells regs (wd ws 0) t) s = .next t ∧ Claims.onlyTile s t k ∧
      (tileAt t.dev k).acc = (qopCells (freeCells (qopLeft (tileAt s.dev k) (wd (tileAt s.dev k).word 0))) (tileAt s.dev k).regs
        (wd (tileAt s.dev k).word 0) (qopTile s k)).acc ∧
      Claims.quireDone (tileAt t.dev k) (afterIssue s.plat.cyc (tileAt s.dev k)) (Claims.heldAfter s (tileAt s.dev k) false) := by
  obtain ⟨t, hexec, honly, htile⟩ := qopIssue_next (fun regs ws cells t => qopCells cells regs (wd ws 0) t) h hbad
    (fun _ _ _ _ => qopCells_held _ _ _ _)
  rw [decide_eq_false (by omega)] at htile
  exact ⟨t, hexec, honly, by rw [htile], by rw [htile]; exact quireDone_qopCells _ _ _ _ _ _⟩

theorem qaddAndQshrChangeTheSlotCellByCell : Claims.QaddAndQshrChangeTheSlotCellByCell := by
  intro s tile k t0 v ws w q hbad
  refine ⟨fun h => ?qadd, fun h => ?qshr⟩
  case qadd =>
    obtain ⟨-, -, hsub⟩ := qop_word h
    obtain ⟨t, hexec, honly, hacc, hdone⟩ := qopIssue_qopCells (by omega) h hbad
    rw [qopCells_qadd hsub] at hacc
    refine ⟨t, (exec_qadd_def tile s).trans hexec, honly, slotHolds_qopCells s k hacc (fun c => ?_), hdone⟩
    by_cases hleft : c ∈ qopLeft t0 w
    · simp [t0, w, ws, q, hleft]
    · simp [t0, w, ws, q, hleft, qaddField, apply_ite Prod.fst]
  case qshr =>
    obtain ⟨-, -, hsub⟩ := qop_word h
    obtain ⟨t, hexec, honly, hacc, hdone⟩ := qopIssue_qopCells (by omega) h hbad
    rw [qopCells_qshr hsub] at hacc
    exact ⟨t, (exec_qshr_def tile s).trans hexec, honly, slotHolds_qopCells s k hacc (fun c => by rw [qopTile_n]), hdone⟩

/-- QLD of some cells: their fields, the slot's anchor, and its along-output factors dropped. -/
def qldCells (regs : Table Nat) (ws : List W64) (cells : List Nat) (t : Tile) : Tile :=
  let w := wd ws 0
  let key := qArrD w * 16 + qSlotD w
  let t1 := qopCells cells regs w t
  { t1 with anchor := tset 0 t1.anchor key (signed9 (qAmt w)), factA := tdel t1.factA key, factB := tdel t1.factB key }

theorem qldCells_held (regs : Table Nat) (ws : List W64) (cells : List Nat) (t : Tile) : (qldCells regs ws cells t).held = t.held :=
  qopCells_held _ _ _ _

theorem exec_qld_def (tile : Nat) (s : State) : exec (.qld tile) s = qopIssue tile 2 qldCells s := rfl

theorem qldLoadsTheSlotAndItsAnchor : Claims.QldLoadsTheSlotAndItsAnchor := by
  intro s tile k h t0 v w q hbad
  obtain ⟨-, -, hsub⟩ := qop_word h
  obtain ⟨t, hexec, honly, htile⟩ := qopIssue_next qldCells h hbad qldCells_held
  rw [decide_eq_false (by omega)] at htile
  have hmap := qopCells_qld hsub (freeCells (qopLeft t0 w)) t0.regs (qopTile s k)
  have hacc : (tileAt t.dev k).acc = (mapCells (freeCells (qopLeft t0 w)) (qArrD w) (qSlotD w)
      (fun c _ => qldField t0.regs w (qopTile s k) c) (qopTile s k)).acc := by rw [htile, ← hmap]; rfl
  have hanchor : (tileAt t.dev k).anchor = tset 0 t0.anchor (qArrD w * 16 + qSlotD w) (signed9 (qAmt w)) := by
    rw [htile, ← qopTile_anchor s k, ← qopCells_anchor (freeCells (qopLeft t0 w)) t0.regs w (qopTile s k)]; rfl
  refine ⟨t, (exec_qld_def tile s).trans hexec, honly, slotHolds_qopCells s k hacc (fun c => ?field), by rw [htile], ?anchor, ?others,
    ?sram, ?tflags, ?pc⟩
  case field => simp [qldField, q, t0, w]
  case anchor => rw [Tile.anchorOf, hanchor, tget_tset_same]
  case others => exact fun key hkey => by rw [hanchor, tget_tset_other _ _ hkey]
  case sram => rw [htile]; exact (qopCells_sram _ _ _ _).trans (qopTile_sram s k)
  case tflags =>
    have hflags := mapCells_tflags (freeCells (qopLeft t0 w)) (qArrD w) (qSlotD w) (fun c _ => qldField t0.regs w (qopTile s k) c)
      (qopTile s k) (fun _ _ => rfl)
    rw [htile]
    exact ((congrArg Tile.tflags hmap).trans hflags).trans (qopTile_tflags s k)
  case pc => rw [htile]; exact (qopCells_pc _ _ _ _).trans (qopTile_pc s k)

/-! ### QST, QRND -/

/-- What QST and QRND do to the tile once they have read every cell. -/
def storeWhole (write : Table Nat → W64 → Tile → Tile) (regs : Table Nat) (ws : List W64) (cells : List Nat) (t : Tile) : Tile :=
  if cells.length = 64 then write regs (wd ws 0) t else t

/-- QST of the slot as it stands. -/
def qstSlot (regs : Table Nat) (w : W64) (t : Tile) : Tile :=
  qstWrite regs w (fun c => t.slotGet t.n.qwidth (qArrD w) (qSlotD w) c) t

/-- QRND of the slot as it stands. -/
def qrndSlot (regs : Table Nat) (w : W64) (t : Tile) : Tile :=
  qrndWrite regs w (t.anchorOf (qArrD w) (qSlotD w)) (fun c => t.slotGet t.n.qwidth (qArrD w) (qSlotD w) c) t

theorem exec_qst_def (tile : Nat) (s : State) : exec (.qst tile) s = qopIssue tile 3 (storeWhole qstSlot) s := rfl

theorem exec_qrnd_def (tile : Nat) (s : State) : exec (.qrnd tile) s = qopIssue tile 4 (storeWhole qrndSlot) s := rfl

theorem qstWrite_eq (regs : Table Nat) (w : W64) (field : Nat → Nat) (t : Tile) :
    qstWrite regs w field t = t.wr (localAddr regs w (fld w 26 9)) ((List.range 64).flatMap (fun c =>
      natLe (if qBit w then 64 else t.n.qwidth / 8) (if qBit w then widen t.n.qwidth (field c) else field c))) := by
  unfold qstWrite
  by_cases h : qBit w <;> simp [h]

theorem qrndWrite_eq (regs : Table Nat) (w : W64) (anchor : Int) (field : Nat → Nat) (t : Tile) :
    let r := fun c => roundTo (fmtOf (qFmt w)) (qBit w) t.n.opts false (fieldValue t.n.qwidth (field c) anchor)
    qrndWrite regs w anchor field t = raiseT ((List.range 64).foldl (fun x c => x ||| (r c).2) fNone)
      (t.wr (localAddr regs w (fld w 26 9)) ((List.range 64).flatMap (fun c => natLe (fmtBytes (fmtOf (qFmt w))) (r c).1))) := by
  simp only [qrndWrite, List.foldl_map, List.flatMap_map]

theorem storeWhole_held {write : Table Nat → W64 → Tile → Tile} (h : ∀ regs w t, (write regs w t).held = t.held)
    (regs : Table Nat) (ws : List W64) (cells : List Nat) (t : Tile) : (storeWhole write regs ws cells t).held = t.held := by
  unfold storeWhole
  split
  · exact h _ _ _
  · rfl

theorem qstSlot_held (regs : Table Nat) (w : W64) (t : Tile) : (qstSlot regs w t).held = t.held := wr_held _ _ _

theorem qrndSlot_held (regs : Table Nat) (w : W64) (t : Tile) : (qrndSlot regs w t).held = t.held := wr_held _ _ _

section
variable {s : State} {tile k sub : Nat} {write : Table Nat → W64 → Tile → Tile}
  (h : issuesNow s tile k (isQop sub) (fun c _ t ws => qopClear c t ws))
  (hbad : qopBad (tileAt s.dev k) (tileAt s.dev k).word = false) (hheld : ∀ regs w t, (write regs w t).held = t.held)
include h hbad hheld

/-- QST or QRND, where it waits for nothing, stores at once. -/
theorem qopIssue_storeWhole_of_free (hleft : qopLeft (tileAt s.dev k) (wd (tileAt s.dev k).word 0) = []) :
    ∃ t, qopIssue tile sub (storeWhole write) s = .next t ∧ Claims.onlyTile s t k ∧
      tileAt t.dev k = write (tileAt s.dev k).regs (wd (tileAt s.dev k).word 0) (qopTile s k) := by
  obtain ⟨t, hexec, honly, htile⟩ := qopIssue_next (storeWhole write) h hbad (storeWhole_held hheld)
  refine ⟨t, hexec, honly, htile.trans ?_⟩
  have hkept := (hheld (tileAt s.dev k).regs (wd (tileAt s.dev k).word 0) (qopTile s k)).trans (qopTile_held s k)
  simp [storeWhole, Claims.heldAfter, hleft, ← hkept]

/-- QST or QRND, while it waits in some cell, stores nothing and is held. -/
theorem qopIssue_storeWhole_of_left (hsub : 2 < sub) (hleft : qopLeft (tileAt s.dev k) (wd (tileAt s.dev k).word 0) ≠ []) :
    ∃ t, qopIssue tile sub (storeWhole write) s = .next t ∧ Claims.onlyTile s t k ∧
      tileAt t.dev k = { qopTile s k with held := Claims.heldAfter s (tileAt s.dev k) true } := by
  obtain ⟨t, hexec, honly, htile⟩ := qopIssue_next (storeWhole write) h hbad (storeWhole_held hheld)
  rw [decide_eq_true hsub] at htile
  refine ⟨t, hexec, honly, htile.trans ?_⟩
  simp [storeWhole, length_freeCells_of_left hleft]

end

/-- A write that merges into no uncorrectable word stores its bytes and leaves every other byte. -/
theorem storedAt_wr {t : Tile} {a : Nat} {bs : List Byte} (h : t.badWrite a bs.length = false) :
    Claims.storedAt t.sram (t.wr a bs).sram a bs := by
  rw [wr_sram t a bs h]
  refine ⟨fun i hi => ?_, fun b hb => ?_⟩
  · rw [readByte_writeBytes, if_pos (by omega), Nat.add_sub_cancel_left]
  · rw [readByte_writeBytes, if_neg (by omega)]

/-- What an issuing QOP writes meets no uncorrectable word it would only merge into. -/
theorem badWrite_of_qop {s : State} {tile k sub : Nat} {clear : Nat → Dev → Tile → List W64 → Bool}
    (h : issuesNow s tile k (isQop sub) clear) {x : Access}
    (hx : x ∈ accesses (tileAt s.dev k).n (tileAt s.dev k).regs (tileAt s.dev k).cur) (hw : x.wr = true) :
    (tileAt s.dev k).badWrite x.addr x.len = false := by
  obtain ⟨-, hop, -⟩ := qop_word h
  obtain ⟨-, -, -, -, -, -, -, -, hranges⟩ := h
  refine badWrite_of_rangesBad hranges ?_ hw (by rw [hop]; decide)
  rwa [pieces, hop]

/-- A write to SRAM by a QOP changes SRAM, its error marks and the count of corrected errors alone. -/
theorem sramAndFlags_wr (s : State) (k a : Nat) (bs : List Byte) :
    Claims.sramAndFlags ((qopTile s k).wr a bs) (afterIssue s.plat.cyc (tileAt s.dev k)) := by
  unfold Claims.sramAndFlags
  rw [wr_eq, qopTile, qopCount_eq]

theorem sramAndFlags_raiseT {u v : Tile} (f : Flags) (h : Claims.sramAndFlags u v) : Claims.sramAndFlags (raiseT f u) v := by
  unfold Claims.sramAndFlags at h ⊢
  rw [raiseT, h]

section
variable {s : State} {tile k : Nat}

/-- The destination of an issuing QST holds its 64 images. -/
theorem badWrite_of_qst {clear : Nat → Dev → Tile → List W64 → Bool} (h : issuesNow s tile k (isQop 3) clear) (f : Nat → Nat) :
    (qopTile s k).badWrite (localAddr (tileAt s.dev k).regs (wd (tileAt s.dev k).word 0) (fld (wd (tileAt s.dev k).word 0) 26 9))
      ((List.range 64).flatMap (fun c => natLe
        (if qBit (wd (tileAt s.dev k).word 0) then 64 else (tileAt s.dev k).n.qwidth / 8) (f c))).length = false := by
  obtain ⟨hw, hop, hsub⟩ := qop_word h
  rw [hw] at hsub ⊢
  rw [qopTile_badWrite, length_flatMap_natLe, List.length_range, Nat.mul_comm]
  refine badWrite_of_qop h (x := ⟨true, _, _, if qBit (wd (tileAt s.dev k).cur 0) then 64 else (tileAt s.dev k).n.qwidth / 8⟩) ?_ rfl
  simp [accesses, hop, hsub, localAddr]

/-- The destination of an issuing QRND holds its 64 patterns. -/
theorem badWrite_of_qrnd {clear : Nat → Dev → Tile → List W64 → Bool} (h : issuesNow s tile k (isQop 4) clear) (f : Nat → Nat) :
    (qopTile s k).badWrite (localAddr (tileAt s.dev k).regs (wd (tileAt s.dev k).word 0) (fld (wd (tileAt s.dev k).word 0) 26 9))
      ((List.range 64).flatMap (fun c => natLe (fmtBytes (fmtOf (qFmt (wd (tileAt s.dev k).word 0)))) (f c))).length = false := by
  obtain ⟨hw, hop, hsub⟩ := qop_word h
  rw [hw] at hsub ⊢
  rw [qopTile_badWrite, length_flatMap_natLe, List.length_range, Nat.mul_comm]
  refine badWrite_of_qop h (x := ⟨true, _, _, elemBytes (qFmt (wd (tileAt s.dev k).cur 0))⟩) ?_ rfl
  simp [accesses, hop, hsub, elemBytes, localAddr]

end

theorem qstAndQrndStoreEveryCell : Claims.QstAndQrndStoreEveryCell := by
  intro s tile k t0 v w q field hbad
  refine ⟨fun h hleft => ?qst, fun h hleft => ?qrnd, fun e he h hleft => ?held⟩
  case qst =>
    obtain ⟨t, hexec, honly, htile⟩ := qopIssue_storeWhole_of_free h hbad qstSlot_held hleft
    simp only [qstSlot, qstWrite_eq, qopTile_n, qopTile_slotGet] at htile
    refine ⟨t, (exec_qst_def tile s).trans hexec, honly, ?_⟩
    rw [htile]
    refine ⟨?_, (wr_tflags _ _ _).trans (qopTile_tflags s k), (wr_vflags _ _ _).trans (qopTile_vflags s k), sramAndFlags_wr s k _ _⟩
    exact (qopTile_sram s k) ▸ storedAt_wr (badWrite_of_qst h _)
  case qrnd =>
    intro r
    obtain ⟨t, hexec, honly, htile⟩ := qopIssue_storeWhole_of_free h hbad qrndSlot_held hleft
    simp only [qrndSlot, qrndWrite_eq, qopTile_n, qopTile_slotGet, qopTile_anchorOf] at htile
    refine ⟨t, (exec_qrnd_def tile s).trans hexec, honly, ?_⟩
    rw [htile]
    refine ⟨?_, ?_, (wr_vflags _ _ _).trans (qopTile_vflags s k), sramAndFlags_raiseT _ (sramAndFlags_wr s k _ _)⟩
    · exact (qopTile_sram s k) ▸ storedAt_wr (badWrite_of_qrnd h (fun c => (r c).1))
    · simp only [raiseT, wr_tflags, qopTile_tflags]
      rfl
  case held =>
    obtain ⟨t, hexec, honly, htile⟩ : ∃ t, exec (e.1 tile) s = .next t ∧ Claims.onlyTile s t k ∧
        tileAt t.dev k = { qopTile s k with held := Claims.heldAfter s t0 true } := by
      have hcases : e = (Instr.qst, 3) ∨ e = (Instr.qrnd, 4) := by simpa only [List.mem_cons, List.not_mem_nil, or_false] using he
      rcases hcases with rfl | rfl
      · simp only [exec_qst_def]
        exact qopIssue_storeWhole_of_left h hbad qstSlot_held (by decide) hleft
      · simp only [exec_qrnd_def]
        exact qopIssue_storeWhole_of_left h hbad qrndSlot_held (by decide) hleft
    refine ⟨t, hexec, honly, ?_⟩
    rw [htile, qopTile, qopCount_eq]

/-- Settles O8: a QOP that issues changes the fields of its free cells one by one, or stores them all, and is held for the others. -/
theorem quireInstructionsChangeAccumulatorsAndMemory : Obligations.QuireInstructionsChangeAccumulatorsAndMemory :=
  ⟨qaddAndQshrChangeTheSlotCellByCell, qldLoadsTheSlotAndItsAnchor, qstAndQrndStoreEveryCell⟩

end Sys2Proof.Machine
end

section
/-! LUT banks (R79 to R82): the bank a LUT loads, the end of its write, the swap of a lane, and O10 from them. -/

namespace Sys2Proof.Machine

/-! ### The LUT and the passes of an array -/

section
variable (t : Tile) (arr : Nat) (x : Lut) (ps : List Pass)

@[simp] theorem setLut_lut_same : (t.setLut arr x).lut arr = x := by
  unfold Tile.lut Tile.setLut
  split <;> rfl

@[simp] theorem setLut_sram : (t.setLut arr x).sram = t.sram := by
  unfold Tile.setLut
  split <;> rfl

@[simp] theorem setLut_acc : (t.setLut arr x).acc = t.acc := by
  unfold Tile.setLut
  split <;> rfl

@[simp] theorem setPasses_lut (other : Nat) : (t.setPasses arr ps).lut other = t.lut other := by
  unfold Tile.setPasses
  split <;> rfl

@[simp] theorem setPasses_sram : (t.setPasses arr ps).sram = t.sram := by
  unfold Tile.setPasses
  split <;> rfl

@[simp] theorem setPasses_acc : (t.setPasses arr ps).acc = t.acc := by
  unfold Tile.setPasses
  split <;> rfl

@[simp] theorem lut_afterIssue (cyc : Nat) : (afterIssue cyc t).lut arr = t.lut arr := by
  simp [Tile.lut]

end

/-- A tile has two arrays, and setting the LUT of one keeps that of the other. -/
theorem setLut_lut_other (t : Tile) {arr : Nat} (h : arr < 2) (x : Lut) : (t.setLut arr x).lut (1 - arr) = t.lut (1 - arr) := by
  obtain rfl | rfl : arr = 0 ∨ arr = 1 := by omega
  · rfl
  · rfl

/-- The field of a LUT instruction that names its array has one bit. -/
theorem fld_array_lt (w : W64) : fld w 52 52 < 2 := Nat.mod_lt _ (by decide)

theorem onlyTile_modTile (s : State) (k : Nat) (f : Tile → Tile) : Claims.onlyTile s { s with dev := modTile k f s.dev } k :=
  ⟨rfl, fun _ hj => tileAt_modTile_other _ hj f⟩

theorem onlyTile_modTile_modTile (s : State) (k : Nat) (f g : Tile → Tile) :
    Claims.onlyTile s { s with dev := modTile k f (modTile k g s.dev) } k :=
  ⟨rfl, fun _ hj => (tileAt_modTile_other _ hj f).trans (tileAt_modTile_other _ hj g)⟩

/-! ### LUT (R79, R82) -/

/-- The bank a LUT instruction of a tile loads (R78, R79). -/
def lutSource (w : W64) (t : Tile) : LutBank :=
  { bytes := readBytes t.sram (localAddr t.regs w (fld w 46 29)) 128, fmt := fld w 51 48, sign := bit w 47 }

/-- A LUT whose unused bank is loaded from a cycle on: bank 1 where every lane uses bank 0, bank 0 otherwise (R79). -/
def Lut.load (cyc : Nat) (b : LutBank) (x : Lut) : Lut :=
  { x with bank1 := if x.lanes = 0#8 then b else x.bank1, bank0 := if x.lanes = 0#8 then x.bank0 else b,
           st := .loading, since := cyc, target := x.lanes == 0#8 }

/-- What a LUT does to its tile; the error marks of the bank it loads are cleared. -/
def lutEffect (cyc : Nat) (w : W64) (t : Tile) : Tile :=
  { t.setLut (fld w 52 52) ((t.lut (fld w 52 52)).load cyc (lutSource w t)) with
    lut2 := t.lut2.filter (fun y => y / 128 != fld w 52 52 * 2 + (if (t.lut (fld w 52 52)).lanes == 0#8 then 1 else 0)) }

/-- The model sets one of the banks, then the state; `Lut.load` says both at once. -/
theorem load_eq (cyc : Nat) (b : LutBank) (x : Lut) :
    { (if x.lanes == 0#8 then { x with bank1 := b } else { x with bank0 := b }) with
      st := .loading, since := cyc, target := x.lanes == 0#8 } = x.load cyc b := by
  unfold Lut.load
  by_cases h : x.lanes = 0#8
  · simp only [h, beq_self_eq_true, if_true]
  · simp only [h, beq_eq_false_iff_ne.mpr h, Bool.false_eq_true, if_false]

theorem lutEffect_lut_same (cyc : Nat) (w : W64) (t : Tile) :
    (lutEffect cyc w t).lut (fld w 52 52) = (t.lut (fld w 52 52)).load cyc (lutSource w t) := setLut_lut_same _ _ _

theorem lutEffect_lut_other (cyc : Nat) (w : W64) (t : Tile) :
    (lutEffect cyc w t).lut (1 - fld w 52 52) = t.lut (1 - fld w 52 52) := setLut_lut_other _ (fld_array_lt w) _

theorem lutEffect_sram (cyc : Nat) (w : W64) (t : Tile) : (lutEffect cyc w t).sram = t.sram := setLut_sram _ _ _

theorem exec_lut_def (tile : Nat) (s : State) : exec (.lut tile) s = execLut tile s := rfl

/-- R82: the refused LUT ends its tile. -/
theorem exec_lut_of_refused {s : State} {tile k : Nat} (hk : tileOf s.dev.geom tile = some k)
    (href : reloadRefused s.plat s.dev (tileAt s.dev k) = true) :
    exec (.lut tile) s = .next { s with dev := modTile k (Tile.stop .reloadPending s.plat.cyc) s.dev } := by
  simp only [exec_lut_def, execLut, onDev_eq, hk, href, if_true]

/-- R79: the LUT that issues loads its bank. -/
theorem exec_lut_of_issues {s : State} {tile k : Nat}
    (h : issuesNow s tile k (fun ws => opOf (wd ws 0) == 0x80) (fun cyc _ t ws => (t.lut (fld (wd ws 0) 52 52)).settledAt cyc))
    (href : reloadRefused s.plat s.dev (tileAt s.dev k) = false) :
    exec (.lut tile) s = .next { s with
      dev := modTile k (lutEffect s.plat.cyc (wd (tileAt s.dev k).word 0)) (modTile k (afterIssue s.plat.cyc) s.dev) } := by
  simp only [exec_lut_def, execLut, onDev_eq, h.1, href, Bool.false_eq_true, if_false, issueDev_eq _ h, load_eq]
  rfl

theorem lutSource_afterIssue (cyc : Nat) (w : W64) (t : Tile) : lutSource w (afterIssue cyc t) = lutSource w t := by
  simp [lutSource]

/-! ### LUT_WRITE_COMPLETE (R79) -/

theorem exec_lutWriteComplete_def (tile arr : Nat) (s : State) :
    exec (.lutWriteComplete tile arr) s = execLutWriteComplete tile arr s := rfl

theorem exec_lutWriteComplete_of_loading {s : State} {tile k arr : Nat} (hk : tileOf s.dev.geom tile = some k)
    (halive : s.plat.alive = true) (hruns : tileRuns s.dev (tileAt s.dev k) = true)
    (hst : ((tileAt s.dev k).lut arr).st = .loading) (hdue : ((tileAt s.dev k).lut arr).since + 8 ≤ s.plat.cyc) :
    exec (.lutWriteComplete tile arr) s = .next { s with
      dev := modTile k (fun t => t.setLut arr
        { (tileAt s.dev k).lut arr with st := .pending, since := ((tileAt s.dev k).lut arr).since + 9 }) s.dev } := by
  simp only [exec_lutWriteComplete_def, execLutWriteComplete, onDev_eq, hk, halive, hruns, hst, hdue, beq_self_eq_true, decide_true,
    Bool.and_self, if_true]

/-! ### LANE_SWAP (R80) -/

/-- Which bank each lane uses once one lane has turned to a bank. -/
def swapLane (target : Bool) (lane : Nat) (lanes : BitVec 8) : BitVec 8 :=
  if target then lanes ||| BitVec.ofNat 8 (2 ^ lane) else lanes &&& ~~~(BitVec.ofNat 8 (2 ^ lane))

theorem testBit_swapLane (target : Bool) (lane : Nat) (lanes : BitVec 8) {l : Nat} (hl : l < 8) :
    (swapLane target lane lanes).toNat.testBit l = if l = lane then target else lanes.toNat.testBit l := by
  have hmask : (BitVec.ofNat 8 (2 ^ lane)).getLsbD l = decide (l = lane) := by
    rw [BitVec.getLsbD_ofNat, Nat.testBit_two_pow]
    simp [hl, eq_comm]
  simp only [BitVec.testBit_toNat]
  cases target
  · simp only [swapLane, Bool.false_eq_true, if_false, BitVec.getLsbD_and, BitVec.getLsbD_not, hl, hmask]
    by_cases h : l = lane <;> simp [h]
  · simp only [swapLane, if_true, BitVec.getLsbD_or, hmask]
    by_cases h : l = lane <;> simp [h]

/-- Every lane uses the bank loaded last. -/
def Lut.allSwapped (x : Lut) : Bool := x.lanes == (if x.target then 0xFF#8 else 0#8)

/-- A LUT of which one lane has swapped in a cycle: settled from the next cycle on where that was the last (R80). -/
def Lut.swap (cyc lane : Nat) (x : Lut) : Lut :=
  let y := { x with lanes := swapLane x.target lane x.lanes }
  { y with st := if y.allSwapped then .settled else .pending, since := if y.allSwapped then cyc + 1 else x.since }

theorem swap_lanes (cyc lane : Nat) (x : Lut) : (x.swap cyc lane).lanes = swapLane x.target lane x.lanes := rfl

theorem swap_st (cyc lane : Nat) (x : Lut) :
    (x.swap cyc lane).st = if (x.swap cyc lane).lanes = (if x.target then 0xFF#8 else 0#8) then .settled else .pending := by
  simp only [Lut.swap, Lut.allSwapped, beq_iff_eq]

theorem exec_laneSwap_def (tile arr lane : Nat) (s : State) : exec (.laneSwap tile arr lane) s = execLaneSwap tile arr lane s := rfl

/-- R80: a lane swaps in its swap cycle or later; the passes of its array record the table it now reads. -/
theorem exec_laneSwap_of_pending {s : State} {tile k arr lane : Nat} (hk : tileOf s.dev.geom tile = some k)
    (halive : s.plat.alive = true) (hruns : tileRuns s.dev (tileAt s.dev k) = true)
    (hst : ((tileAt s.dev k).lut arr).st = .pending) (hsince : ((tileAt s.dev k).lut arr).since ≤ s.plat.cyc)
    (hlane : ((tileAt s.dev k).lut arr).lanes.toNat.testBit lane ≠ ((tileAt s.dev k).lut arr).target)
    (hdue : swapCycle (tileAt s.dev k).n lane ((tileAt s.dev k).lut arr).since ((tileAt s.dev k).passes arr) ≤ s.plat.cyc) :
    ∃ ps, exec (.laneSwap tile arr lane) s = .next { s with
      dev := modTile k (fun t => (t.setLut arr (((tileAt s.dev k).lut arr).swap s.plat.cyc lane)).setPasses arr ps) s.dev } := by
  simp only [exec_laneSwap_def, execLaneSwap, onDev_eq, hk, halive, hruns, hst, hsince, hdue, bne_iff_ne.mpr hlane,
    beq_self_eq_true, decide_true, Bool.and_self, Bool.not_true, Bool.false_eq_true, if_false]
  exact ⟨_, rfl⟩

/-- With no pass in progress every lane swaps at once (R80). -/
theorem swapCycle_nil (n : Ncw) (lane since : Nat) : swapCycle n lane since [] = since := by simp [swapCycle]

/-- Settles O10: each clause reads its command's equation at the tile. -/
theorem lutLoadsThenPendsThenLanesSwap : Obligations.LutLoadsThenPendsThenLanesSwap := by
  intro s tile k t0
  refine ⟨?load, ?refuse, ?pend, ?swap, ?atOnce⟩
  case load =>
    intro h href w arr b
    refine ⟨_, exec_lut_of_issues h href, onlyTile_modTile_modTile _ _ _ _, ?_⟩
    rw [tileAt_modTile_same, tileAt_modTile_same, lutEffect_lut_same, lutEffect_lut_other, lutEffect_sram, lutSource_afterIssue,
      lut_afterIssue, lut_afterIssue, afterIssue_sram]
    exact ⟨rfl, rfl, rfl⟩
  case refuse =>
    intro hk href
    refine ⟨_, exec_lut_of_refused hk href, onlyTile_modTile _ _ _, ?_⟩
    rw [tileAt_modTile_same]
    exact ⟨rfl, rfl, rfl, rfl⟩
  case pend =>
    intro arr _ hk halive hruns hst hdue
    exact ⟨_, exec_lutWriteComplete_of_loading hk halive hruns hst hdue, onlyTile_modTile _ _ _, tileAt_modTile_same _ _ _⟩
  case swap =>
    intro arr lane harr _ hk halive hruns hst hsince hlane hdue
    obtain ⟨ps, hexec⟩ := exec_laneSwap_of_pending hk halive hruns hst hsince hlane hdue
    refine ⟨_, hexec, onlyTile_modTile _ _ _, ?_⟩
    simp only [tileAt_modTile_same, setPasses_lut, setPasses_sram, setPasses_acc, setLut_lut_same, setLut_lut_other _ harr,
      setLut_sram, setLut_acc]
    exact ⟨fun l hl => testBit_swapLane _ _ _ hl, swap_st _ _ _, rfl, rfl, rfl⟩
  case atOnce =>
    intro arr lane hnil
    rw [hnil, swapCycle_nil]

end Sys2Proof.Machine
end

section
/-! Vector, SFU and RDREG instructions (R163, R172, R185 to R187): an instruction whose effect is on its own tile, what writing its
results leaves, and O7 from both. -/

namespace Sys2Proof.Machine

/-! ### An instruction whose effect is on its own tile -/

section
variable {s : State} {tile k : Nat} {mine : List W64 → Bool} {clear : Nat → Dev → Tile → List W64 → Bool}
  (h : issuesNow s tile k mine clear)
include h

/-- A command that issues such an instruction changes its tile alone, as the sequencer left it; SFU_REV is that of the device. -/
theorem exec_issueOwn {c : Instr} (f : Plat → Nat → List W64 → Tile → Tile)
    (hdef : exec c s = onDev s (issueDev tile mine clear (fun p k ws d => modTile k (f p (sfuRev d) ws) d))) :
    ∃ t, exec c s = .next t ∧ Claims.onlyTile s t k ∧
      tileAt t.dev k = f s.plat (sfuRev s.dev) (tileAt s.dev k).word (afterIssue s.plat.cyc (tileAt s.dev k)) := by
  refine ⟨_, by rw [hdef, onDev_eq, issueDev_eq _ h], onlyTile_modTile_modTile _ _ _ _, ?_⟩
  rw [tileAt_modTile_same, tileAt_modTile_same]
  rfl

/-- What an issuing instruction of one piece an operand writes meets no uncorrectable word it would only merge into (R103). -/
theorem badWrite_of_issues {x : Access} (hdrain : opOf (wd (tileAt s.dev k).cur 0) ≠ 0x30)
    (hrow : opOf (wd (tileAt s.dev k).cur 0) ≠ 0x70)
    (hx : x ∈ accesses (tileAt s.dev k).n (tileAt s.dev k).regs (tileAt s.dev k).cur) (hw : x.wr = true) :
    (tileAt s.dev k).badWrite x.addr x.len = false := by
  obtain ⟨-, -, -, -, -, -, -, -, hranges⟩ := h
  refine badWrite_of_rangesBad hranges ?_ hw hdrain
  simpa only [pieces, bne_iff_ne, ne_eq, hrow, not_false_eq_true, if_true] using hx

end

/-- The same where the effect does not depend on SFU_REV. -/
theorem exec_issueTile {s : State} {tile k : Nat} {mine : List W64 → Bool} {clear : Nat → Tile → List W64 → Bool} {c : Instr}
    {f : Plat → List W64 → Tile → Tile} (h : issuesNow s tile k mine (fun c _ t ws => clear c t ws))
    (hdef : exec c s = issueTile tile mine clear f s) :
    ∃ t, exec c s = .next t ∧ Claims.onlyTile s t k ∧
      tileAt t.dev k = f s.plat (tileAt s.dev k).word (afterIssue s.plat.cyc (tileAt s.dev k)) :=
  exec_issueOwn h (fun p _ ws t => f p ws t) hdef

/-! ### SRAM and flags -/

theorem sramAndFlags_of_wr (t : Tile) (a : Nat) (bs : List Byte) : Claims.sramAndFlags (t.wr a bs) t := by
  unfold Claims.sramAndFlags
  rw [wr_eq]

theorem sramAndFlags_raiseV {u v : Tile} (f : Flags) (dz : Bool) (h : Claims.sramAndFlags u v) :
    Claims.sramAndFlags (raiseV f dz u) v := by
  unfold Claims.sramAndFlags at h ⊢
  rw [raiseV, h]

/-- A write by an issuing instruction that meets no uncorrectable word stores its bytes. -/
theorem storedAt_wr_afterIssue (cyc : Nat) {t : Tile} {a : Nat} {bs : List Byte} (h : t.badWrite a bs.length = false) :
    Claims.storedAt t.sram ((afterIssue cyc t).wr a bs).sram a bs :=
  afterIssue_sram cyc t ▸ storedAt_wr ((badWrite_afterIssue _ _ _ _).trans h)

/-! ### The operands of a vector instruction -/

/-- The elements a vector operation writes: one of a reduction, else LEN. -/
def vCount (ws : List W64) : Nat := if 0x0F ≤ vOp (wd ws 0) ∧ vOp (wd ws 0) ≤ 0x12 then 1 else vLen (wd ws 1)

/-- A vector operation with sources, RDREG and CLRVF apart, writes its elements at DST. -/
theorem dst_mem_vecAccess (r : Table Nat) {ws : List W64} (hsrc : (vecSources (vOp (wd ws 0))).isSome) (hop : vOp (wd ws 0) < 0x20) :
    ⟨true, localAddr r (wd ws 0) (fld (wd ws 0) 39 22), vDest ws * vCount ws, vDest ws⟩ ∈ vecAccess r ws := by
  obtain ⟨x, hx⟩ := Option.isSome_iff_exists.mp hsrc
  have hnotClrvf : vOp (wd ws 0) ≠ 0x21 := by omega
  have hnotRdreg : vOp (wd ws 0) ≠ 0x20 := by omega
  simp only [vecAccess, hx, hnotClrvf, hnotRdreg, if_false]
  refine List.mem_cons.mpr (.inl ?_)
  unfold vDest vCount
  simp only
  by_cases hred : 0x0F ≤ vOp (wd ws 0) ∧ vOp (wd ws 0) ≤ 0x12
  · simp only [hred, and_self, if_true, Nat.mul_one]
  · simp only [hred, if_false, Nat.mul_comm]

/-- RDREG writes the image of its selector at DST. -/
theorem rdreg_mem_vecAccess (r : Table Nat) {ws : List W64} (hop : vOp (wd ws 0) = 0x20) :
    ⟨true, localAddr r (wd ws 0) (fld (wd ws 0) 39 22), rdregBytes (vReg (wd ws 1)), 4⟩ ∈ vecAccess r ws := by
  simp [vecAccess, hop]

/-- The two words of an instruction of two words. -/
theorem wd_word_of_two {t : Tile} (h : opWords (opOf (wd t.cur 0)) = some 2) : wd t.word 0 = wd t.cur 0 ∧ wd t.word 1 = wd t.cur 1 :=
  ⟨wd_word t 0 (by rw [h]; decide), wd_word t 1 (by rw [h]; decide)⟩

/-- The words of a VEC. -/
theorem vec_word {s : State} {tile k op : Nat} {clear : Nat → Dev → Tile → List W64 → Bool}
    (h : issuesNow s tile k (isVec op) clear) :
    opOf (wd (tileAt s.dev k).cur 0) = 0x50 ∧ vOp (wd (tileAt s.dev k).word 0) = op ∧
      wd (tileAt s.dev k).word 0 = wd (tileAt s.dev k).cur 0 ∧ wd (tileAt s.dev k).word 1 = wd (tileAt s.dev k).cur 1 := by
  obtain ⟨-, -, -, h, -⟩ := h
  simp only [isVec, Bool.and_eq_true, beq_iff_eq] at h
  obtain ⟨hcode, hop⟩ := h
  obtain ⟨hw0, hw1⟩ := wd_word_of_two (t := tileAt s.dev k) (by rw [hcode]; rfl)
  exact ⟨hcode, hw0 ▸ hop, hw0, hw1⟩

/-- What an issuing VEC writes meets no uncorrectable word it would only merge into. -/
theorem badWrite_of_vec {s : State} {tile k op : Nat} {clear : Nat → Dev → Tile → List W64 → Bool}
    (h : issuesNow s tile k (isVec op) clear) {x : Access} (hx : x ∈ vecAccess (tileAt s.dev k).regs (tileAt s.dev k).word)
    (hw : x.wr = true) : (tileAt s.dev k).badWrite x.addr x.len = false := by
  obtain ⟨hcode, -, hw0, hw1⟩ := vec_word h
  refine badWrite_of_issues h (by rw [hcode]; decide) (by rw [hcode]; decide) ?_ hw
  have hwords : vecAccess (tileAt s.dev k).regs (tileAt s.dev k).word = vecAccess (tileAt s.dev k).regs (tileAt s.dev k).cur := by
    simp only [vecAccess, hw0, hw1]
  simpa only [accesses, hcode, ← hwords] using hx

@[simp] theorem vOperands_afterIssue (cyc : Nat) (t : Tile) (ws : List W64) : vOperands (afterIssue cyc t) ws = vOperands t ws := by
  simp [vOperands, vSource]

/-! ### Results of the vector unit (R172, R185, R186) -/

/-- What an issuing VEC leaves of its tile once it has written as many results as its operation gives. -/
theorem vWrite_of_issues {s : State} {tile k op : Nat} {clear : Nat → Dev → Tile → List W64 → Bool}
    (h : issuesNow s tile k (isVec op) clear) (hsrc : (vecSources op).isSome) (hop : op < 0x20) {rs : List VRes}
    (hlen : rs.length = vCount (tileAt s.dev k).word) :
    let t0 := tileAt s.dev k
    let ws := t0.word
    let u := vWrite ws (vDest ws) rs (afterIssue s.plat.cyc t0)
    Claims.storedAt t0.sram u.sram (localAddr t0.regs (wd ws 0) (fld (wd ws 0) 39 22)) (rs.flatMap (fun r => natLe (vDest ws) r.bits)) ∧
      u.vflags = t0.vflags ||| vflagsOf (Claims.allFlags rs) (rs.any (·.dz)) ∧
      u.tflags = t0.tflags ||| Claims.allFlags rs ||| flagIf (rs.any (·.dz)) fOverflow ∧
      Claims.sramAndFlags u (afterIssue s.plat.cyc t0) := by
  intro t0 ws u
  obtain ⟨-, hvop, -⟩ := vec_word h
  have hbad : t0.badWrite (localAddr t0.regs (wd ws 0) (fld (wd ws 0) 39 22))
      (rs.flatMap (fun r => natLe (vDest ws) r.bits)).length = false := by
    rw [length_flatMap_natLe, hlen]
    exact badWrite_of_vec h (dst_mem_vecAccess _ (by rwa [hvop]) (by rwa [hvop])) rfl
  have hu : u = raiseV (Claims.allFlags rs) (rs.any (·.dz)) ((afterIssue s.plat.cyc t0).wr
      (localAddr t0.regs (wd ws 0) (fld (wd ws 0) 39 22)) (rs.flatMap (fun r => natLe (vDest ws) r.bits))) := by
    rw [← afterIssue_regs s.plat.cyc t0]
    rfl
  rw [hu]
  refine ⟨storedAt_wr_afterIssue _ hbad, ?_, ?_, sramAndFlags_raiseV _ _ (sramAndFlags_of_wr _ _ _)⟩ <;> simp [raiseV]

/-- The effect of an elementwise command is that of its element operation. -/
theorem exec_vecElementwise_def {e : (Nat → Instr) × Nat × (VArgs → List Nat → VRes)} (he : e ∈ Claims.vecElementwise) (tile : Nat)
    (s : State) : exec (e.1 tile) s = vecEach tile e.2.1 e.2.2 s := by
  revert e
  simp only [Claims.vecElementwise, List.forall_mem_cons, List.not_mem_nil, false_imp_iff, implies_true, and_true]
  and_intros <;> rfl

theorem exec_vecReductions_def {e : (Nat → Instr) × Nat × (VArgs → List Nat → VRes)} (he : e ∈ Claims.vecReductions) (tile : Nat)
    (s : State) : exec (e.1 tile) s = vecReduce tile e.2.1 e.2.2 s := by
  revert e
  simp only [Claims.vecReductions, List.forall_mem_cons, List.not_mem_nil, false_imp_iff, implies_true, and_true]
  and_intros <;> rfl

theorem vecElementwise_op : ∀ e ∈ Claims.vecElementwise,
    (vecSources e.2.1).isSome ∧ e.2.1 < 0x20 ∧ ¬ (0x0F ≤ e.2.1 ∧ e.2.1 ≤ 0x12) := by decide

theorem vecReductions_op : ∀ e ∈ Claims.vecReductions,
    (vecSources e.2.1).isSome ∧ e.2.1 < 0x20 ∧ 0x0F ≤ e.2.1 ∧ e.2.1 ≤ 0x12 := by decide

theorem vecElementwiseWritesItsResults : Claims.VecElementwiseWritesItsResults := by
  intro e he s tile k h t0 ws rs
  obtain ⟨hsrc, hlt, hmany⟩ := vecElementwise_op e he
  obtain ⟨-, hvop, -⟩ := vec_word h
  obtain ⟨t, hexec, honly, htile⟩ := exec_issueTile h (exec_vecElementwise_def he tile s)
  refine ⟨t, hexec, honly, ?_⟩
  rw [htile, vOperands_afterIssue]
  exact vWrite_of_issues h hsrc hlt (by simp [vCount, hvop, hmany])

theorem allFlags_singleton (r : VRes) : Claims.allFlags [r] = r.flags := by simp [Claims.allFlags, fNone]

/-! ### FILL (Table 8.8) -/

theorem allFlags_replicate (n b : Nat) : Claims.allFlags (List.replicate n ⟨b, fNone, false⟩) = fNone := by
  induction n with
  | zero => rfl
  | succ n ih =>
    simp only [List.replicate_succ, Claims.allFlags, List.foldl_cons, BitVec.or_self]
    exact ih

/-- FILL never divides. -/
theorem any_dz_replicate (n b : Nat) : (List.replicate n (⟨b, fNone, false⟩ : VRes)).any (·.dz) = false := by simp

/-- The source of FILL is the element its first operand names. -/
theorem vOperands_fill {t : Tile} {ws : List W64} (h : vOp (wd ws 0) = 0x18) :
    ((vOperands t ws).getD 0 []).getD 0 0 =
      t.rd (localAddr t.regs (wd ws 0) (fld (wd ws 0) 21 4)) (elemBytes (vFmt (wd ws 0))) := by
  simp [vOperands, h, vOperands.vSources3, vecSources, vSource]

theorem vDest_fill {ws : List W64} (h : vOp (wd ws 0) = 0x18) : vDest ws = elemBytes (vFmt (wd ws 0)) := by simp [vDest, h]

/-- What FILL does to its tile. -/
def fillTile (ws : List W64) (t : Tile) : Tile :=
  vWrite ws (vDest ws) (List.replicate (vLen (wd ws 1)) ⟨((vOperands t ws).getD 0 []).getD 0 0, fNone, false⟩) t

theorem exec_vecFill_def (tile : Nat) (s : State) :
    exec (.vecFill tile) s = issueTile tile (isVec 0x18) noWait (fun _ => fillTile) s := by
  have hmap : ∀ (ws : List W64) (r : VRes), (List.range (vLen (wd ws 1))).map (fun _ => r) = List.replicate (vLen (wd ws 1)) r := by
    intro ws r
    rw [List.map_const', List.length_range]
  unfold fillTile
  simp only [← hmap]
  rfl

theorem vecReductionsAndFillWriteTheirResults : Claims.VecReductionsAndFillWriteTheirResults := by
  refine ⟨fun e he s tile k h => ?reduction, fun s tile k h => ?fill⟩
  case reduction =>
    intro t0 ws r
    obtain ⟨hsrc, hlt, hone⟩ := vecReductions_op e he
    obtain ⟨-, hvop, -⟩ := vec_word h
    obtain ⟨t, hexec, honly, htile⟩ := exec_issueTile h (exec_vecReductions_def he tile s)
    refine ⟨t, hexec, honly, ?_⟩
    rw [htile, vOperands_afterIssue]
    have hwrite := vWrite_of_issues h hsrc hlt (rs := [r]) (by simp [vCount, hvop, hone])
    simp only [List.flatMap_singleton, allFlags_singleton, List.any_cons, List.any_nil, Bool.or_false] at hwrite
    exact hwrite
  case fill =>
    intro t0 ws
    obtain ⟨-, hvop, -⟩ := vec_word h
    obtain ⟨t, hexec, honly, htile⟩ := exec_issueTile h (exec_vecFill_def tile s)
    refine ⟨t, hexec, honly, ?_⟩
    rw [htile, fillTile, vOperands_afterIssue]
    obtain ⟨hstored, hvflags, htflags, hkept⟩ := vWrite_of_issues h (by decide) (by decide)
      (rs := List.replicate (vLen (wd ws 1)) ⟨((vOperands t0 ws).getD 0 []).getD 0 0, fNone, false⟩) (by simp [vCount, hvop, ws, t0])
    rw [allFlags_replicate, any_dz_replicate] at hvflags htflags
    have hbytes : (List.replicate (vLen (wd ws 1)) (⟨((vOperands t0 ws).getD 0 []).getD 0 0, fNone, false⟩ : VRes)).flatMap
        (fun r => natLe (vDest ws) r.bits) = (List.replicate (vLen (wd ws 1)) (natLe (elemBytes (vFmt (wd ws 0)))
          (t0.rd (localAddr t0.regs (wd ws 0) (fld (wd ws 0) 21 4)) (elemBytes (vFmt (wd ws 0)))))).flatten := by
      rw [List.flatMap_replicate, vDest_fill hvop, vOperands_fill hvop]
    exact ⟨hbytes ▸ hstored, hvflags.trans (by simp [vflagsOf, fNone, t0]), htflags.trans (by simp [flagIf, fNone, t0]), hkept⟩

/-! ### RDREG, CLRVF (R187) -/

/-- A list of n parts of z elements each. -/
theorem length_flatMap_of_const {α β : Type} (l : List α) (f : α → List β) {z : Nat} (h : ∀ x, (f x).length = z) :
    (l.flatMap f).length = z * l.length := by
  induction l with
  | nil => rfl
  | cons a l ih => rw [List.flatMap_cons, List.length_append, ih, h, List.length_cons, Nat.mul_succ, Nat.add_comm]

theorem rowImage_length (c : RowCtx) : (rowImage c).length = 1296 := by
  unfold rowImage
  rw [List.length_append, List.length_append, natLe_length, natLe_length, length_flatMap_of_const (z := 160)]
  · rw [List.length_map, List.length_range]
  · intro r
    simp only [List.length_append, natLe_length]

/-- The selectors that are not reserved (Table 8.9). -/
theorem rdregBytes_ne_zero {sel : Nat} (h : rdregBytes sel ≠ 0) : sel < 4 ∨ sel = 4 ∨ (0x10 ≤ sel ∧ sel ≤ 0x13) := by
  by_cases hstat : sel < 4
  · exact .inl hstat
  by_cases hhist : sel = 4
  · exact .inr (.inl hhist)
  by_cases hctx : 0x10 ≤ sel ∧ sel ≤ 0x13
  · exact .inr (.inr hctx)
  · rw [rdregBytes, if_neg hstat, if_neg hhist, if_neg hctx] at h
    exact absurd rfl h

/-- The image of a selector has the length of Table 8.9. -/
theorem regImage_length (t : Tile) {sel : Nat} (h : rdregBytes sel ≠ 0) : (regImage t sel).length = rdregBytes sel := by
  rcases rdregBytes_ne_zero h with hstat | rfl | hctx
  · obtain rfl | rfl | rfl | rfl : sel = 0 ∨ sel = 1 ∨ sel = 2 ∨ sel = 3 := by omega
    all_goals exact natLe_length 4 _
  · exact length_flatMap_natLe (List.range 66) (fun i => (tget 0#32 t.hist i).toNat) 4
  · obtain rfl | rfl | rfl | rfl : sel = 0x10 ∨ sel = 0x11 ∨ sel = 0x12 ∨ sel = 0x13 := by omega
    all_goals exact rowImage_length _

@[simp] theorem regImage_afterIssue (cyc : Nat) (t : Tile) (sel : Nat) : regImage (afterIssue cyc t) sel = regImage t sel := by
  simp only [regImage, afterIssue_tflags, afterIssue_vflags, afterIssue_rmax, afterIssue_smiss, afterIssue_hist, afterIssue_rows]

theorem exec_rdreg_def (tile : Nat) (s : State) :
    exec (.rdreg tile) s = issueTile tile (isVec 0x20) rdregClear
      (fun _ ws t => t.wr (localAddr t.regs (wd ws 0) (fld (wd ws 0) 39 22)) (regImage t (vReg (wd ws 1)))) s := rfl

theorem exec_clrvf_def (tile : Nat) (s : State) :
    exec (.clrvf tile) s = issueTile tile (isVec 0x21) (fun cyc t _ => landed cyc (fun u => u == 1) t)
      (fun _ _ t => { t with vflags := 0#5 }) s := rfl

theorem rdregWritesImageAndClrvfClearsVflags : Claims.RdregWritesImageAndClrvfClearsVflags := by
  refine ⟨fun s tile k h => ?rdreg, fun s tile k h => ?clrvf⟩
  case rdreg =>
    intro t0 ws hsel
    obtain ⟨-, hvop, -⟩ := vec_word h
    obtain ⟨t, hexec, honly, htile⟩ := exec_issueTile h (exec_rdreg_def tile s)
    refine ⟨t, hexec, honly, ?_⟩
    rw [htile, afterIssue_regs, regImage_afterIssue]
    refine ⟨storedAt_wr_afterIssue _ ?_, by simp [t0], by simp [t0], sramAndFlags_of_wr _ _ _⟩
    rw [regImage_length t0 hsel]
    exact badWrite_of_vec h (rdreg_mem_vecAccess _ hvop) rfl
  case clrvf =>
    obtain ⟨t, hexec, honly, htile⟩ := exec_issueTile h (exec_clrvf_def tile s)
    exact ⟨t, hexec, honly, htile⟩

/-! ### SFU (R163) -/

/-- The results of an SFU instruction: pattern and flags of each element. -/
def sfuResults (rev : Nat) (ws : List W64) (t : Tile) : List (Nat × Flags) :=
  let w := wd ws 0
  let i := fmtOf (fld w 48 45)
  let f := fmtOf (fld w 44 41)
  (List.range (fld (wd ws 1) 63 48)).map (fun j =>
    let b := t.rd (localAddr t.regs w (fld w 22 5) + fmtBytes i * j) (fmtBytes i)
    let x := decodeIn t.n.subflush i true b
    let r := sfuEval rev (fld w 52 49) i f t.n.opts x.1
    (r.1, r.2 ||| x.2))

@[simp] theorem sfuResults_afterIssue (rev cyc : Nat) (ws : List W64) (t : Tile) :
    sfuResults rev ws (afterIssue cyc t) = sfuResults rev ws t := by simp [sfuResults]

/-- What an SFU instruction does to its tile. -/
def sfuTile (rev : Nat) (ws : List W64) (t : Tile) : Tile :=
  raiseT ((sfuResults rev ws t).foldl (fun x r => x ||| r.2) fNone) (t.wr (localAddr t.regs (wd ws 0) (fld (wd ws 0) 40 23))
    ((sfuResults rev ws t).flatMap (fun r => natLe (fmtBytes (fmtOf (fld (wd ws 0) 44 41))) r.1)))

theorem exec_sfu_def (tile : Nat) (s : State) :
    exec (.sfu tile) s = onDev s (issueDev tile (fun ws => opOf (wd ws 0) == 0x60) (fun _ _ _ _ => true)
      (fun _ k ws d => modTile k (sfuTile (sfuRev d) ws) d)) := rfl

theorem sfuWritesItsResults : Claims.SfuWritesItsResults := by
  intro s tile k h t0 w i f rs
  obtain ⟨t, hexec, honly, htile⟩ := exec_issueOwn h (fun _ rev ws t => sfuTile rev ws t) (exec_sfu_def tile s)
  refine ⟨t, hexec, honly, ?_⟩
  have hcode : opOf (wd t0.cur 0) = 0x60 := by
    obtain ⟨-, -, -, hmine, -⟩ := h
    exact beq_iff_eq.mp hmine
  obtain ⟨hw0, hw1⟩ := wd_word_of_two (t := t0) (by rw [hcode]; rfl)
  have hbad : t0.badWrite (localAddr t0.regs w (fld w 40 23)) (rs.flatMap (fun r => natLe (fmtBytes f) r.1)).length = false := by
    have hdst : ⟨true, localAddr t0.regs w (fld w 40 23), fld (wd t0.word 1) 63 48 * fmtBytes f, fmtBytes f⟩ ∈
        accesses t0.n t0.regs t0.cur := by
      simp [accesses, hcode, f, w, hw0, hw1, elemBytes, localAddr]
    rw [length_flatMap_natLe, List.length_map, List.length_range, Nat.mul_comm]
    exact badWrite_of_issues h (by rw [hcode]; decide) (by rw [hcode]; decide) hdst rfl
  rw [htile, sfuTile, sfuResults_afterIssue, afterIssue_regs]
  refine ⟨storedAt_wr_afterIssue _ hbad, ?_, ?_, sramAndFlags_raiseT _ (sramAndFlags_of_wr _ _ _)⟩
  · simp only [raiseT, wr_tflags, afterIssue_tflags]
    rfl
  · simp only [raiseT, wr_vflags, afterIssue_vflags]
    rfl

/-- Settles O7: every instruction of the family is one write at DST and one raising of flags, on the tile its issue left. -/
theorem vectorAndFunctionInstructionsWriteTheirResults : Obligations.VectorAndFunctionInstructionsWriteTheirResults :=
  ⟨vecElementwiseWritesItsResults, vecReductionsAndFillWriteTheirResults, rdregWritesImageAndClrvfClearsVflags, sfuWritesItsResults⟩

end Sys2Proof.Machine
end

section
/-! ROW instructions (R150 to R161): the eight rows of an operation, what ROW.RESCALE and ROW.VAR leave of a tile, and O9 from them. -/

namespace Sys2Proof.Machine

/-! ### Row contexts -/

/-- A context after one context was set. -/
theorem rowCtx_tset (m : Table RowCtx) (t : Tile) (c c' : Nat) (x : RowCtx) :
    ({ t with rows := tset {} m c x } : Tile).rowCtx c' = if c' = c then x else tget {} m c' := tget_tset _ _ _ _ _

@[simp] theorem rowCtx_afterIssue (cyc : Nat) (t : Tile) (c : Nat) : (afterIssue cyc t).rowCtx c = t.rowCtx c := by simp [Tile.rowCtx]

@[simp] theorem raiseT_tflags (f : Flags) (t : Tile) : (raiseT f t).tflags = t.tflags ||| f := rfl

@[simp] theorem raiseT_rowCtx (f : Flags) (t : Tile) (c : Nat) : (raiseT f t).rowCtx c = t.rowCtx c := rfl

/-! ### The rows of an operation, one after another (R151) -/

/-- The tile with the patterns of row i written, where the operation writes a destination. -/
def rowOut (write : Bool) (ws : List W64) (i : Nat) (bits : List Nat) (t : Tile) : Tile := if write then rowWrite ws i bits t else t

@[simp] theorem rowOut_rows (write : Bool) (ws : List W64) (i : Nat) (bits : List Nat) (t : Tile) :
    (rowOut write ws i bits t).rows = t.rows := by
  cases write
  · rfl
  · exact wr_rows _ _ _

@[simp] theorem rowOut_tflags (write : Bool) (ws : List W64) (i : Nat) (bits : List Nat) (t : Tile) :
    (rowOut write ws i bits t).tflags = t.tflags := by
  cases write
  · rfl
  · exact wr_tflags _ _ _

/-- The tile once row i of its context has run, from a tile in which the rows before it have. -/
def rowNext (write : Bool) (ws : List W64) (f : Tile → RowCtx → Nat → RowCell → RowStep) (v t : Tile) (i : Nat) : Tile :=
  let c := rCtx (wd ws 0)
  let r := f v (t.rowCtx c) i ((t.rowCtx c).rows.getD i {})
  let t1 := rowOut write ws i r.out t
  raiseT r.flags
    { t1 with rows := tset {} t1.rows c { t.rowCtx c with rows := (t.rowCtx c).rows.set i r.cell.settle } }

section
variable (write : Bool) (ws : List W64) (f : Tile → RowCtx → Nat → RowCell → RowStep)

theorem rowEach_eq (v : Tile) : rowEach write ws f v = (List.range 8).foldl (rowNext write ws f v) v := rfl

/-- Running a row is the row's step. -/
theorem rowStep_rowNext (v a : Tile) (i : Nat) : Claims.rowStep write ws f v a (rowNext write ws f v a i) i := by
  refine ⟨?_, fun c' => ?_, ?_, ?_⟩
  · rw [rowNext, raiseT_tflags]
    exact congrArg (· ||| _) (rowOut_tflags _ _ _ _ _)
  · rw [rowNext, raiseT_rowCtx, rowCtx_tset, rowOut_rows]
    rfl
  · cases write
    · exact .inl rfl
    · exact .inr rfl
  · rintro rfl
    exact ⟨_, rfl, rfl⟩

theorem eightRows_rowEach (v : Tile) : Claims.eightRows write ws f v (rowEach write ws f v) := by
  refine ⟨fun i => (List.range i).foldl (rowNext write ws f v) v, rfl, (rowEach_eq write ws f v).symm, fun i _ => ?_⟩
  simp only [List.range_succ, List.foldl_append, List.foldl_cons, List.foldl_nil]
  exact rowStep_rowNext write ws f v _ i

end

/-! ### INIT, SMAX, MOM (R150, R152, R158) -/

/-- What ROW.INIT does to its tile. -/
def initTile (ws : List W64) (t : Tile) : Tile :=
  { t with rows := tset {} t.rows (rCtx (wd ws 0)) { anchor := signed9 (rArg (wd ws 1) % 512) } }

theorem exec_rowInit_def (tile : Nat) (s : State) :
    exec (.rowInit tile) s = issueTile tile (isRow 0) noWait (fun _ => initTile) s := rfl

theorem exec_rowSmax_def (tile : Nat) (s : State) :
    exec (.rowSmax tile) s = issueTile tile (isRow 1) noWait
      (fun _ ws => rowEach false ws (Claims.rowSourced ws (fun _ _ xs r => smaxRow ws xs r))) s := rfl

theorem exec_rowMom_def (tile : Nat) (s : State) :
    exec (.rowMom tile) s = issueTile tile (isRow 5) noWait
      (fun _ ws => rowEach false ws (Claims.rowSourced ws (fun _ c xs r => momRow c.anchor xs (rB (wd ws 0)) r))) s := rfl

theorem rowInitSmaxAndMomChangeTheirContext : Claims.RowInitSmaxAndMomChangeTheirContext := by
  intro s tile k t0 v ws
  refine ⟨fun h => ?init, fun h => ?smax, fun h => ?mom⟩
  case init =>
    obtain ⟨t, hexec, honly, htile⟩ := exec_issueTile h (exec_rowInit_def tile s)
    refine ⟨t, hexec, honly, fun c => ?_, by rw [htile]; rfl⟩
    rw [htile, initTile, rowCtx_tset, afterIssue_rows]
    rfl
  case smax =>
    obtain ⟨t, hexec, honly, htile⟩ := exec_issueTile h (exec_rowSmax_def tile s)
    exact ⟨t, hexec, honly, htile ▸ eightRows_rowEach _ _ _ _⟩
  case mom =>
    obtain ⟨t, hexec, honly, htile⟩ := exec_issueTile h (exec_rowMom_def tile s)
    exact ⟨t, hexec, honly, htile ▸ eightRows_rowEach _ _ _ _⟩

/-! ### SEXP, DIV, NORM (R153, R155, R161) -/

@[simp] theorem rowSlotsBad_afterIssue (n cyc : Nat) (t : Tile) (ws : List W64) :
    rowSlotsBad n (afterIssue cyc t) ws = rowSlotsBad n t ws := by simp [rowSlotsBad, slotBad]

@[simp] theorem normVector_afterIssue (cyc : Nat) (t : Tile) (ws : List W64) (on : Bool) (field : Nat) (dflt : Num) :
    normVector (afterIssue cyc t) ws on field dflt = normVector t ws on field dflt := by simp [normVector]

theorem exec_rowSexp_def (tile : Nat) (s : State) :
    exec (.rowSexp tile) s = onDev s (issueDev tile (isRow 2) (fun _ _ _ _ => true) (fun _ k ws d =>
      modTile k (rowEach true ws (Claims.rowSourced ws (fun t c xs r => sexpRow (sfuRev d) ws t.n c.anchor xs r))) d)) := rfl

/-- One row of ROW.DIV. -/
def divStep (ws : List W64) : Tile → RowCtx → Nat → RowCell → RowStep :=
  fun t c i r =>
    let os := (List.range 8).map (fun j => divOut t.n (fmtOf (rFmt2 (wd ws 1))) (bit (wd ws 1) 49) r.exc (rowQuire c.anchor r.q1)
      (scaledValue t (if rMask (wd ws 1) = 1 then 0 else 1) (rSlot (wd ws 1)) i j))
    ⟨r, os.foldl (fun a x => a ||| x.2) fNone, os.map (·.1)⟩

theorem exec_rowDiv_def (tile : Nat) (s : State) :
    exec (.rowDiv tile) s = issueTile tile (isRow 4) divSlotsFinal (fun p ws t =>
      if rowSlotsBad t.n.span t ws then t.stop .uncorrectable p.cyc
      else rowEach true ws (divStep ws) (rowSlotsCount t.n.span ws t)) s := rfl

/-- The gains of ROW.NORM. -/
def normGain (t : Tile) (ws : List W64) : List Num × Flags :=
  normVector t ws (bit (wd ws 2) 27) (fld (wd ws 2) 63 46) (.fin false 1 0)

/-- The offsets of ROW.NORM. -/
def normBias (t : Tile) (ws : List W64) : List Num × Flags :=
  normVector t ws (bit (wd ws 2) 26) (fld (wd ws 2) 45 28) (.zero false)

/-- One row of ROW.NORM with gains g and offsets b. -/
def normStep (ws : List W64) (g b : List Num) : Tile → RowCtx → Nat → RowCell → RowStep :=
  fun t _ i r =>
    let x := rowSource t ws i
    let mu : Num := if rMode (wd ws 1) then .zero false else decode .fp32 true r.mu.toNat
    let os := (List.range (rB (wd ws 0))).map (fun j => normOut (fmtOf (rFmt2 (wd ws 1))) t.n.opts ((x.1.getD j (.nar, 0)).1) mu
      (decode .fp32 true r.rstd.toNat) (g.getD j .nar) (b.getD j .nar))
    ⟨r, x.2 ||| os.foldl (fun a x => a ||| x.2) fNone, os.map (·.1)⟩

theorem exec_rowNorm_def (tile : Nat) (s : State) :
    exec (.rowNorm tile) s = issueTile tile (isRow 7) noWait (fun _ ws t =>
      raiseT ((normGain t ws).2 ||| (normBias t ws).2) (rowEach true ws (normStep ws (normGain t ws).1 (normBias t ws).1) t)) s := rfl

theorem rowSexpDivAndNormRunTheirRows : Claims.RowSexpDivAndNormRunTheirRows := by
  intro s tile k t0 v ws w1
  refine ⟨fun h => ?sexp, fun h hbad => ?div, fun h => ?norm⟩
  case sexp =>
    obtain ⟨t, hexec, honly, htile⟩ := exec_issueOwn h (fun _ rev ws =>
      rowEach true ws (Claims.rowSourced ws (fun t c xs r => sexpRow rev ws t.n c.anchor xs r))) (exec_rowSexp_def tile s)
    exact ⟨t, hexec, honly, htile ▸ eightRows_rowEach _ _ _ _⟩
  case div =>
    obtain ⟨t, hexec, honly, htile⟩ := exec_issueTile h (exec_rowDiv_def tile s)
    rw [rowSlotsBad_afterIssue, afterIssue_n, if_neg (ne_true_of_eq_false hbad)] at htile
    exact ⟨t, hexec, honly, htile ▸ eightRows_rowEach _ _ (divStep ws) _⟩
  case norm =>
    obtain ⟨t, hexec, honly, htile⟩ := exec_issueTile h (exec_rowNorm_def tile s)
    simp only [normGain, normBias, normVector_afterIssue] at htile
    exact ⟨t, _, hexec, honly, htile,
      eightRows_rowEach _ _ (normStep ws (normGain t0 ws).1 (normBias t0 ws).1) _⟩

/-! ### RESCALE (R154) -/

/-- A tile that differs from another in its accumulator words, their error marks, the count of corrected errors and TFLAGS alone. -/
def accDone (u v : Tile) : Prop :=
  u = { v with acc := u.acc, acc1 := u.acc1, acc2 := u.acc2, corrected := u.corrected, tflags := u.tflags }

theorem accDone_refl (t : Tile) : accDone t t := rfl

theorem accDone_trans {u v w : Tile} (huv : accDone u v) (hvw : accDone v w) : accDone u w := by
  unfold accDone at *
  rw [huv, hvw]

/-- Steps that each change only what belongs to the accumulators change together no more. -/
theorem accDone_foldl {α : Type} {f : Tile → α → Tile} (hf : ∀ t a, accDone (f t a) t) (l : List α) (t : Tile) :
    accDone (l.foldl f t) t := by
  induction l generalizing t with
  | nil => exact accDone_refl t
  | cons a l ih => exact accDone_trans (ih (f t a)) (hf t a)

theorem accDone_countSlot (w arr slot : Nat) (cells : List Nat) (t : Tile) : accDone (t.countSlot w arr slot cells) t := by
  unfold accDone
  rw [countSlot_eq]

theorem accDone_rowSlotsCount (n : Nat) (ws : List W64) (t : Tile) : accDone (rowSlotsCount n ws t) t :=
  accDone_foldl (fun t _ => accDone_foldl (fun t _ => accDone_countSlot _ _ _ _ t) _ t) _ t

theorem accDone_rescaleSlot (ctx : RowCtx) (arr slot : Nat) (t : Tile) : accDone (rescaleSlot ctx arr slot t) t :=
  accDone_foldl (f := fun t c => raiseT _ (t.slotSet _ arr slot c _)) (fun _ _ => rfl) _ t

theorem accDone_rows {u v : Tile} (h : accDone u v) : u.rows = v.rows := by rw [h]

/-- The slots of ROW.RESCALE, counted and shifted. -/
def rescaleSlots (ws : List W64) (t : Tile) : Tile :=
  let ctx := t.rowCtx (rCtx (wd ws 0))
  (maskArrays (rMask (wd ws 1))).foldl (fun u a =>
    (List.range (rCount (wd ws 1) / t.n.span)).foldl (fun u i => rescaleSlot ctx a (rSlot (wd ws 1) + t.n.span * i) u) u)
      (rowSlotsCount (rCount (wd ws 1)) ws t)

theorem accDone_rescaleSlots (ws : List W64) (t : Tile) : accDone (rescaleSlots ws t) t :=
  accDone_trans (accDone_foldl (fun u _ => accDone_foldl (fun u _ => accDone_rescaleSlot _ _ _ u) _ u) _ _)
    (accDone_rowSlotsCount _ _ _)

/-- A context with every D cleared. -/
def RowCtx.clearD (c : RowCtx) : RowCtx := { c with rows := c.rows.map (fun r => { r with d := 0#32 }) }

/-- What ROW.RESCALE does to its tile where no slot it reads is bad. -/
def rescaleTile (ws : List W64) (t : Tile) : Tile :=
  let u := rescaleSlots ws t
  { u with rows := tset {} u.rows (rCtx (wd ws 0)) (t.rowCtx (rCtx (wd ws 0))).clearD }

theorem exec_rowRescale_def (tile : Nat) (s : State) :
    exec (.rowRescale tile) s = issueTile tile (isRow 3) rescaleSlotsFree (fun p ws t =>
      if rowSlotsBad (rCount (wd ws 1)) t ws then t.stop .uncorrectable p.cyc else rescaleTile ws t) s := rfl

theorem rowCtx_rescaleTile (ws : List W64) (t : Tile) (c : Nat) :
    (rescaleTile ws t).rowCtx c = if c = rCtx (wd ws 0) then (t.rowCtx (rCtx (wd ws 0))).clearD else t.rowCtx c := by
  rw [rescaleTile, rowCtx_tset, accDone_rows (accDone_rescaleSlots ws t)]
  rfl

theorem rescaleTile_eq (ws : List W64) (t : Tile) :
    rescaleTile ws t = { t with
      rows := (rescaleTile ws t).rows, acc := (rescaleTile ws t).acc, acc1 := (rescaleTile ws t).acc1,
      acc2 := (rescaleTile ws t).acc2, corrected := (rescaleTile ws t).corrected, tflags := (rescaleTile ws t).tflags } := by
  have h := accDone_rescaleSlots ws t
  unfold accDone at h
  unfold rescaleTile
  rw [h]

/-! ### VAR (R159) -/

/-- A row with the MEAN and RSTD that ROW.VAR makes of it latched. -/
def latchRow (rev : Nat) (ws : List W64) (n : Ncw) (anchor : Int) (r : RowCell) : RowCell :=
  let x := varRow rev ws n anchor r
  { r with mu := BitVec.ofNat 32 x.1, rstd := BitVec.ofNat 32 x.2.2.1 }

/-- The tile once ROW.VAR has run row i of context c, its record written from address a on. -/
def varNext (rev : Nat) (ws : List W64) (a c : Nat) (t : Tile) (i : Nat) : Tile :=
  let r := (t.rowCtx c).rows.getD i {}
  let x := varRow rev ws t.n (t.rowCtx c).anchor r
  let t1 := t.wr (a + 16 * i) (natLe 4 x.1 ++ natLe 4 x.2.1 ++ natLe 4 x.2.2.1 ++ natLe 4 r.count.toNat)
  raiseT x.2.2.2 { t1 with
    rows := tset {} t1.rows c { t.rowCtx c with rows := (t.rowCtx c).rows.set i (latchRow rev ws t.n (t.rowCtx c).anchor r) } }

/-- The tile once ROW.VAR has run the first n rows of context c. -/
def varRows (rev : Nat) (ws : List W64) (a c : Nat) (t : Tile) (n : Nat) : Tile := (List.range n).foldl (varNext rev ws a c) t

theorem exec_rowVar_def (tile : Nat) (s : State) :
    exec (.rowVar tile) s = onDev s (issueDev tile (isRow 6) (fun _ _ _ _ => true) (fun _ k ws d => modTile k (fun t =>
      varRows (sfuRev d) ws (localAddr t.regs (wd ws 0) (fld (wd ws 0) 20 3)) (rCtx (wd ws 0)) t 8) d)) := rfl

section
variable (rev : Nat) (ws : List W64) (a c : Nat) (t : Tile)

theorem varRows_succ (n : Nat) : varRows rev ws a c t (n + 1) = varNext rev ws a c (varRows rev ws a c t n) n := by
  simp only [varRows, List.range_succ, List.foldl_append, List.foldl_cons, List.foldl_nil]

theorem varNext_eq (i : Nat) :
    varNext rev ws a c t i = { t with
      sram := (varNext rev ws a c t i).sram, corrected := (varNext rev ws a c t i).corrected,
      sram1 := (varNext rev ws a c t i).sram1, sram2 := (varNext rev ws a c t i).sram2,
      rows := (varNext rev ws a c t i).rows, tflags := (varNext rev ws a c t i).tflags } := by
  unfold varNext
  simp only [raiseT]
  rw [wr_eq]

theorem varRows_eq (n : Nat) :
    varRows rev ws a c t n = { t with
      sram := (varRows rev ws a c t n).sram, corrected := (varRows rev ws a c t n).corrected,
      sram1 := (varRows rev ws a c t n).sram1, sram2 := (varRows rev ws a c t n).sram2,
      rows := (varRows rev ws a c t n).rows, tflags := (varRows rev ws a c t n).tflags } := by
  induction n with
  | zero => rfl
  | succ n ih => rw [varRows_succ, varNext_eq, ih]

@[simp] theorem varRows_n (n : Nat) : (varRows rev ws a c t n).n = t.n := by rw [varRows_eq]; rfl

theorem rowCtx_varNext (i c' : Nat) :
    (varNext rev ws a c t i).rowCtx c' =
      if c' = c then { t.rowCtx c with
        rows := (t.rowCtx c).rows.set i (latchRow rev ws t.n (t.rowCtx c).anchor ((t.rowCtx c).rows.getD i {})) }
      else t.rowCtx c' := by
  rw [varNext, raiseT_rowCtx, rowCtx_tset, wr_rows]
  rfl

/-- The other contexts stay. -/
theorem rowCtx_varRows_other (n : Nat) {c' : Nat} (hc : c' ≠ c) : (varRows rev ws a c t n).rowCtx c' = t.rowCtx c' := by
  induction n with
  | zero => rfl
  | succ n ih => rw [varRows_succ, rowCtx_varNext, if_neg hc, ih]

end

/-- A list with f applied to its first n elements. -/
def latchFirst {α : Type} (f : α → α) (l : List α) (n : Nat) : List α := (l.take n).map f ++ l.drop n

theorem latchFirst_succ {α : Type} (f : α → α) (d : α) {l : List α} {n : Nat} (hn : n < l.length) :
    (latchFirst f l n).set n (f ((latchFirst f l n).getD n d)) = latchFirst f l (n + 1) := by
  have hlen : ((l.take n).map f).length = n := by rw [List.length_map, List.length_take]; omega
  have hget : (latchFirst f l n).getD n d = l[n] := by
    rw [latchFirst, List.getD_eq_getElem?_getD, List.getElem?_append_right (by omega), hlen, Nat.sub_self,
      List.drop_eq_getElem_cons hn]
    rfl
  rw [hget, latchFirst, latchFirst, List.drop_eq_getElem_cons hn, List.set_append_right _ _ (by omega), hlen, Nat.sub_self,
    List.set_cons_zero, List.take_succ_eq_append_getElem hn, List.map_append, List.append_assoc]
  rfl

theorem latchFirst_all {α : Type} (f : α → α) (l : List α) : latchFirst f l l.length = l.map f := by
  rw [latchFirst, List.take_length, List.drop_length, List.append_nil]

theorem getD_map_of_lt {α : Type} (f : α → α) (d : α) {l : List α} {i : Nat} (hi : i < l.length) :
    (l.map f).getD i d = f (l.getD i d) := by
  rw [List.getD_eq_getElem?_getD, List.getD_eq_getElem?_getD, List.getElem?_map, List.getElem?_eq_getElem hi]
  rfl

/-- The context of ROW.VAR once its first n rows have run: their MEAN and RSTD are latched. -/
theorem rowCtx_varRows (rev : Nat) (ws : List W64) (a c : Nat) (t : Tile) {n : Nat} (hn : n ≤ (t.rowCtx c).rows.length) :
    (varRows rev ws a c t n).rowCtx c = { t.rowCtx c with
      rows := latchFirst (latchRow rev ws t.n (t.rowCtx c).anchor) (t.rowCtx c).rows n } := by
  induction n with
  | zero => rfl
  | succ n ih => rw [varRows_succ, rowCtx_varNext, if_pos rfl, ih (by omega), varRows_n, latchFirst_succ _ _ (by omega)]

theorem rowRescaleClearsDAndRowVarLatches : Claims.RowRescaleClearsDAndRowVarLatches := by
  intro s tile k t0 v ws c
  refine ⟨fun h hbad => ?rescale, fun h hlen => ?var⟩
  case rescale =>
    obtain ⟨t, hexec, honly, htile⟩ := exec_issueTile h (exec_rowRescale_def tile s)
    rw [rowSlotsBad_afterIssue, if_neg (ne_true_of_eq_false hbad)] at htile
    refine ⟨t, hexec, honly, fun c' => ?_, ?_⟩
    · rw [htile, rowCtx_rescaleTile, rowCtx_afterIssue, rowCtx_afterIssue]
      rfl
    · rw [htile]
      exact rescaleTile_eq ws v
  case var =>
    obtain ⟨t, hexec, honly, htile⟩ := exec_issueOwn h (fun _ rev ws t =>
      varRows rev ws (localAddr t.regs (wd ws 0) (fld (wd ws 0) 20 3)) (rCtx (wd ws 0)) t 8) (exec_rowVar_def tile s)
    refine ⟨t, hexec, honly, fun i hi => ?rows, fun c' hc' => ?others, ?acc, ?vflags, ?regs⟩
    case rows =>
      have hctx : (tileAt t.dev k).rowCtx c = { t0.rowCtx c with
          rows := (t0.rowCtx c).rows.map (latchRow (sfuRev s.dev) ws t0.n (t0.rowCtx c).anchor) } := by
        rw [htile, rowCtx_varRows, rowCtx_afterIssue, afterIssue_n, ← latchFirst_all, hlen]
        rw [rowCtx_afterIssue]
        exact Nat.le_of_eq hlen.symm
      rw [hctx]
      exact getD_map_of_lt _ _ (by omega)
    case others => rw [htile, rowCtx_varRows_other _ _ _ _ _ _ hc', rowCtx_afterIssue]
    case acc => rw [htile, varRows_eq]; exact afterIssue_acc _ _
    case vflags => rw [htile, varRows_eq]; exact afterIssue_vflags _ _
    case regs => rw [htile, varRows_eq]; exact afterIssue_regs _ _

/-- Settles O9: an operation on rows is its row's step, eight times in order; ROW.RESCALE touches accumulators and D alone, and ROW.VAR
latches each row of its context from the row as it stood. -/
theorem rowInstructionsChangeTheirContext : Obligations.RowInstructionsChangeTheirContext :=
  ⟨rowInitSmaxAndMomChangeTheirContext, rowSexpDivAndNormRunTheirRows, rowRescaleClearsDAndRowVarLatches⟩

end Sys2Proof.Machine
end

section
/-! The sequencer and SYNC (R177, R196, R203): where issue leaves the sequencer, what a write of an address register reads back as, tokens
and signals, and O14 from them. -/

namespace Sys2Proof.Machine

/-! ### The sequencer after an issue (R203) -/

/-- Every instruction has a first word. -/
theorem opWords_pos (op : Nat) : 0 < (opWords op).getD 1 := by
  unfold opWords
  split <;> decide

theorem wd_word_zero (t : Tile) : wd t.word 0 = wd t.cur 0 := wd_word t 0 (opWords_pos _)

/-- The program counter and the loops entered. -/
def Tile.seq (t : Tile) : Nat × List (Nat × Nat × Nat) := (t.pc, t.loops)

theorem occupy_seq (cyc : Nat) (ws : List W64) (l : List Access) (t : Tile) : (occupy cyc ws l t).seq = t.seq := by
  rw [occupy_eq]
  rfl

theorem issued_seq (cyc len : Nat) (t : Tile) : (issued cyc len t).seq = seqNext (wd t.cur 0) len t.pc t.loops := rfl

/-- Issue moves the sequencer on by the instruction's words, or into the body of its LOOP. -/
theorem afterIssue_seq (cyc : Nat) (t : Tile) :
    (afterIssue cyc t).seq = seqNext (wd t.cur 0) ((opWords (opOf (wd t.cur 0))).getD 1) t.pc t.loops := by
  unfold afterIssue
  simp only
  rw [occupy_seq, issued_seq, foldl_countRead_eq, countFetch_eq]
  rfl

theorem seqNext_loop {w : W64} (h : opOf w = 0xA0) (n pc : Nat) (loops : List (Nat × Nat × Nat)) :
    seqNext w n pc loops = (pc + 1, (pc + 1, pc + 1 + fld w 36 25, fld w 52 37) :: loops) := if_pos h

/-! ### Address registers (R177) -/

/-- LB0 and NB0 read zero; the register written reads the value, cut to its width; the others stay. -/
theorem regRead_regWrite (r : Table Nat) (c v n : Nat) :
    regRead (regWrite r c v) n =
      if n = 0 ∨ n = 8 then 0 else if n = c then v % 2 ^ (if n < 8 then 18 else 40) else regRead r n := by
  by_cases hzero : n = 0 ∨ n = 8
  · simp only [regRead, hzero, if_true]
  by_cases hc : c = 0 ∨ c = 8
  · have hne : n ≠ c := by omega
    simp only [regWrite, hc, if_true, hzero, hne, if_false]
  · simp only [regRead, regWrite, hc, hzero, if_false, tget_tset]
    by_cases hn : n = c
    · simp only [hn, if_true]
    · simp only [hn, if_false]

theorem arWrite_eq (r : Table Nat) (w : W64) : arWrite r w = regWrite r (fld w 52 49) (Claims.arValue r w) := by
  unfold arWrite Claims.arValue
  split <;> rfl

theorem exec_loop_def (tile : Nat) (s : State) :
    exec (.loop tile) s = issueTile tile (fun ws => opOf (wd ws 0) == 0xA0) noWait (fun _ _ t => t) s := rfl

/-- ARSET and ARADD differ in the value alone. -/
theorem exec_ar_def {c : Nat → Instr} {op : Nat} (h : (c, op) ∈ [(Instr.arset, 0xA1), (Instr.aradd, 0xA2)]) (tile : Nat) (s : State) :
    exec (c tile) s = issueTile tile (fun ws => opOf (wd ws 0) == op) noWait
      (fun _ ws t => { t with regs := arWrite t.regs (wd ws 0) }) s := by
  simp only [List.mem_cons, Prod.mk.injEq, List.not_mem_nil, or_false] at h
  obtain ⟨rfl, rfl⟩ | ⟨rfl, rfl⟩ := h
  · rfl
  · rfl

theorem loopArsetAraddChangeSequencerState : Claims.LoopArsetAraddChangeSequencerState := by
  intro s tile k t0 v w
  refine ⟨fun h => ?loop, fun c op hc h => ?ar⟩
  case loop =>
    obtain ⟨t, hexec, honly, htile⟩ := exec_issueTile h (exec_loop_def tile s)
    have hop : opOf (wd t0.cur 0) = 0xA0 := by
      obtain ⟨-, -, -, hmine, -⟩ := h
      exact beq_iff_eq.mp hmine
    have hseq : v.seq = (t0.pc + 1, (t0.pc + 1, t0.pc + 1 + fld w 36 25, fld w 52 37) :: t0.loops) := by
      rw [afterIssue_seq, seqNext_loop hop, ← wd_word_zero]
    exact ⟨t, hexec, honly, htile, congrArg Prod.fst hseq, congrArg Prod.snd hseq, afterIssue_sram _ _, afterIssue_regs _ _⟩
  case ar =>
    obtain ⟨t, hexec, honly, htile⟩ := exec_issueTile h (exec_ar_def hc tile s)
    refine ⟨t, hexec, honly, by rw [htile], fun n => ?_⟩
    rw [htile, afterIssue_regs, arWrite_eq]
    exact regRead_regWrite _ _ _ _

/-! ### WAIT, FENCE, DELAY (R196) -/

theorem arrive_afterIssue (c cyc : Nat) (t : Tile) :
    (afterIssue cyc t).arrive c = { afterIssue cyc t with tok := (t.arrive c).tok, arriving := (t.arrive c).arriving } := by
  simp only [Tile.arrive, afterIssue_tok, afterIssue_arriving]

/-- What WAIT does to its tile. -/
def waitTile (cyc : Nat) (w : W64) (t : Tile) : Tile :=
  { t.arrive cyc with tok := tmod 0 (t.arrive cyc).tok (syncTok w) (fun x => x - syncCount w) }

theorem exec_syncWait_def (tile : Nat) (s : State) :
    exec (.syncWait tile) s = issueTile tile (isSync 0)
      (fun cyc t ws => decide (syncCount (wd ws 0) ≤ tget 0 (t.arrive cyc).tok (syncTok (wd ws 0))))
      (fun p ws => waitTile p.cyc (wd ws 0)) s := rfl

theorem tok_waitTile (cyc : Nat) (w : W64) (t : Tile) (n : Nat) :
    tget 0 (waitTile cyc w t).tok n = tget 0 (t.arrive cyc).tok n - (if n = syncTok w then syncCount w else 0) := by
  rw [waitTile, tget_tmod]
  by_cases hn : n = syncTok w <;> simp [hn]

theorem exec_syncFence_def (tile : Nat) (s : State) :
    exec (.syncFence tile) s = issueTile tile (isSync 2) (fun cyc t _ => allDone cyc t) (fun _ _ t => t) s := rfl

theorem exec_syncDelay_def (tile : Nat) (s : State) :
    exec (.syncDelay tile) s = issueTile tile (isSync 3) noWait
      (fun p ws t => { t with notBefore := p.cyc + syncCount (wd ws 0) }) s := rfl

/-! ### SIGNAL (R196) -/

/-- An instruction that may issue has its effect on the device that its issue left. -/
theorem exec_issueDev {s : State} {tile k : Nat} {mine : List W64 → Bool} {clear : Nat → Dev → Tile → List W64 → Bool} {c : Instr}
    {f : Plat → Nat → List W64 → Dev → Dev} (h : issuesNow s tile k mine clear)
    (hdef : exec c s = onDev s (issueDev tile mine clear f)) :
    exec c s = .next { s with dev := f s.plat k (tileAt s.dev k).word (modTile k (afterIssue s.plat.cyc) s.dev) } := by
  rw [hdef, onDev_eq, issueDev_eq _ h]

@[simp] theorem neighbour_modTile (k : Nat) (f : Tile → Tile) (d : Dev) (t : Tile) (dir : Nat) :
    neighbour (modTile k f d) t dir = neighbour d t dir := rfl

@[simp] theorem neighbour_afterIssue (d : Dev) (cyc : Nat) (t : Tile) (dir : Nat) :
    neighbour d (afterIssue cyc t) dir = neighbour d t dir := by
  simp only [neighbour, afterIssue_handle, afterIssue_task, afterIssue_number]

/-- The youngest PUSH toward a neighbour that a tile holds. -/
def heldPush (t : Tile) (tgt : Nat) : Option Xfer := (t.dma.filter (fun x => x.dir == 3 && x.rtype == tgt)).getLast?

theorem heldPush_eq_none {t : Tile} {tgt : Nat} (h : ∀ x ∈ t.dma, x.dir = 3 → x.rtype ≠ tgt) : heldPush t tgt = none := by
  rw [heldPush, List.getLast?_eq_none_iff, List.filter_eq_nil_iff]
  intro x hx
  simpa using h x hx

/-- What SIGNAL does to the device: its signal is under way, or follows the PUSH it is behind. -/
def signalDev (p : Plat) (k : Nat) (ws : List W64) (d : Dev) : Dev :=
  let w := wd ws 0
  let t := tileAt d k
  if syncTgt w = 0 then modTile k (Tile.signal p.cyc (syncTok w) (syncCount w)) d
  else
    match heldPush t (syncTgt w) with
    | some x => modTile k (fun t => { t with dma := t.dma.map (fun y =>
        if y.id = x.id then { y with signals := y.signals ++ [(syncTok w, syncCount w)] } else y) }) d
    | none => signalTile p.cyc t.handle t.task (neighbour d t (syncTgt w)) (syncTok w) (syncCount w) d

theorem exec_syncSignal_def (tile : Nat) (s : State) :
    exec (.syncSignal tile) s = onDev s (issueDev tile (isSync 1)
      (fun cyc _ t _ => t.drains.isEmpty && landed cyc (fun u => u == 6 || u == 7) t) signalDev) := rfl

theorem signalDev_self (p : Plat) (k : Nat) {ws : List W64} (d : Dev) (h : syncTgt (wd ws 0) = 0) :
    signalDev p k ws d = modTile k (Tile.signal p.cyc (syncTok (wd ws 0)) (syncCount (wd ws 0))) d := if_pos h

theorem signalTile_of_takes {d : Dev} {h task j : Nat} (htakes : takesSignal h task (tileAt d j) = true) (cyc tok n : Nat) :
    signalTile cyc h task (some j) tok n d = modTile j (Tile.signal cyc tok n) d := if_pos htakes

/-- A signal to a neighbour that takes it, behind no PUSH. -/
theorem signalDev_neighbour (p : Plat) {k j : Nat} {ws : List W64} {d : Dev} (h : syncTgt (wd ws 0) ≠ 0)
    (hpush : heldPush (tileAt d k) (syncTgt (wd ws 0)) = none) (hj : neighbour d (tileAt d k) (syncTgt (wd ws 0)) = some j)
    (htakes : takesSignal (tileAt d k).handle (tileAt d k).task (tileAt d j) = true) :
    signalDev p k ws d = modTile j (Tile.signal p.cyc (syncTok (wd ws 0)) (syncCount (wd ws 0))) d := by
  simp only [signalDev, if_neg h, hpush, hj]
  exact signalTile_of_takes htakes _ _ _

theorem syncInstructionsActOnTokensAndIssue : Claims.SyncInstructionsActOnTokensAndIssue := by
  intro s tile k t0 v w had
  refine ⟨fun h => ?wait, fun h => ?fence, fun h => ?delay,
    fun h => ⟨fun htgt => ?self, fun j htgt hnb hj htakes hpush => ?neighbour⟩⟩
  case wait =>
    obtain ⟨t, hexec, honly, htile⟩ := exec_issueTile h (exec_syncWait_def tile s)
    refine ⟨t, hexec, honly, ?_, fun n => ?_⟩
    · rw [htile, waitTile, arrive_afterIssue]
    · rw [htile, tok_waitTile, arrive_afterIssue]
  case fence => exact exec_issueTile h (exec_syncFence_def tile s)
  case delay => exact exec_issueTile h (exec_syncDelay_def tile s)
  case self =>
    have hexec := exec_issueDev h (exec_syncSignal_def tile s)
    rw [signalDev_self _ _ _ htgt] at hexec
    refine ⟨_, hexec, onlyTile_modTile_modTile _ _ _ _, ?_⟩
    rw [tileAt_modTile_same, tileAt_modTile_same, Tile.signal, afterIssue_arriving]
  case neighbour =>
    have hexec := exec_issueDev h (exec_syncSignal_def tile s)
    rw [signalDev_neighbour _ (j := j) htgt] at hexec
    · refine ⟨_, hexec, ?_, ?_, fun i hik hij => ?_, rfl⟩
      · rw [tileAt_modTile_other _ hj.symm, tileAt_modTile_same]
      · rw [tileAt_modTile_same, tileAt_modTile_other _ hj, Tile.signal]
      · rw [tileAt_modTile_other _ hij, tileAt_modTile_other _ hik]
    · rw [tileAt_modTile_same]
      exact heldPush_eq_none (by simpa only [afterIssue_dma] using hpush)
    · rw [tileAt_modTile_same, neighbour_modTile, neighbour_afterIssue, hnb]
    · rw [tileAt_modTile_same, tileAt_modTile_other _ hj, afterIssue_handle, afterIssue_task, htakes]

/-- Settles O14: LOOP is the sequencer's step into its body, ARSET and ARADD are one register write, and a SYNC changes tokens, the next
issue, or the signals under way at one tile. -/
theorem sequencerAndSynchronisation : Obligations.SequencerAndSynchronisation :=
  ⟨loopArsetAraddChangeSequencerState, syncInstructionsActOnTokensAndIssue⟩

end Sys2Proof.Machine
end

section
/-! DMA (R198, R200 to R202, R254): the transfer an instruction describes, what queueing its requests leaves, what holding it and
completing it do to the tile and to a neighbour, and O13 from them. -/

namespace Sys2Proof.Machine

/-! ### The transfer of a DMA instruction (R200) -/

@[simp] theorem xferOf_afterIssue (cyc : Nat) (t : Tile) (ws : List W64) : xferOf (afterIssue cyc t) ws = xferOf t ws := by
  simp only [xferOf, afterIssue_regs, afterIssue_nextXfer, afterIssue_sram]

/-- The direction of a DMA that issues. -/
theorem dma_word {s : State} {tile k dir : Nat} {clear : Nat → Dev → Tile → List W64 → Bool}
    (h : issuesNow s tile k (isDma dir) clear) :
    dmaDir (wd (tileAt s.dev k).word 0) = dir := by
  obtain ⟨-, -, -, hmine, -⟩ := h
  simp only [isDma, Bool.and_eq_true, beq_iff_eq] at hmine
  obtain ⟨-, hdir⟩ := hmine
  exact wd_word_zero _ ▸ hdir

theorem xferOf_near {ws : List W64} (h : dmaDir (wd ws 0) ≠ 3) (t : Tile) :
    (xferOf t ws).near = nearAddr t.regs (dmaNbsel (wd ws 0)) (dmaNaddr (wd ws 1)) := if_neg h

/-! ### Requests and what they leave (R260 to R262) -/

/-- What queueing requests leaves of a device: every tile, the bytes of near memory, the host interface. -/
def Dev.unqueued (d : Dev) : Table Tile × Mem × HostIf := (d.tiles, d.near.mem, d.host)

theorem unqueued_eq_iff {d e : Dev} :
    d.unqueued = e.unqueued ↔ d.tiles = e.tiles ∧ d.near.mem = e.near.mem ∧ d.host = e.host := by
  simp only [Dev.unqueued, Prod.mk.injEq]

theorem tileAt_congr {d e : Dev} (h : d.tiles = e.tiles) (k : Nat) : tileAt d k = tileAt e k := by rw [tileAt, tileAt, h]

theorem unqueued_modChan (g : Nat) (f : Chan → Chan) (d : Dev) : (modChan g f d).unqueued = d.unqueued := rfl

theorem unqueued_traceRec (cyc cls code unit die payload : Nat) (d : Dev) :
    (traceRec cyc cls code unit die payload d).unqueued = d.unqueued := by
  unfold traceRec
  split <;> rfl

theorem unqueued_countNear (cyc g kind : Nat) (h : Option Nat) (d : Dev) : (countNear cyc g kind h d).unqueued = d.unqueued := by
  unfold countNear
  split
  · rfl
  · exact unqueued_traceRec _ _ _ _ _ _ _

theorem unqueued_moveCredit (a b : Option Nat) (d : Dev) : (moveCredit a b d).unqueued = d.unqueued := by
  unfold moveCredit
  split <;> rfl

theorem unqueued_enqueue (cyc cls g : Nat) (r : ChanReq) (d : Dev) : (enqueue cyc cls g r d).unqueued = d.unqueued := by
  unfold enqueue
  simp only
  split
  · exact unqueued_modChan _ _ _
  · split
    · exact unqueued_modChan _ _ _
    · split
      · exact (unqueued_moveCredit _ _ _).trans (unqueued_modChan _ _ _)
      · exact (unqueued_countNear _ _ _ _ _).trans (unqueued_modChan _ _ _)

theorem unqueued_enqueueXfer (p : Plat) (k h : Nat) (x : Xfer) (runs : List Run2K) (d : Dev) :
    (enqueueXfer p k h x runs d).unqueued = d.unqueued := by
  unfold enqueueXfer submit
  exact foldl_keeps Dev.unqueued _ (fun d q => unqueued_enqueue _ _ _ _ d) _ _

/-! ### Addresses and regions (R254) -/

theorem runsGo_congr {d e : Dev} (h : d.near.regions = e.near.regions) (f a n : Nat) : runsGo f d a n = runsGo f e a n := by
  induction f generalizing a n with
  | zero => rfl
  | succ f ih => simp only [runsGo, regionOf, h, ih]

/-- The runs of an access are a matter of the regions. -/
theorem runsOf_congr {d e : Dev} (h : d.near.regions = e.near.regions) (a n : Nat) : runsOf d a n = runsOf e a n := by
  rw [runsOf, runsOf, h, runsGo_congr h]

@[simp] theorem mapped_modTile (k : Nat) (f : Tile → Tile) (d : Dev) (a n : Nat) : mapped (modTile k f d) a n = mapped d a n := by
  rw [mapped, mapped, runsOf_congr (d := modTile k f d) (e := d) rfl]

/-! ### LOAD, STORE, RED (R200, R201, R254) -/

theorem exec_nearDma_def {e : (Nat → Instr) × Nat} (he : e ∈ Claims.nearDma) (tile : Nat) (s : State) :
    exec (e.1 tile) s = onDev s (issueDev tile (isDma e.2) dmaClear issueNear) := by
  simp only [Claims.nearDma, List.mem_cons, List.not_mem_nil, or_false] at he
  obtain rfl | rfl | rfl := he
  · rfl
  · rfl
  · rfl

theorem nearDma_dir : ∀ e ∈ Claims.nearDma, e.2 ≠ 3 := by decide

/-- The transfer of a LOAD, STORE or RED that issues, some of its runs not yet served. -/
def nearXfer (cyc left : Nat) (ws : List W64) (t : Tile) : Xfer := { xferOf t ws with left := left, issue := cyc, word := t.pc }

section
variable (p : Plat) {k : Nat} {ws : List W64} {d : Dev}

theorem issueNear_of_unmapped (h : mapped d (xferOf (tileAt d k) ws).near (xferOf (tileAt d k) ws).len = false) :
    issueNear p k ws d = modTile k (Tile.stop .badParam p.cyc) d := by
  rw [mapped, Option.isSome_eq_false_iff, Option.isNone_iff_eq_none] at h
  simp only [issueNear, h]

/-- On mapped addresses the transfer is held; what queues changes no tile, no byte and nothing of the host interface. -/
theorem issueNear_of_mapped (h : mapped d (xferOf (tileAt d k) ws).near (xferOf (tileAt d k) ws).len = true) :
    ∃ left, (issueNear p k ws d).unqueued = (modTile k
      (holdXfer (nearXfer p.cyc left ws (tileAt d k)) (natLe 8 (xferOf (tileAt d k) ws).near)) d).unqueued := by
  obtain ⟨runs, hruns⟩ := Option.isSome_iff_exists.mp h
  refine ⟨runs.length, ?_⟩
  simp only [issueNear, hruns]
  split
  · rfl
  · exact unqueued_enqueueXfer _ _ _ _ _ _

end

theorem nearDmaIsHeldAtIssue : Claims.NearDmaIsHeldAtIssue := by
  intro e he s tile k h t0 w near la n
  have hdir : dmaDir w = e.2 := dma_word h
  have hnear : (xferOf t0 t0.word).near = near := xferOf_near (hdir ▸ nearDma_dir e he) t0
  have hexec := exec_issueDev h (exec_nearDma_def he tile s)
  have hmapped : mapped (modTile k (afterIssue s.plat.cyc) s.dev)
      (xferOf (tileAt (modTile k (afterIssue s.plat.cyc) s.dev) k) t0.word).near
      (xferOf (tileAt (modTile k (afterIssue s.plat.cyc) s.dev) k) t0.word).len = mapped s.dev near n := by
    rw [tileAt_modTile_same, xferOf_afterIssue, hnear, mapped_modTile]
    rfl
  refine ⟨fun hmap => ?held, fun hmap => ?stopped⟩
  case held =>
    obtain ⟨left, hheld⟩ := issueNear_of_mapped s.plat (hmapped.trans hmap)
    obtain ⟨htiles, hmem, hhost⟩ := unqueued_eq_iff.mp hheld
    refine ⟨_, nearXfer s.plat.cyc left t0.word (afterIssue s.plat.cyc t0), hexec, ?_⟩
    have htile := (tileAt_congr htiles k).trans (tileAt_modTile_same _ _ _)
    rw [tileAt_modTile_same] at htile
    rw [htile, holdXfer, nearXfer, xferOf_afterIssue, afterIssue_dma]
    refine ⟨rfl, rfl, rfl, hdir, hnear, rfl, rfl, rfl, rfl, hdir ▸ rfl, afterIssue_sram _ _, fun j hj => ?_, hmem, hhost, rfl, rfl⟩
    rw [tileAt_congr htiles, tileAt_modTile_other _ hj, tileAt_modTile_other _ hj]
  case stopped =>
    rw [issueNear_of_unmapped s.plat (hmapped.trans hmap)] at hexec
    refine ⟨_, hexec, onlyTile_modTile_modTile _ _ _ _, ?_⟩
    rw [tileAt_modTile_same, tileAt_modTile_same]
    exact ⟨rfl, afterIssue_dma _ _, afterIssue_sram _ _⟩

/-! ### PUSH (R198, R202) -/

theorem le_pushEnds (l : List Xfer) (c : Nat) : c ≤ l.foldl (fun a y => if y.dir = 3 then max a y.due else a) c := by
  induction l generalizing c with
  | nil => exact Nat.le_refl c
  | cons y l ih =>
    refine Nat.le_trans ?_ (ih _)
    dsimp only
    split
    · exact Nat.le_max_left _ _
    · exact Nat.le_refl c

/-- What a PUSH asks the banks for changes the jobs alone. -/
theorem pushJobs_eq (x : Xfer) (nb : Option Nat) (t : Tile) : pushJobs x nb t = { t with jobs := (pushJobs x nb t).jobs } := by
  unfold pushJobs
  cases nb with
  | none => exact addJob_eq _ _
  | some j =>
    simp only
    rw [addJob_eq, addJob_eq]

/-- The transfer of a PUSH that issues. -/
def pushXfer (cyc : Nat) (ws : List W64) (t : Tile) : Xfer := { xferOf t ws with due := pushDue cyc (dmaLen (wd ws 2)) t }

/-- What a PUSH toward a neighbour leaves of its tile; the destination its digest takes is named by the neighbour's number. -/
def pushTile (x : Xfer) (nb : Option Nat) (num : Nat) (t : Tile) : Tile := pushJobs x nb (holdXfer x (natLe 4 num ++ natLe 4 x.near) t)

/-- What a PUSH does to the device. -/
def pushDev (p : Plat) (k : Nat) (ws : List W64) (d : Dev) : Dev :=
  let t := tileAt d k
  let x := pushXfer p.cyc ws t
  let nb := neighbour d t x.rtype
  modTile k (pushTile x nb (match nb with | none => 0xFFFFFFFF | some j => (tileAt d j).number)) d

theorem exec_dmaPush_def (tile : Nat) (s : State) :
    exec (.dmaPush tile) s = onDev s (issueDev tile (isDma 3) dmaClear pushDev) := by
  have hdef : exec (.dmaPush tile) s = execDmaPush tile s := rfl
  rw [hdef]
  unfold execDmaPush pushDev pushTile pushXfer
  rfl

theorem pushTile_dma (x : Xfer) (nb : Option Nat) (num : Nat) (t : Tile) : (pushTile x nb num t).dma = t.dma ++ [x] := by
  rw [pushTile, pushJobs_eq]
  rfl

theorem pushTile_sram (x : Xfer) (nb : Option Nat) (num : Nat) (t : Tile) : (pushTile x nb num t).sram = t.sram := by
  rw [pushTile, pushJobs_eq]
  rfl

/-! ### DMA_COMPLETE (R201, R202) -/

/-- What the end of a transfer does to its tile: it is held no more, and its token, if any, is signalled. -/
def endXfer (cyc : Nat) (still : Bool) (x : Xfer) (t : Tile) : Tile :=
  let t1 := { t with dma := t.dma.filter (fun y => y.id != x.id) }.fly cyc 9 (xferEnd cyc still t x) []
  if t.dma.any (fun y => y.id == x.id) && decide (x.token < 32) then addToken x.token 1 t1 else t1

theorem endXfer_dma (cyc : Nat) (still : Bool) (x : Xfer) (t : Tile) :
    (endXfer cyc still x t).dma = t.dma.filter (fun y => y.id != x.id) := by
  unfold endXfer
  split <;> rfl

theorem endXfer_sram (cyc : Nat) (still : Bool) (x : Xfer) (t : Tile) : (endXfer cyc still x t).sram = t.sram := by
  unfold endXfer
  split <;> rfl

/-- The token of a transfer that was held counts one more. -/
theorem endXfer_tok {x : Xfer} {t : Tile} (hx : x ∈ t.dma) (htok : x.token < 32) (cyc : Nat) (still : Bool) :
    (endXfer cyc still x t).tok = tmod 0 t.tok x.token (fun n => min 65535 (n + 1)) := by
  have hheld : t.dma.any (fun y => y.id == x.id) = true := List.any_eq_true.mpr ⟨x, hx, beq_self_eq_true _⟩
  rw [endXfer, hheld, decide_eq_true htok]
  rfl

/-- The oldest transfer, once due, has its effect and leaves the tile. -/
theorem exec_dmaComplete_of_due {s : State} {tile k : Nat} {x : Xfer} {l : List Xfer} (hk : tileOf s.dev.geom tile = some k)
    (halive : s.plat.alive = true) (hphase : (tileAt s.dev k).phase ≠ .idle) (hruns : tileRuns s.dev (tileAt s.dev k) = true)
    (hdma : (tileAt s.dev k).dma = x :: l) (hdue : x.due ≤ s.plat.cyc) (hserved : x.dir = 3 ∨ x.left = 0) :
    exec (.dmaComplete tile) s = .next { s with
      dev := modTile k (endXfer s.plat.cyc (graphAt s.dev (tileAt s.dev k).handle).still x) (completeXfer s.plat k x s.dev) } := by
  have hwait : (decide (s.plat.cyc < x.due) || (x.dir != 3 && x.left != 0)) = false := by
    rw [decide_eq_false (Nat.not_lt.mpr hdue), Bool.false_or, Bool.and_eq_false_iff, bne_eq_false_iff_eq, bne_eq_false_iff_eq]
    exact hserved
  have hdef : exec (.dmaComplete tile) s = execDmaComplete tile s := rfl
  simp only [hdef, execDmaComplete, onDev_eq, hk, halive, beq_eq_false_iff_ne.mpr hphase, hruns, hdma, hwait, Bool.not_true,
    Bool.or_self, Bool.false_eq_true, if_false]
  rfl

theorem completeXfer_of_near {x : Xfer} (h : x.dir ≠ 3) (p : Plat) (k : Nat) (d : Dev) : completeXfer p k x d = d := if_neg h

theorem signalTile_sram (cyc h task : Nat) (nb : Option Nat) (tok n : Nat) (d : Dev) (i : Nat) :
    (tileAt (signalTile cyc h task nb tok n d) i).sram = (tileAt d i).sram := by
  cases nb with
  | none => rfl
  | some j =>
    simp only [signalTile]
    split
    · by_cases hi : i = j
      · rw [hi, tileAt_modTile_same, Tile.signal]
      · rw [tileAt_modTile_other _ hi]
    · rfl

/-- A PUSH that completes writes its bytes at the neighbour; the signals that follow it change no SRAM. -/
theorem completeXfer_sram {d : Dev} {k j : Nat} {x : Xfer} (hdir : x.dir = 3) (hj : neighbour d (tileAt d k) x.rtype = some j) (p : Plat) :
    (tileAt (completeXfer p k x d) j).sram = ((tileAt d j).wr x.near x.data).sram := by
  simp only [completeXfer, if_pos hdir, hj]
  rw [foldl_keeps (fun d => (tileAt d j).sram) _ (fun d a => signalTile_sram _ _ _ _ _ _ d j), tileAt_modTile_same]

theorem pushIsHeldAndDmaCompleteDelivers : Claims.PushIsHeldAndDmaCompleteDelivers := by
  intro s tile k t0 w
  refine ⟨fun h => ?push, fun x l hk halive hphase hruns hdma hdue hserved => ?complete⟩
  case push =>
    have hdir : dmaDir w = 3 := dma_word h
    have hsends : dmaDir w ≠ 0 := by rw [hdir]; decide
    refine ⟨_, pushXfer s.plat.cyc t0.word (afterIssue s.plat.cyc t0), exec_issueDev h (exec_dmaPush_def tile s),
      onlyTile_modTile_modTile _ _ _ _, ?_⟩
    rw [pushDev, tileAt_modTile_same, tileAt_modTile_same, pushTile_dma, pushTile_sram, pushXfer, xferOf_afterIssue]
    refine ⟨congrArg (· ++ _) (afterIssue_dma _ _), hdir, rfl, if_pos hdir, if_pos hdir, rfl, if_neg hsends,
      Nat.add_le_add_right (le_pushEnds _ _) _, afterIssue_sram _ _⟩
  case complete =>
    refine ⟨_, exec_dmaComplete_of_due hk halive hphase hruns hdma hdue hserved, fun y hy => ?gone, fun j hdir hj hne hbad => ?stored,
      fun hdir htok => ?token, rfl, rfl⟩
    case gone =>
      rw [tileAt_modTile_same, endXfer_dma, List.mem_filter, bne_iff_ne] at hy
      exact hy.2
    case stored =>
      rw [tileAt_modTile_other _ hne, completeXfer_sram hdir hj]
      exact storedAt_wr hbad
    case token =>
      have hheld : x ∈ t0.dma := hdma ▸ List.mem_cons_self
      rw [completeXfer_of_near hdir, tileAt_modTile_same, endXfer_tok hheld htok]
      exact ⟨onlyTile_modTile _ _ _, tget_tmod_same _ _ _ _, fun n hn => tget_tmod_other _ _ hn _⟩

/-- Settles O13: a DMA that issues appends its transfer to those its tile holds, or stops the tile where no region maps its range; an
end takes the oldest transfer from the tile, and a PUSH is then one write at the neighbour. -/
theorem transfersAreHeldPushedAndDelivered : Obligations.TransfersAreHeldPushedAndDelivered :=
  ⟨nearDmaIsHeldAtIssue, pushIsHeldAndDmaCompleteDelivers⟩

end Sys2Proof.Machine
end

section
/-! Tasks that are dispatched and end (R209, R219 to R223): what dispatching a task changes and leaves, what ending one leaves of the
device, and the guards of the commands on tasks. -/

namespace Sys2Proof.Machine

/-! ### Dispatching a task -/

theorem waiting_of_mayDispatch {p : Plat} {d : Dev} {r : Run} {g : Graph} {t : Nat} (h : mayDispatch p d r g t = true) :
    (taskAt r t).st = .waiting := by
  simp only [mayDispatch, Bool.and_eq_true, beq_iff_eq] at h
  obtain ⟨⟨-, hst⟩, -⟩ := h
  exact hst

theorem traceRec_eq (cyc cls code unit die payload : Nat) (d : Dev) :
    traceRec cyc cls code unit die payload d = { d with obs := (traceRec cyc cls code unit die payload d).obs } := by
  unfold traceRec
  split <;> rfl

/-- Dispatching a task changes the runs and the trace alone. -/
theorem dispatchTask_eq (p : Plat) (h t : Nat) (d : Dev) :
    dispatchTask p h t d = { d with runs := (dispatchTask p h t d).runs, obs := (dispatchTask p h t d).obs } := by
  cases hr : runOf d h with
  | none => simp only [dispatchTask, hr]
  | some r =>
    simp only [dispatchTask, hr, traceSluice, traceChoice]
    rw [traceRec_eq]
    split
    · rw [traceRec_eq]; rfl
    · rfl

theorem taskOf_modTask_other {t u : Nat} (hu : u ≠ t) (h : Nat) (f : TaskRun → TaskRun) (d : Dev) :
    taskOf (modTask h t f d) h u = taskOf d h u := by
  simp only [taskOf, runOf_modTask, Option.map_map]
  congr 1
  funext r
  exact tget_tmod_other _ _ hu _

theorem taskOf_dispatchTask_other {t u : Nat} (hu : u ≠ t) (p : Plat) (h : Nat) (d : Dev) :
    taskOf (dispatchTask p h t d) h u = taskOf d h u := by
  cases hr : runOf d h with
  | none => simp only [dispatchTask, hr]
  | some r =>
    simp only [dispatchTask, hr, traceChoice]
    rw [taskOf_congr (traceSluice_runs _ _ _ _ _ _)]
    split
    · rw [taskOf_congr (traceRec_runs _ _ _ _ _ _ _)]
      exact (taskOf_modRun h u (fun r => { r with tdcSluice := r.tdcSluice + 1 }) _ (fun _ => ⟨rfl, rfl, rfl⟩)).trans
        (taskOf_modTask_other hu h _ d)
    · exact taskOf_modTask_other hu h _ d

section
variable {s : State} {h t : Nat} {r : Run} {kind : List W64 → Bool}

theorem dispatchIf_of_dispatches (hd : Claims.dispatches s h t r kind) (f : Plat → Run → Graph → List W64 → Dev → Dev) :
    dispatchIf h t kind f s.plat s.dev = f s.plat r (graphAt s.dev h) (descOf (graphAt s.dev h) t) (dispatchTask s.plat h t s.dev) := by
  obtain ⟨hr, halive, hmay, hkind⟩ := hd
  simp only [dispatchIf, hr, halive, hmay, hkind, Bool.and_true, if_true]

theorem onRunning_of_runs (hd : Claims.runs s h t r kind) (f : Plat → Run → Graph → List W64 → TaskRun → Dev → Dev) :
    onRunning h t kind f s.plat s.dev = f s.plat r (graphAt s.dev h) (descOf (graphAt s.dev h) t) (taskAt r t) s.dev := by
  obtain ⟨hr, halive, hst, hpaused, hkind⟩ := hd
  simp only [onRunning, hr, halive, hst, hpaused, hkind, Option.isNone_none, beq_self_eq_true, Bool.and_true, if_true]

theorem waiting_of_dispatches (hd : Claims.dispatches s h t r kind) : (taskAt r t).st = .waiting := by
  obtain ⟨-, -, hmay, -⟩ := hd
  exact waiting_of_mayDispatch hmay

theorem not_running_of_dispatches (hd : Claims.dispatches s h t r kind) : ((taskAt r t).st == TaskSt.running) = false := by
  rw [waiting_of_dispatches hd]
  rfl

theorem startedNow_dispatchTask (hd : Claims.dispatches s h t r kind) :
    ∃ y, Claims.startedNow s { s with dev := dispatchTask s.plat h t s.dev } h t r y := by
  obtain ⟨hr, -⟩ := hd
  obtain ⟨ch, hy⟩ := taskOf_dispatchTask s.plat h t s.dev r hr
  refine ⟨_, hy, rfl, rfl, rfl, rfl, ?_⟩
  rw [dispatchTask_eq]
  exact ⟨rfl, rfl, rfl, rfl⟩

/-- A change of the task that leaves its state and its start leaves it dispatched in this run cycle. -/
theorem startedNow_modTask {d : Dev} {y : TaskRun} (hs : Claims.startedNow s { s with dev := d } h t r y) {f : TaskRun → TaskRun}
    (hf : ∀ x, (f x).st = x.st ∧ (f x).s = x.s) : Claims.startedNow s { s with dev := modTask h t f d } h t r (f y) := by
  obtain ⟨hy, hst, hss, hrest⟩ := hs
  refine ⟨?_, (hf y).1.trans hst, (hf y).2.trans hss, hrest⟩
  exact (taskOf_modTask h t f d).trans (congrArg (Option.map f) hy)

end

/-! ### What ending a task leaves of the device -/

/-- The device apart from its runs, near tier, links, trace rings and outputs. -/
def Dev.apart (d : Dev) : Dev := { d with runs := [], near := {}, links := {}, obs := {}, out := {} }

theorem tiles_of_apart {d e : Dev} (h : d.apart = e.apart) : d.tiles = e.tiles := by
  have hfield : d.apart.tiles = e.apart.tiles := by rw [h]
  exact hfield

theorem rng_of_apart {d e : Dev} (h : d.apart = e.apart) : d.rng = e.rng := by
  have hfield : d.apart.rng = e.apart.rng := by rw [h]
  exact hfield

theorem oxb_of_apart {d e : Dev} (h : d.apart = e.apart) : d.oxb = e.oxb := by
  have hfield : d.apart.oxb = e.apart.oxb := by rw [h]
  exact hfield

theorem apart_traceRec (cyc cls code unit die payload : Nat) (d : Dev) :
    (traceRec cyc cls code unit die payload d).apart = d.apart := by rw [traceRec_eq]; rfl

theorem apart_modRun (h : Nat) (f : Run → Run) (d : Dev) : (modRun h f d).apart = d.apart := rfl

theorem apart_dropAsks (h : Nat) (which : Nat → Bool) (d : Dev) : (dropAsks h which d).apart = d.apart := rfl

theorem apart_modPort (p : Nat) (f : Port → Port) (d : Dev) : (modPort p f d).apart = d.apart := by unfold Dev.apart; rfl

theorem apart_putFlit (p ftype seq : Nat) (nak : Bool) (c : Nat × Nat) (data : List Byte) (now : Nat) (d : Dev) :
    (putFlit p ftype seq nak c data now d).apart = d.apart := by unfold putFlit Dev.apart; rfl

theorem apart_sendData (p : Nat) (data : List Byte) (last : Bool) (now : Nat) (d : Dev) :
    (sendData p data last now d).apart = d.apart := by
  unfold sendData emitFlit payCredits
  rw [apart_putFlit, apart_modPort, apart_modPort]

theorem apart_drainFlits (n p now : Nat) (d : Dev) : (drainFlits n p now d).apart = d.apart := by
  induction n generalizing d with
  | zero => rfl
  | succ n ih =>
    unfold drainFlits
    simp only
    split
    · rfl
    · split
      · rfl
      · rw [ih, apart_sendData, apart_modPort]

theorem apart_sendTxn (p now : Nat) (x : Txn) (d : Dev) : (sendTxn p now x d).apart = d.apart := by
  unfold sendTxn
  split
  · rfl
  · unfold pump
    rw [apart_drainFlits, apart_modPort, apart_modPort]

theorem apart_flushGo (n now h : Nat) (d : Dev) : (flushGo n now h d).apart = d.apart := by
  induction n generalizing d with
  | zero => rfl
  | succ n ih =>
    unfold flushGo
    split
    · rfl
    · split
      · rfl
      · split
        · rfl
        · exact (ih _).trans (apart_sendTxn _ _ _ _)

theorem apart_flushEntries (now h : Nat) (d : Dev) : (flushEntries now h d).apart = d.apart := by
  unfold flushEntries
  split
  · rfl
  · exact apart_flushGo _ _ _ _

theorem apart_writeRun (x : Run2K) (data : List Byte) (d : Dev) : (writeRun x data d).apart = d.apart := by
  unfold writeRun
  split
  · rfl
  · simp only
    split <;> rfl

theorem apart_writeRuns (l : List Run2K) (data : List Byte) (d : Dev) : (writeRuns l data d).apart = d.apart := by
  induction l generalizing data d with
  | nil => rfl
  | cons x l ih => exact (ih _ _).trans (apart_writeRun _ _ _)

theorem apart_nearWrite (a : Nat) (data : List Byte) (d : Dev) : (nearWrite a data d).apart = d.apart := by
  unfold nearWrite
  split
  · rfl
  · exact apart_writeRuns _ _ _

theorem apart_lockEntry (now h t : Nat) (d : Dev) : (lockEntry now h t d).apart = d.apart := by
  unfold lockEntry
  split
  · rfl
  · split
    · rfl
    · simp only
      rw [apply_ite Dev.apart, apart_flushEntries, ite_self, apply_ite Dev.apart,
        foldl_keeps Dev.apart _ (fun d _ => apart_nearWrite _ _ d), ite_self]
      rfl

theorem apart_sendCancel (now : Nat) (desc : List W64) (d : Dev) : (sendCancel now desc d).apart = d.apart := by
  unfold sendCancel
  split
  · rfl
  · refine foldl_keeps Dev.apart _ (fun d p => ?_) _ _
    split
    · exact apart_sendTxn _ _ _ _
    · rfl

/-- A task that ends touches only its run, its requests, the links, the trace and what the part sends, unless it counts as a failure-class
event (R361). -/
theorem apart_endTaskAt {st : Nat} (hst : st ≠ stMem) (p : Plat) (h t e detail flags : Nat) (d : Dev) :
    (endTaskAt p h t e st detail flags d).apart = d.apart := by
  unfold endTaskAt
  split
  · rfl
  · simp only [if_neg hst]
    rw [apart_dropAsks, apply_ite Dev.apart, apart_sendCancel, apart_modRun, ite_self, apart_lockEntry, traceSluice, apart_traceRec]
    rfl

/-! ### A task that ends when it is due (R209, R220) -/

section
variable {s : State} {h t : Nat} {r : Run} {d : Dev}
  (hr : runOf s.dev h = some r) (hruns : d.runs = s.dev.runs) (hgraphs : d.graphs = s.dev.graphs)
  (hdue : Claims.notEarly s h t r (runCycle s.plat r))
include hr hruns hgraphs hdue

/-- An end that is not early breaks nothing, also where the task's own effect on the device comes before it. -/
theorem finishTask_of_notEarly (st detail flags : Nat) :
    finishTask s.plat h t st detail flags d = endTaskAt s.plat h t (runCycle s.plat r) st detail flags d := by
  have hr' : runOf d h = some r := (runOf_congr hruns h).trans hr
  have hg : graphAt d h = graphAt s.dev h := by rw [graphAt, graphAt, hgraphs]
  simp only [finishTask, finishTaskAt, hr', hg]
  refine if_neg fun hbreak => ?_
  simp only [Bool.and_eq_true, bne_iff_ne, Bool.not_eq_true'] at hbreak
  obtain ⟨⟨⟨⟨⟨hstill, htimed⟩, hdecl⟩, -⟩, hatDispatch⟩, hlate⟩ := hbreak
  rcases hdue with h1 | h1 | h1 | h1 | h1
  · exact absurd (h1.symm.trans hstill) (by decide)
  · exact absurd (h1.symm.trans htimed) (by decide)
  · exact hdecl h1
  · exact hlate h1
  · exact absurd (hatDispatch.symm.trans h1) (by decide)

theorem endedWith_finishTask (st detail flags : Nat) :
    Claims.endedWith s { s with dev := finishTask s.plat h t st detail flags d } h t r (st, detail) := by
  have hended := taskOf_endTaskAt s.plat h t (runCycle s.plat r) st detail flags d r ((runOf_congr hruns h).trans hr)
  rw [← finishTask_of_notEarly hr hruns hgraphs hdue] at hended
  exact ⟨_, hended, rfl, rfl, rfl, rfl, rfl, rfl⟩

theorem apart_finishTask {st : Nat} (hst : st ≠ stMem) (detail flags : Nat) :
    (finishTask s.plat h t st detail flags d).apart = d.apart := by
  rw [finishTask_of_notEarly hr hruns hgraphs hdue, apart_endTaskAt hst]

end

end Sys2Proof.Machine
end

section
/-! MARK tasks (R238, R347, R355, R357): the advance of the data cursor and of the streams, MARK SNAPSHOT without a policy, and O22 from
them. -/

namespace Sys2Proof.Machine

/-! ### The data cursor and the streams (R355, R238) -/

/-- What MARK CURSOR adds to a word of the cursor: 1 to STEP, the descriptor's numbers to SAMPLE and STREAM[0-7]. -/
def cursorGain (desc : List W64) (n : Nat) : W64 :=
  if n = 0 then 1#64 else if n = 3 then word desc 2 else if 4 ≤ n ∧ n < 12 then word desc (n - 1) else 0#64

theorem cursorGain_stream (desc : List W64) {j : Nat} (hj : j < 8) : cursorGain desc (4 + j) = word desc (3 + j) := by
  rw [cursorGain, if_neg (by omega), if_neg (by omega), if_pos (by omega), show 4 + j - 1 = 3 + j by omega]

theorem tget_addTo (c : Table W64) (k n : Nat) (v : W64) :
    tget 0#64 (tset 0#64 c k (tget 0#64 c k + v)) n = tget 0#64 c n + if n = k then v else 0#64 := by
  rw [tget_tset]
  by_cases hn : n = k
  · rw [if_pos hn, if_pos hn, hn]
  · rw [if_neg hn, if_neg hn, BitVec.add_zero]

theorem tget_addToRange (v : Nat → W64) (c : Table W64) (m n : Nat) :
    tget 0#64 ((List.range m).foldl (fun c j => tset 0#64 c (4 + j) (tget 0#64 c (4 + j) + v j)) c) n =
      tget 0#64 c n + if 4 ≤ n ∧ n < 4 + m then v (n - 4) else 0#64 := by
  induction m with
  | zero => rw [if_neg (by omega), BitVec.add_zero]; rfl
  | succ m ih =>
    rw [List.range_succ, List.foldl_append, List.foldl_cons, List.foldl_nil, tget_addTo, ih, BitVec.add_assoc]
    congr 1
    by_cases hn : n = 4 + m
    · rw [if_neg (by omega), if_pos hn, if_pos (by omega), BitVec.zero_add, show n - 4 = m by omega]
    · rw [if_neg hn, BitVec.add_zero]
      by_cases hm : 4 ≤ n ∧ n < 4 + m
      · rw [if_pos hm, if_pos (by omega)]
      · rw [if_neg hm, if_neg (by omega)]

theorem tget_advanceCursor (desc : List W64) (d : Dev) (n : Nat) :
    tget 0#64 (advanceCursor desc d).oxb.cursor n = tget 0#64 d.oxb.cursor n + cursorGain desc n := by
  have hcursor : (advanceCursor desc d).oxb.cursor = (List.range 8).foldl
      (fun c j => tset 0#64 c (4 + j) (tget 0#64 c (4 + j) + word desc (3 + j)))
      (tset 0#64 (tset 0#64 d.oxb.cursor 0 (tget 0#64 d.oxb.cursor 0 + 1#64)) 3
        (tget 0#64 (tset 0#64 d.oxb.cursor 0 (tget 0#64 d.oxb.cursor 0 + 1#64)) 3 + word desc 2)) := rfl
  rw [hcursor, tget_addToRange (fun j => word desc (3 + j)), tget_addTo, tget_addTo, BitVec.add_assoc, BitVec.add_assoc]
  congr 1
  unfold cursorGain
  by_cases h0 : n = 0
  · rw [if_pos h0, if_pos h0, if_neg (by omega), if_neg (by omega), BitVec.add_zero, BitVec.add_zero]
  · rw [if_neg h0, if_neg h0, BitVec.zero_add]
    by_cases h3 : n = 3
    · rw [if_pos h3, if_pos h3, if_neg (by omega), BitVec.add_zero]
    · rw [if_neg h3, if_neg h3, BitVec.zero_add]
      by_cases h4 : 4 ≤ n ∧ n < 12
      · rw [if_pos h4, if_pos h4, show 3 + (n - 4) = n - 1 by omega]
      · rw [if_neg h4, if_neg h4]

theorem tget_mapValues {α : Type} {x : α} {f : α → α} (hf : f x = x) (m : Table α) (n : Nat) :
    tget x (m.map (fun e => (e.1, f e.2))) n = f (tget x m n) := by
  induction m with
  | nil => exact hf.symm
  | cons e m ih =>
    simp only [List.map_cons, tget]
    split
    · rfl
    · exact ih

theorem streamAt_advanceCursor (desc : List W64) (d : Dev) (n : Nat) :
    streamAt (advanceCursor desc d) n = if (streamAt d n).adv then
      { streamAt d n with step := (streamAt d n).step + 1#64, next := 0#64 } else streamAt d n :=
  tget_mapValues (f := fun x : RngStream => if x.adv then { x with step := x.step + 1#64, next := 0#64 } else x) rfl d.rng n

/-- What MARK CURSOR does to the device before it ends: the advance, and the sample of T_step (R361). -/
def cursorAdvanced (p : Plat) (desc : List W64) (d : Dev) : Dev := measureStep p.now (advanceCursor desc d)

theorem advanceCursor_eq (desc : List W64) (d : Dev) :
    advanceCursor desc d = { d with oxb := (advanceCursor desc d).oxb, rng := (advanceCursor desc d).rng } := rfl

/-- The advance touches Oxbow and the streams alone. -/
theorem cursorAdvanced_eq (p : Plat) (desc : List W64) (d : Dev) :
    cursorAdvanced p desc d = { d with oxb := (cursorAdvanced p desc d).oxb, rng := (advanceCursor desc d).rng } := by
  rw [cursorAdvanced, measureStep, onOxb, advanceCursor_eq]

theorem cursorAdvanced_runs (p : Plat) (desc : List W64) (d : Dev) : (cursorAdvanced p desc d).runs = d.runs := by
  rw [cursorAdvanced_eq]

theorem cursorAdvanced_graphs (p : Plat) (desc : List W64) (d : Dev) : (cursorAdvanced p desc d).graphs = d.graphs := by
  rw [cursorAdvanced_eq]

theorem cursorAdvanced_tiles (p : Plat) (desc : List W64) (d : Dev) : (cursorAdvanced p desc d).tiles = d.tiles := by
  rw [cursorAdvanced_eq]

theorem streamAt_cursorAdvanced (p : Plat) (desc : List W64) (d : Dev) (n : Nat) :
    streamAt (cursorAdvanced p desc d) n = streamAt (advanceCursor desc d) n := by
  rw [streamAt, streamAt, cursorAdvanced_eq]

theorem tget_cursorAdvanced (p : Plat) (desc : List W64) (d : Dev) (n : Nat) :
    tget 0#64 (cursorAdvanced p desc d).oxb.cursor n = tget 0#64 d.oxb.cursor n + cursorGain desc n := by
  have hcursor : (cursorAdvanced p desc d).oxb.cursor = (advanceCursor desc d).oxb.cursor := by
    simp only [cursorAdvanced, measureStep, onOxb_oxb]
    split <;> rfl
  rw [hcursor, tget_advanceCursor]

/-! ### The three commands -/

theorem exec_markCursor_def (h t : Nat) (s : State) : exec (.markCursor h t) s = execMarkCursor h t s := rfl

theorem exec_markLockstep_def (h t : Nat) (s : State) : exec (.markLockstep h t) s = execMarkLockstep h t s := rfl

theorem exec_markSnapshot_def (h t : Nat) (smart : BitVec 4) (s : State) :
    exec (.markSnapshot h t smart) s = execMarkSnapshot h t smart s := rfl

section
variable {s : State} {h t : Nat} {r : Run}

theorem exec_mark_of_dispatches {c : Nat → Nat → Instr} {sub : Nat} (hc : (c, sub) ∈ [(Instr.markCursor, 1), (Instr.markLockstep, 2)])
    (hd : Claims.dispatches s h t r (fun w => dKind w == 5 && dSub w == sub)) :
    exec (c h t) s = .next { s with dev := dispatchTask s.plat h t s.dev } := by
  have ⟨hr, _⟩ := hd
  have hwaits := not_running_of_dispatches hd
  simp only [List.mem_cons, Prod.mk.injEq, List.not_mem_nil, or_false] at hc
  obtain ⟨rfl, rfl⟩ | ⟨rfl, rfl⟩ := hc
  · simp only [exec_markCursor_def, execMarkCursor, onDev_eq, hr, hwaits, Bool.false_eq_true, if_false, dispatchIf_of_dispatches hd]
  · simp only [exec_markLockstep_def, execMarkLockstep, onDev_eq, hr, hwaits, Bool.false_eq_true, if_false,
      dispatchIf_of_dispatches hd]

theorem exec_markCursor_of_due (hrun : Claims.runs s h t r (fun w => dKind w == 5 && dSub w == 1))
    (hdue : (taskAt r t).s + 16 ≤ runCycle s.plat r) :
    exec (.markCursor h t) s = .next { s with
      dev := finishTask s.plat h t stOk 0 0 (cursorAdvanced s.plat (descOf (graphAt s.dev h) t) s.dev) } := by
  have ⟨hr, _, hst, _⟩ := hrun
  simp only [exec_markCursor_def, execMarkCursor, onDev_eq, hr, hst, beq_self_eq_true, if_true, onRunning_of_runs hrun,
    if_neg (Nat.not_lt.mpr hdue), cursorAdvanced]

theorem exec_markLockstep_of_due (hrun : Claims.runs s h t r (fun w => dKind w == 5 && dSub w == 2))
    (hdue : (taskAt r t).s + 32 ≤ runCycle s.plat r) :
    exec (.markLockstep h t) s = .next { s with dev := flushEntries s.plat.now h (finishTask s.plat h t stOk 0 0 s.dev) } := by
  have ⟨hr, _, hst, _⟩ := hrun
  simp only [exec_markLockstep_def, execMarkLockstep, onDev_eq, hr, hst, beq_self_eq_true, if_true, onRunning_of_runs hrun,
    if_neg (Nat.not_lt.mpr hdue)]

/-! ### MARK SNAPSHOT without a policy (R357, R359) -/

/-- The device after a MARK SNAPSHOT was dispatched: it holds the cursor's STEP. -/
def snapshotBegun (p : Plat) (h t : Nat) (d : Dev) : Dev :=
  modTask h t (fun x => { x with work := { x.work with markStep := cursorStep (dispatchTask p h t d).oxb } }) (dispatchTask p h t d)

/-- The device after a MARK SNAPSHOT that waits for nothing: PARITY is as its descriptor says, and the mark has passed its stages. -/
def snapshotPassed (h t : Nat) (d : Dev) : Dev :=
  modTask h t (fun x => { x with work := { x.work with markStage := 3 } })
    (onOxb (fun o => { o with parity := bit (word (descOf (graphAt d h) t) 2) 0 }) d)

theorem markGo_of_noPolicy {d : Dev} (hr : runOf d h = some r) (hpolicy : policyOn d.oxb = none) (n : Nat) (p : Plat) (t : Nat)
    (smart : BitVec 4) : markGo (n + 1) p h t smart d = snapshotPassed h t d := by
  simp only [markGo, hr, hpolicy]
  rfl

theorem snapshotBegun_eq (p : Plat) (h t : Nat) (d : Dev) :
    snapshotBegun p h t d = { d with runs := (snapshotBegun p h t d).runs, obs := (snapshotBegun p h t d).obs } := by
  unfold snapshotBegun
  rw [dispatchTask_eq]
  rfl

/-- The task's predecessors stand in the run of a MARK SNAPSHOT just dispatched as they stood before. -/
theorem runOf_snapshotBegun (p : Plat) {d : Dev} (hr : runOf d h = some r) (t : Nat) :
    ∃ r', runOf (snapshotBegun p h t d) h = some r' ∧ ∀ u, u ≠ t → taskAt r' u = taskAt r u := by
  have hother : ∀ u, u ≠ t → taskOf (snapshotBegun p h t d) h u = some (taskAt r u) := fun u hu => by
    rw [snapshotBegun, taskOf_modTask_other hu, taskOf_dispatchTask_other hu, taskOf, hr]
    rfl
  cases hr' : runOf (snapshotBegun p h t d) h with
  | none => exact absurd (hother (t + 1) (Nat.succ_ne_self t)) (by simp [taskOf, hr'])
  | some r' => exact ⟨r', rfl, fun u hu => by simpa [taskOf, hr'] using hother u hu⟩

theorem exec_markSnapshot_of_dispatches (hd : Claims.dispatches s h t r (fun w => dKind w == 5 && dSub w == 0))
    (hpolicy : policyOn s.dev.oxb = none)
    (hpreds : (preds (graphAt s.dev h) t).all (fun u => (taskAt r u).st == .ended) = true) (smart : BitVec 4) :
    exec (.markSnapshot h t smart) s = .next { s with dev := snapshotPassed h t (snapshotBegun s.plat h t s.dev) } := by
  have ⟨hr, _⟩ := hd
  have hwaits := not_running_of_dispatches hd
  have hkeeps := snapshotBegun_eq s.plat h t s.dev
  obtain ⟨r', hr', hother⟩ := runOf_snapshotBegun s.plat hr t
  have hpreds' : (preds (graphAt (snapshotBegun s.plat h t s.dev) h) t).all (fun u => (taskAt r' u).st == .ended) = true := by
    rw [hkeeps]
    refine List.all_eq_true.mpr fun u hu => ?_
    have hended := List.all_eq_true.mp hpreds u hu
    have hne : u ≠ t := fun hut => by
      rw [hut, waiting_of_dispatches hd] at hended
      cases hended
    rw [hother u hne]
    exact hended
  have hpolicy' : policyOn (snapshotBegun s.plat h t s.dev).oxb = none := by rw [hkeeps]; exact hpolicy
  have hgo := markGo_of_noPolicy hr' hpolicy' 5 s.plat t smart
  unfold snapshotBegun at hr' hpreds' hgo
  simp only [exec_markSnapshot_def, execMarkSnapshot, onDev_eq, hr, hwaits, Bool.false_eq_true, if_false, dispatchIf_of_dispatches hd,
    hr', hpreds', if_true, hgo]
  rfl

theorem startedNow_snapshotPassed {kind : List W64 → Bool} (hd : Claims.dispatches s h t r kind) :
    ∃ y, Claims.startedNow s { s with dev := snapshotPassed h t (snapshotBegun s.plat h t s.dev) } h t r y ∧ y.work.markStage = 3 ∧
      y.work.markStep = cursorStep s.dev.oxb := by
  obtain ⟨y, hy⟩ := startedNow_dispatchTask hd
  have hbegun : Claims.startedNow s { s with dev := snapshotBegun s.plat h t s.dev } h t r _ :=
    startedNow_modTask hy (fun _ => ⟨rfl, rfl⟩)
  exact ⟨_, startedNow_modTask (d := onOxb _ _) hbegun (fun _ => ⟨rfl, rfl⟩), rfl, by rw [dispatchTask_eq]⟩

end

/-- Settles O22: MARK CURSOR and MARK LOCKSTEP are the dispatch of their task and, when their cycles are over, its end, before which the
cursor and the streams advance; MARK SNAPSHOT without a policy passes its stages in the step that dispatches it. -/
theorem marksRunAndEnd : Obligations.MarksRunAndEnd := by
  intro s h t r
  refine ⟨fun c sub hc hd => ?dispatched, fun hd hpolicy hpreds smart => ?snapshot, fun hrun hdue hlen => ?cursor,
    fun hrun hdue hlen => ?lockstep⟩
  case dispatched =>
    obtain ⟨y, hy⟩ := startedNow_dispatchTask hd
    refine ⟨_, y, exec_mark_of_dispatches hc hd, hy, ?_⟩
    rw [dispatchTask_eq]
    exact ⟨rfl, rfl⟩
  case snapshot =>
    obtain ⟨y, hy, hstage, hstep⟩ := startedNow_snapshotPassed hd
    refine ⟨_, y, exec_markSnapshot_of_dispatches hd hpolicy hpreds smart, hy, hstage, hstep, ?_⟩
    rw [snapshotBegun_eq]
    exact ⟨rfl, rfl⟩
  case cursor =>
    have hruns := cursorAdvanced_runs s.plat (descOf (graphAt s.dev h) t) s.dev
    have hgraphs := cursorAdvanced_graphs s.plat (descOf (graphAt s.dev h) t) s.dev
    have hended := endedWith_finishTask hrun.1 hruns hgraphs hdue stOk 0 0
    have hapart := apart_finishTask hrun.1 hruns hgraphs hdue (st := stOk) (by decide) 0 0
    have hcursor := tget_cursorAdvanced s.plat (descOf (graphAt s.dev h) t) s.dev
    rw [← oxb_of_apart hapart] at hcursor
    refine ⟨_, exec_markCursor_of_due hrun hlen, hended, hcursor 0, (hcursor 1).trans (BitVec.add_zero _),
      (hcursor 2).trans (BitVec.add_zero _), hcursor 3, fun j hj => ?stream, fun n => ?rng,
      (tiles_of_apart hapart).trans (cursorAdvanced_tiles _ _ _), rfl⟩
    case stream => rw [hcursor, cursorGain_stream _ hj]
    case rng => rw [← streamAt_advanceCursor, ← streamAt_cursorAdvanced s.plat, streamAt, streamAt, rng_of_apart hapart]
  case lockstep =>
    obtain ⟨y, hy, hend⟩ := endedWith_finishTask (d := s.dev) hrun.1 rfl rfl hdue stOk 0 0
    have hapart := (apart_flushEntries s.plat.now h _).trans
      (apart_finishTask (d := s.dev) hrun.1 rfl rfl hdue (st := stOk) (by decide) 0 0)
    exact ⟨_, exec_markLockstep_of_due hrun hlen, ⟨y, (taskOf_flushEntries _ _ _ _).trans hy, hend⟩, oxb_of_apart hapart,
      tiles_of_apart hapart, rfl⟩

end Sys2Proof.Machine
end
